-- ==== Sys2Proof/Word.lean ====
section
/-! DEFINITION. The words of the Ricfel LD-24: bytes of frames and blocks, and the 16-bit check register. -/

namespace Sys2Proof

/-- One byte of a frame, of a master block or of a cartridge block. -/
abbrev Byte := BitVec 8

/-- The register of a CRC-16 (R181, R82). -/
abbrev Check := BitVec 16

/-- The number of one of the 24 duplication bays, DB0 to DB23 (R69). -/
abbrev BayId := Fin 24

end Sys2Proof
end

