-- ==== Sys2Proof/Config.lean ====
section
/-! DEFINITION. The kinds of thing the LD-24 names, the content of a directory block, and values the manual leaves free. -/

namespace Sys2Proof

/-- Cartridge kind: S, of 32,768 blocks, or L, of 65,536 blocks (00_scope.md, R71). -/
inductive Kind where
  | s
  | l
deriving DecidableEq, Repr

/-- Medium of a title entry or of a reading-list item (R1, R33). -/
inductive Medium where
  | audio
  | ebraille
  | embossed
deriving DecidableEq, Repr

/-- The three values that identify a title entry (R1). -/
structure TitleKey where
  title   : Nat
  medium  : Medium
  edition : Nat
deriving DecidableEq, Repr

/-- One line of the directory listing: what R86 gives for each part. -/
structure DirectoryPart where
  key   : TitleKey
  first : Nat
  count : Nat
  start : Nat
deriving DecidableEq, Repr

/-- The content of one directory block (R86): the header and listing, the volume table of one part, or fill. -/
inductive DirectoryBlock where
  | header (serial : Nat) (kind : Kind) (day : Nat) (listing : List DirectoryPart)
  | volumes (breaks : List Nat)
  | fill
deriving DecidableEq, Repr

/-- FREE VALUE (log 7). The bytes of a directory block that is not fill: R86 gives what the block holds, and no file of the
spec gives how those values are laid out in bytes. Nothing may be proved about the bytes themselves. -/
opaque Config.directoryImage : DirectoryBlock → List Byte

/-- FREE VALUE (log 35). Whether a cut-off that is due falls between the two seals of a scan: R156 admits both orders. The argument is how
many times this choice has been made. -/
opaque Config.cutoffBetween : Nat → Bool

/-- FREE VALUE (log 36). The days overdue of a loan marked overdue on a day before its due day, the clock having been set back: R164 gives
today less the due day, and no value when that is negative. The arguments are today and the due day. -/
opaque Config.negativeDays : Nat → Nat → Nat

end Sys2Proof
end

