-- ==== Sys2Proof/Syntax.lean ====
section
/-! DEFINITION. The commands of the LD-24: one constructor for each row of spec/opcode_table.json, with its operands. -/

namespace Sys2Proof

/-- A frame on the host link between its SYNC and its CHECK, less LENGTH, which is the number of body bytes (R181). -/
structure Frame where
  kind : Byte
  tag  : Byte
  body : List Byte
deriving DecidableEq, Repr

/-- How a master store read completes (R23). -/
inductive ReadResult where
  | data (block : List Byte)
  | mediaError
deriving DecidableEq, Repr

/-- The block write that an acknowledgement answers (R82): its bay, and the bay's own number of the write (log 34). -/
structure BlockWrite where
  bay   : BayId
  write : Nat
deriving DecidableEq, Repr

/-- One command of the LD-24. A host request carries the tag and the body of its frame: the body's fields are read, and its
length is checked, when the request is served (R184, R192, R193). The other rows are the events that the part senses on its
own lines, its timers' expiries, its resets and its own selection step. -/
inductive Instr where
  /-- CLOCK_SET (R151): Host request that sets the service day and minute, marks the clock set, and runs any sweep, batch close or creation, and container dissolution that the new time brings. -/
  | clockSet (tag : Byte) (body : List Byte)
  /-- CUTOFF_SET (R152): Host request that replaces the cut-off list with 0 to 4 sorted, merged minutes. -/
  | cutoffSet (tag : Byte) (body : List Byte)
  /-- LOAN_PERIOD_SET (R161): Host request that sets the clamped cartridge and copy loan periods. -/
  | loanPeriodSet (tag : Byte) (body : List Byte)
  /-- SUPPLY_LEVEL_SET (R97): Host request that sets the rack supply threshold level, clamped to 7, and resets the sample count. -/
  | supplyLevelSet (tag : Byte) (body : List Byte)
  /-- SELECTION_HOLD (R39): Host request that makes the selection setting HELD. -/
  | selectionHold (tag : Byte) (body : List Byte)
  /-- SELECTION_RELEASE (R39): Host request that makes the selection setting RELEASED. -/
  | selectionRelease (tag : Byte) (body : List Byte)
  /-- TITLE_ENTER (R3): Host request that checks and creates a SURVEYING title entry, queues its survey and retires any READY entry of the same title and medium. -/
  | titleEnter (tag : Byte) (body : List Byte)
  /-- TITLE_REMOVE (R7): Host request that deletes a title entry or makes it RETIRING, ending its survey if it is the survey queue head. -/
  | titleRemove (tag : Byte) (body : List Byte)
  /-- TITLE_QUERY (R8): Host request that reports a title entry's fields and a window of its fill map. -/
  | titleQuery (tag : Byte) (body : List Byte)
  /-- PATRON_ENTER (R26): Host request that creates or updates a patron record with clamped allowances and may append the patron to the eligibility queue. -/
  | patronEnter (tag : Byte) (body : List Byte)
  /-- PATRON_REMOVE (R31): Host request that deletes an idle patron together with its reading list and hold entries. -/
  | patronRemove (tag : Byte) (body : List Byte)
  /-- PATRON_SUSPEND (R29): Host request that suspends a patron and releases its reserved copies to hold service. -/
  | patronSuspend (tag : Byte) (body : List Byte)
  /-- PATRON_RESUME (R30): Host request that makes a patron ACTIVE or OVERDUE HOLD according to its overdue count. -/
  | patronResume (tag : Byte) (body : List Byte)
  /-- PATRON_QUERY (R32): Host request that reports a patron record. -/
  | patronQuery (tag : Byte) (body : List Byte)
  /-- SHIP_NOW (R36): Host request that appends an ACTIVE patron without an open shipment to the eligibility queue, whatever its mode. -/
  | shipNow (tag : Byte) (body : List Byte)
  /-- LIST_ADD (R37): Host request that inserts a WAITING item into a patron's reading list. -/
  | listAdd (tag : Byte) (body : List Byte)
  /-- LIST_DROP (R38): Host request that deletes a reading-list item and any hold entry of it. -/
  | listDrop (tag : Byte) (body : List Byte)
  /-- LIST_QUERY (R38): Host request that reports a patron's reading list. -/
  | listQuery (tag : Byte) (body : List Byte)
  /-- COPY_ENTER (R120): Host request that creates or replaces a copy record on SHELF and runs hold service for it. -/
  | copyEnter (tag : Byte) (body : List Byte)
  /-- COPY_WITHDRAW (R121): Host request that withdraws a copy that is on SHELF. -/
  | copyWithdraw (tag : Byte) (body : List Byte)
  /-- HOLD_QUERY_QUEUE (R130): HOLD QUERY form 0, reporting a title's copy counts and its hold queue entries. -/
  | holdQueryQueue (tag : Byte) (body : List Byte)
  /-- HOLD_QUERY_COPIES (R131): HOLD QUERY form 1, listing the copies of a title from a start copy id. -/
  | holdQueryCopies (tag : Byte) (body : List Byte)
  /-- PICK_LIST (R129): Host request that reports the pick list from a start position. -/
  | pickList (tag : Byte) (body : List Byte)
  /-- SHIPMENT_QUERY (R51): Host request that reports a shipment with its job and copy line states. -/
  | shipmentQuery (tag : Byte) (body : List Byte)
  /-- SHIPMENT_CANCEL (R50): Host request that undoes a shipment whose jobs are all QUEUED and that has no container. -/
  | shipmentCancel (tag : Byte) (body : List Byte)
  /-- JOB_QUERY (R67): JOB QUERY naming a job number from 1 to 65,535, reporting that job. -/
  | jobQuery (tag : Byte) (body : List Byte)
  /-- JOB_QUERY_QUEUE (R67): JOB QUERY with job number 0, listing the job queue from a start position. -/
  | jobQueryQueue (tag : Byte) (body : List Byte)
  /-- BAY_QUERY (R95): BAY QUERY naming a single bay, reporting that bay's fields. -/
  | bayQuery (tag : Byte) (body : List Byte)
  /-- BAY_QUERY_RACK (R95): BAY QUERY with bay 255, reporting the state, occupant and job of every bay. -/
  | bayQueryRack (tag : Byte) (body : List Byte)
  /-- BAY_SERVICE_OUT (R94): BAY SERVICE with action OUT, taking an EMPTY bay out of service. -/
  | bayServiceOut (tag : Byte) (body : List Byte)
  /-- BAY_SERVICE_IN (R94): BAY SERVICE with action IN, returning an OUT OF SERVICE bay to EMPTY and identifying any cartridge present. -/
  | bayServiceIn (tag : Byte) (body : List Byte)
  /-- CARTRIDGE_QUERY_RECORD (R112): CARTRIDGE QUERY form 0, reporting one cartridge record. -/
  | cartridgeQueryRecord (tag : Byte) (body : List Byte)
  /-- CARTRIDGE_QUERY_SUMMARY (R113): CARTRIDGE QUERY form 1, reporting registry state counts and spare counts for each kind. -/
  | cartridgeQuerySummary (tag : Byte) (body : List Byte)
  /-- CARTRIDGE_QUERY_SEARCH (R114): CARTRIDGE QUERY form 2, searching cartridge records by content list. -/
  | cartridgeQuerySearch (tag : Byte) (body : List Byte)
  /-- CARTRIDGE_WITHDRAW (R115): Host request that withdraws a BLANK, RETURNED, FOULED or QUARANTINED cartridge. -/
  | cartridgeWithdraw (tag : Byte) (body : List Byte)
  /-- PACK_SCAN (R137): Relayed scan that checks an item and places it in its shipment's container, or refuses it, including as recalled. -/
  | packScan (tag : Byte) (body : List Byte)
  /-- CONTAINER_QUERY (R148): CONTAINER QUERY naming a container number, reporting that container. -/
  | containerQuery (tag : Byte) (body : List Byte)
  /-- CONTAINER_QUERY_SHIPMENT (R148): CONTAINER QUERY with container number 0, reporting a shipment's container list. -/
  | containerQueryShipment (tag : Byte) (body : List Byte)
  /-- BATCH_QUERY (R164): BATCH QUERY naming a batch number, reporting that batch and its containers. -/
  | batchQuery (tag : Byte) (body : List Byte)
  /-- BATCH_QUERY_TABLE (R164): BATCH QUERY with batch number 0, reporting the clock, the cut-off list and every batch. -/
  | batchQueryTable (tag : Byte) (body : List Byte)
  /-- BATCH_RELEASE (R157): Host report of hand-over that releases a CLOSED batch, opening loans and freeing shipments. -/
  | batchRelease (tag : Byte) (body : List Byte)
  /-- LOAN_QUERY_ITEM (R164): LOAN QUERY form 0, reporting the loan of one item. -/
  | loanQueryItem (tag : Byte) (body : List Byte)
  /-- LOAN_QUERY_PATRON (R164): LOAN QUERY form 1, listing a patron's loans. -/
  | loanQueryPatron (tag : Byte) (body : List Byte)
  /-- LOAN_WRITE_OFF (R163): Host request that closes a loan and withdraws its item. -/
  | loanWriteOff (tag : Byte) (body : List Byte)
  /-- RETURN_SCAN (R166): Relayed return-desk scan that classifies an item and acts on its loan and state. -/
  | returnScan (tag : Byte) (body : List Byte)
  /-- RECALL_SET (R176): Host request that replaces the fields of a recall filter slot and zeroes its match count. -/
  | recallSet (tag : Byte) (body : List Byte)
  /-- RECALL_CLEAR (R177): Host request that empties one recall slot, or every slot. -/
  | recallClear (tag : Byte) (body : List Byte)
  /-- COUNTERS_READ (R179): Host request that reports the classification counters and the recall slots. -/
  | countersRead (tag : Byte) (body : List Byte)
  /-- COUNTERS_CLEAR (R180): Host request that zeroes the classification counters and the match counts. -/
  | countersClear (tag : Byte) (body : List Byte)
  /-- SUMMARY_READ (R188): Host request that reports and clears the event flags, changed marks, bay mask, link error count and attention latch. -/
  | summaryRead (tag : Byte) (body : List Byte)
  /-- CONTROLLER_RESET (R189): Host request that readies an OK reply and stops service until the controller reset takes place. -/
  | controllerReset (tag : Byte) (body : List Byte)
  /-- RECORDS_CLEAR (R191): Host request that empties every retained table and restores defaults when all bays are idle. -/
  | recordsClear (tag : Byte) (body : List Byte)
  /-- UNKNOWN_KIND (R184): A head request whose kind is not a request code, answered UNKNOWN KIND. -/
  | unknownKind (kind tag : Byte) (body : List Byte)
  /-- GOOD_FRAME (R183): A frame received whole, whose CHECK is verified, which is queued for intake or refused FULL. -/
  | goodFrame (kind tag : Byte) (body : List Byte) (check : Check)
  /-- FRAME_LENGTH_DISCARD (R182): A frame whose LENGTH exceeds 1,020 is discarded as soon as both LENGTH bytes have arrived. -/
  | frameLengthDiscard (length : BitVec 16)
  /-- FRAME_GAP_TIMEOUT (R182): A gap of more than 10 ms between bytes of a frame discards the partial frame. -/
  | frameGapTimeout
  /-- FRAME_SENT (R181): The last byte of a transmitted frame has gone, and the next ready frame starts. -/
  | frameSent
  /-- CONTROLLER_RESET_TAKEN (R189): Once the CONTROLLER RESET reply has been sent, the controller reset runs every block's reset action. -/
  | controllerResetTaken
  /-- RESET_LINE (R189): Assertion of the reset line performs a controller reset at once. -/
  | resetLine
  /-- POWER_UP (R190): Main power is applied: record memory is checked, module presence is sensed and every block takes its power-up actions. -/
  | powerUp (found : Option Nat) (modules sensed : BitVec 24)
  /-- MAIN_POWER_FALL (R190): Main power falls, and the change in progress is completed on the hold-up supply. -/
  | mainPowerFall
  /-- WINDOW_START (R20): At the start of each master port window, the window is granted to a requesting bay, to the pending survey, or left idle. -/
  | windowStart
  /-- INDEX_BLOCK_READ (R10): Completion of a survey's index block read, walking the extent descriptors or faulting the entry. -/
  | indexBlockRead (result : ReadResult)
  /-- TITLE_BLOCK_READ (R12): Completion of a survey's title block read, applying the fill test and possibly reaching the survey outcome. -/
  | titleBlockRead (result : ReadResult)
  /-- FEED_READ_DATA (R81): Completion of a bay's feed read with data, which is held in its feed buffer place. -/
  | feedReadData (data : List Byte)
  /-- FEED_MEDIA_ERROR (R24): Completion of a feed read with a media error, marking the entry SUSPECT and cancelling its jobs. -/
  | feedMediaError
  /-- CARTRIDGE_INSERTED (R71): A cartridge inserted into an EMPTY bay starts identification and the 2 s identification timer. -/
  | cartridgeInserted (bay : BayId)
  /-- IDENTITY_READ_DONE (R72): The identity block read completes, and the bay is admitted, rejected or enrolled through the registry. -/
  | identityReadDone (bay : BayId) (serial : BitVec 32) (kind : Option Kind)
  /-- IDENTIFICATION_TIMEOUT (R71): The 2 s identification timer expires, and the bay goes to REJECT with reason UNREADABLE. -/
  | identificationTimeout (bay : BayId)
  /-- CARTRIDGE_REMOVED (R89): The cartridge present sense falls, ending the bay's operation and resolving the cartridge's record. -/
  | cartridgeRemoved (bay : BayId)
  /-- WIPE_COMPLETE (R76): The writer module reports a completed wipe, and the cartridge becomes blank and the bay LOADED. -/
  | wipeComplete (bay : BayId)
  /-- WIPE_FAILURE (R77): The writer module reports a failed wipe, and the bay enters FAULT. -/
  | wipeFailure (bay : BayId)
  /-- WIPE_TIMEOUT (R77): The wipe timer reaches its timeout, and the bay enters FAULT. -/
  | wipeTimeout (bay : BayId)
  /-- FILL_BLOCK_PASSED (R79): The bay passes over a fill block, advancing its write position without writing. -/
  | fillBlockPassed (bay : BayId)
  /-- WRITE_ACKNOWLEDGED (R82): The cartridge acknowledges a block write, freeing the buffer place and advancing the write position. -/
  | writeAcknowledged (answered : BlockWrite)
  /-- ACK_TIMEOUT (R82): The 250 ms acknowledgement timer expires, giving a retry on the first expiry and FAULT on the second. -/
  | ackTimeout (bay : BayId)
  /-- READ_BACK_DONE (R84): A verification read-back completes, and its CRC is compared, leading to the next read, a rewrite, a fault or the directory. -/
  | readBackDone (bay : BayId) (data : List Byte)
  /-- READ_BACK_TIMEOUT (R84): A read-back unanswered within 250 ms counts as a mismatch. -/
  | readBackTimeout (bay : BayId)
  /-- SUPPLY_LOW (R98): Two samples below the falling threshold make the supply LOW, pause writing and wiping bays and start the low-duration timer. -/
  | supplyLow (millivolts : Nat)
  /-- SUPPLY_NORMAL (R100): Two samples above the rising threshold make the supply NORMAL and resume PAUSED bays. -/
  | supplyNormal (millivolts : Nat)
  /-- LOW_DURATION_TIMEOUT (R101): After 300 s of LOW supply, PAUSED bays give back their jobs and take paused-from WIPING. -/
  | lowDurationTimeout
  /-- MINUTE_ADVANCE (R150): The timebase advances the set clock by one minute, rolling the day at midnight. -/
  | minuteAdvance
  /-- BATCH_CUTOFF (R155): Now reaches the OPEN batch's cut-off, and the batch closes or becomes LATE. -/
  | batchCutoff
  /-- PACK_TIMEOUT (R145): Now reaches an OPEN container's pack deadline, and the container is dissolved. -/
  | packTimeout (container : Nat)
  /-- SELECTION_STEP (R40): While the gate is open, the patron at the eligibility queue head is taken and turned into a shipment or dropped. -/
  | selectionStep
  /-- SUPPLY_SAMPLE (R97): Every 10 ms RSM samples the supply comparator and raises or zeroes its count of consecutive samples against the threshold without changing the state. -/
  | supplySample (millivolts : Nat)
  /-- BYTE_RECEIVED (R182): A byte arrives on the link: while hunting it is passed over, or if it is C3h it starts a frame; within a frame it is taken as the next field byte and restarts the 10 ms gap timing. -/
  | byteReceived (byte : Byte)
deriving DecidableEq, Repr

end Sys2Proof
end

