-- ==== Sys2Proof/Decode.lean ====
section
/-! DEFINITION. Which command a frame at the head of the intake queue spells (R183, R184, 10.5), and the host's questions
about table words (the table gives no row any bits). -/

namespace Sys2Proof

/-- The kind codes of the kind table of 10.5 (R184, check 1). -/
def requestKinds : List Byte :=
  [0x01, 0x02, 0x03, 0x04, 0x05, 0x06, 0x10, 0x11, 0x12, 0x18, 0x19, 0x1A, 0x1B, 0x1C, 0x1D, 0x20,
    0x21, 0x22, 0x28, 0x29, 0x2A, 0x2B, 0x30, 0x31, 0x32, 0x38, 0x39, 0x40, 0x41, 0x48, 0x49, 0x50,
    0x51, 0x52, 0x53, 0x58, 0x59, 0x5A, 0x5B, 0x5C, 0x60, 0x61, 0x62]

/-- R184, check 1: the kind is the code of a request. -/
def isRequestKind (k : Byte) : Bool := requestKinds.contains k

/-- The command that serves a frame: LI passes the head request to the block that owns its kind (R183). Where the table has
one row for each FORM of a kind, the body tells them apart: the form byte (R130, R112, R164), the job, container or batch
number 0 (R67, R148, R164), the bay 255 (R95), the action (R94). A body that names no form, or an empty one, is the first
row's, which answers it RANGE or LENGTH. -/
def headCommand (f : Frame) : Instr :=
  match f.kind.toNat with
  | 0x01 => .clockSet f.tag f.body
  | 0x02 => .cutoffSet f.tag f.body
  | 0x03 => .loanPeriodSet f.tag f.body
  | 0x04 => .supplyLevelSet f.tag f.body
  | 0x05 => .selectionHold f.tag f.body
  | 0x06 => .selectionRelease f.tag f.body
  | 0x10 => .titleEnter f.tag f.body
  | 0x11 => .titleRemove f.tag f.body
  | 0x12 => .titleQuery f.tag f.body
  | 0x18 => .patronEnter f.tag f.body
  | 0x19 => .patronRemove f.tag f.body
  | 0x1A => .patronSuspend f.tag f.body
  | 0x1B => .patronResume f.tag f.body
  | 0x1C => .patronQuery f.tag f.body
  | 0x1D => .shipNow f.tag f.body
  | 0x20 => .listAdd f.tag f.body
  | 0x21 => .listDrop f.tag f.body
  | 0x22 => .listQuery f.tag f.body
  | 0x28 => .copyEnter f.tag f.body
  | 0x29 => .copyWithdraw f.tag f.body
  | 0x2A =>
    if f.body.head? = some 1 then .holdQueryCopies f.tag f.body else .holdQueryQueue f.tag f.body
  | 0x2B => .pickList f.tag f.body
  | 0x30 => .shipmentQuery f.tag f.body
  | 0x31 => .shipmentCancel f.tag f.body
  | 0x32 =>
    if f.body.take 2 = [0, 0] then .jobQueryQueue f.tag f.body else .jobQuery f.tag f.body
  | 0x38 =>
    if f.body = [0xFF] then .bayQueryRack f.tag f.body else .bayQuery f.tag f.body
  | 0x39 =>
    if (f.body.drop 1).head? = some 2 then .bayServiceIn f.tag f.body else .bayServiceOut f.tag f.body
  | 0x40 =>
    if f.body.head? = some 1 then .cartridgeQuerySummary f.tag f.body
    else if f.body.head? = some 2 then .cartridgeQuerySearch f.tag f.body
    else .cartridgeQueryRecord f.tag f.body
  | 0x41 => .cartridgeWithdraw f.tag f.body
  | 0x48 => .packScan f.tag f.body
  | 0x49 =>
    if f.body.take 2 = [0, 0] then .containerQueryShipment f.tag f.body else .containerQuery f.tag f.body
  | 0x50 =>
    if f.body.take 2 = [0, 0] then .batchQueryTable f.tag f.body else .batchQuery f.tag f.body
  | 0x51 => .batchRelease f.tag f.body
  | 0x52 =>
    if f.body.head? = some 1 then .loanQueryPatron f.tag f.body else .loanQueryItem f.tag f.body
  | 0x53 => .loanWriteOff f.tag f.body
  | 0x58 => .returnScan f.tag f.body
  | 0x59 => .recallSet f.tag f.body
  | 0x5A => .recallClear f.tag f.body
  | 0x5B => .countersRead f.tag f.body
  | 0x5C => .countersClear f.tag f.body
  | 0x60 => .summaryRead f.tag f.body
  | 0x61 => .controllerReset f.tag f.body
  | 0x62 => .recordsClear f.tag f.body
  | _ => .unknownKind f.kind f.tag f.body

/-- The frame whose service a host-request command is; none for the other rows. -/
def Instr.frame? : Instr → Option Frame
  | .clockSet tag body => some ⟨0x01, tag, body⟩
  | .cutoffSet tag body => some ⟨0x02, tag, body⟩
  | .loanPeriodSet tag body => some ⟨0x03, tag, body⟩
  | .supplyLevelSet tag body => some ⟨0x04, tag, body⟩
  | .selectionHold tag body => some ⟨0x05, tag, body⟩
  | .selectionRelease tag body => some ⟨0x06, tag, body⟩
  | .titleEnter tag body => some ⟨0x10, tag, body⟩
  | .titleRemove tag body => some ⟨0x11, tag, body⟩
  | .titleQuery tag body => some ⟨0x12, tag, body⟩
  | .patronEnter tag body => some ⟨0x18, tag, body⟩
  | .patronRemove tag body => some ⟨0x19, tag, body⟩
  | .patronSuspend tag body => some ⟨0x1A, tag, body⟩
  | .patronResume tag body => some ⟨0x1B, tag, body⟩
  | .patronQuery tag body => some ⟨0x1C, tag, body⟩
  | .shipNow tag body => some ⟨0x1D, tag, body⟩
  | .listAdd tag body => some ⟨0x20, tag, body⟩
  | .listDrop tag body => some ⟨0x21, tag, body⟩
  | .listQuery tag body => some ⟨0x22, tag, body⟩
  | .copyEnter tag body => some ⟨0x28, tag, body⟩
  | .copyWithdraw tag body => some ⟨0x29, tag, body⟩
  | .holdQueryQueue tag body => some ⟨0x2A, tag, body⟩
  | .holdQueryCopies tag body => some ⟨0x2A, tag, body⟩
  | .pickList tag body => some ⟨0x2B, tag, body⟩
  | .shipmentQuery tag body => some ⟨0x30, tag, body⟩
  | .shipmentCancel tag body => some ⟨0x31, tag, body⟩
  | .jobQuery tag body => some ⟨0x32, tag, body⟩
  | .jobQueryQueue tag body => some ⟨0x32, tag, body⟩
  | .bayQuery tag body => some ⟨0x38, tag, body⟩
  | .bayQueryRack tag body => some ⟨0x38, tag, body⟩
  | .bayServiceOut tag body => some ⟨0x39, tag, body⟩
  | .bayServiceIn tag body => some ⟨0x39, tag, body⟩
  | .cartridgeQueryRecord tag body => some ⟨0x40, tag, body⟩
  | .cartridgeQuerySummary tag body => some ⟨0x40, tag, body⟩
  | .cartridgeQuerySearch tag body => some ⟨0x40, tag, body⟩
  | .cartridgeWithdraw tag body => some ⟨0x41, tag, body⟩
  | .packScan tag body => some ⟨0x48, tag, body⟩
  | .containerQuery tag body => some ⟨0x49, tag, body⟩
  | .containerQueryShipment tag body => some ⟨0x49, tag, body⟩
  | .batchQuery tag body => some ⟨0x50, tag, body⟩
  | .batchQueryTable tag body => some ⟨0x50, tag, body⟩
  | .batchRelease tag body => some ⟨0x51, tag, body⟩
  | .loanQueryItem tag body => some ⟨0x52, tag, body⟩
  | .loanQueryPatron tag body => some ⟨0x52, tag, body⟩
  | .loanWriteOff tag body => some ⟨0x53, tag, body⟩
  | .returnScan tag body => some ⟨0x58, tag, body⟩
  | .recallSet tag body => some ⟨0x59, tag, body⟩
  | .recallClear tag body => some ⟨0x5A, tag, body⟩
  | .countersRead tag body => some ⟨0x5B, tag, body⟩
  | .countersClear tag body => some ⟨0x5C, tag, body⟩
  | .summaryRead tag body => some ⟨0x60, tag, body⟩
  | .controllerReset tag body => some ⟨0x61, tag, body⟩
  | .recordsClear tag body => some ⟨0x62, tag, body⟩
  | .unknownKind kind tag body => some ⟨kind, tag, body⟩
  | .goodFrame _ _ _ _ => none
  | .frameLengthDiscard _ => none
  | .frameGapTimeout => none
  | .frameSent => none
  | .controllerResetTaken => none
  | .resetLine => none
  | .powerUp _ _ _ => none
  | .mainPowerFall => none
  | .windowStart => none
  | .indexBlockRead _ => none
  | .titleBlockRead _ => none
  | .feedReadData _ => none
  | .feedMediaError => none
  | .cartridgeInserted _ => none
  | .identityReadDone _ _ _ => none
  | .identificationTimeout _ => none
  | .cartridgeRemoved _ => none
  | .wipeComplete _ => none
  | .wipeFailure _ => none
  | .wipeTimeout _ => none
  | .fillBlockPassed _ => none
  | .writeAcknowledged _ => none
  | .ackTimeout _ => none
  | .readBackDone _ _ => none
  | .readBackTimeout _ => none
  | .supplyLow _ => none
  | .supplyNormal _ => none
  | .lowDurationTimeout => none
  | .minuteAdvance => none
  | .batchCutoff => none
  | .packTimeout _ => none
  | .selectionStep => none
  | .supplySample _ => none
  | .byteReceived _ => none

/-- A command is proper when it is no host request, or is the row that serves its own frame: a frame of form 1 is not the
command of form 0 (log 28). -/
def Instr.proper (c : Instr) : Bool :=
  match c.frame? with
  | some f => headCommand f == c
  | none => true

/-- The table gives no row any bits (98_reader.md: "n_rows_with_fixed" is 0): no word spells a command (log 27). -/
def decodeTableWord (_nbits _w : Nat) : Option Instr := none

end Sys2Proof
end

