-- ==== Sys2Proof/Machine/Limits.lean ====
section
/-! DEFINITION. The capacities, bounds and durations the spec gives, each under a name. Times are milliseconds. -/

namespace Sys2Proof.Machine

/-- R1. -/
abbrev titleCapacity : Nat := 4096
/-- R9. -/
abbrev surveyCapacity : Nat := 16
/-- R25. -/
abbrev patronCapacity : Nat := 8192
/-- R33: items of one list. -/
abbrev listCapacity : Nat := 30
/-- R33: places of the shared pool. -/
abbrev itemPool : Nat := 65536
/-- R39: selection waits at this many QUEUED jobs. -/
abbrev queuedGate : Nat := 80
/-- R45. -/
abbrev shipmentCapacity : Nat := 1024
/-- R60. -/
abbrev jobCapacity : Nat := 96
/-- R52: parts of a cartridge. -/
abbrev partCapacity : Nat := 12
/-- R102. -/
abbrev cartridgeCapacity : Nat := 32768
/-- R118. -/
abbrev copyCapacity : Nat := 16384
/-- R122. -/
abbrev holdPool : Nat := 4096
/-- R133. -/
abbrev containerCapacity : Nat := 2048
/-- R153. -/
abbrev batchCapacity : Nat := 8
/-- R160. -/
abbrev loanCapacity : Nat := 49152
/-- R183. -/
abbrev intakeCapacity : Nat := 4
/-- R181. -/
abbrev maxBody : Nat := 1020
/-- The largest title number, patron number (R1, R25). -/
abbrev maxNumber : Nat := 999999
/-- The largest copy id (R118). -/
abbrev maxCopy : Nat := 16777215
/-- The last master block (R1). -/
abbrev maxMaster : Nat := 4194303
/-- The last service day (R150). -/
abbrev maxDay : Nat := 65535
/-- The largest value of a 32-bit counter (R172, R178). -/
abbrev max32 : Nat := 4294967295
/-- The wear count at which a returned cartridge is WORN (R109, R167). -/
abbrev wornAt : Nat := 500
/-- R82. -/
abbrev ackTime : Nat := 250
/-- R71. -/
abbrev identTime : Nat := 2000
/-- R101. -/
abbrev lowTime : Nat := 300000
/-- R182. -/
abbrev gapTime : Nat := 10

/-- Usable space U of a cartridge kind, in blocks (00_scope.md). -/
def usable : Kind → Nat
  | .s => 32752
  | .l => 65520

/-- Wipe timeout of a cartridge kind (R75). -/
def wipeTime : Kind → Nat
  | .s => 240000
  | .l => 420000

/-- Falling threshold of a supply level, in millivolts (R97). -/
def fallingAt (level : Nat) : Nat := 10800 + 200 * level

/-- Rising threshold: 0.2 V above the falling one (R97). -/
def risingAt (level : Nat) : Nat := fallingAt level + 200

end Sys2Proof.Machine
end

