-- ==== Sys2Proof/Machine/State.lean ====
section
/-! DEFINITION. The state of the LD-24 as plain data: every table, queue, counter, flag, timer and mark the spec gives the
part, each under the block that owns it (00_scope.md, Block overview), and the state after reset. -/

namespace Sys2Proof.Machine

/-! ## Link Interface (chapter 10) -/

/-- The receiver (R182): hunting for SYNC, or holding the bytes of a frame after SYNC, oldest first, and the whole
milliseconds since the last of them (0-10). -/
inductive Receiver where
  | hunting
  | inFrame (bytes : List Byte) (gap : Nat)
deriving DecidableEq, Repr

/-- Where a controller reset asked for by CONTROLLER RESET stands (R189): none asked for; its reply made ready and not yet
sent whole; its reply sent, so that the reset is due. -/
inductive ResetStage where
  | none
  | replying
  | due
deriving DecidableEq, Repr

/-- The cause recorded with the RESET event flag (R185, R192). -/
inductive ResetCause where
  | none
  | power
  | controller
deriving DecidableEq, Repr

/-- The ten event flags (R185). -/
structure Events where
  bay            : Bool
  survey         : Bool
  suspect        : Bool
  shipmentReady  : Bool
  shipmentSealed : Bool
  batchClosed    : Bool
  holdReserved   : Bool
  sweepDone      : Bool
  linkError      : Bool
  reset          : Bool
deriving DecidableEq, Repr

/-- One Boolean for each of the four condition flags (R186). -/
structure Conditions where
  supplyLow     : Bool
  clockUnset    : Bool
  recordsLost   : Bool
  selectionHeld : Bool
deriving DecidableEq, Repr

/-! ## Title Store and Master Port Arbiter (chapter 1) -/

/-- States of a title entry (R1, 1.1.2). -/
inductive TitleState where
  | surveying
  | ready
  | suspect
  | retiring
  | faulted
deriving DecidableEq, Repr

/-- Fault reasons of a title entry (R1). -/
inductive TitleFault where
  | shortMaster
  | media
  | badExtent
  | noEnd
deriving DecidableEq, Repr

/-- A run of consecutive master blocks (1.2.2). -/
structure Extent where
  first : Nat
  count : Nat
deriving DecidableEq, Repr

/-- A title entry (R1). The fill map is held as the ascending list of the title blocks marked occupied; every other block of
the title is marked fill. -/
structure TitleEntry where
  key        : TitleKey
  size       : Nat
  breaks     : List Nat
  indexBlock : Nat
  state      : TitleState
  extents    : List Extent
  occupied   : List Nat
  occCount   : Nat
  volOcc     : List Nat
  excess     : Bool
  fault      : Option TitleFault
  refs       : Nat
  progress   : Nat
  seq        : Nat
deriving DecidableEq, Repr

/-- Who asked for a master block (R19). -/
inductive Requester where
  | bay (b : BayId)
  | survey
deriving DecidableEq, Repr

/-- The outstanding grant (R19). `block` is the title block index, absent when the survey reads the index block (R10). `seq`
and `discarded` are the model's own (log 20): the sequence number of the entry named, and whether the requester has discarded
the grant (R81, R17). -/
structure Grant where
  requester : Requester
  key       : TitleKey
  seq       : Nat
  block     : Option Nat
  master    : Nat
  discarded : Bool
deriving DecidableEq, Repr

/-! ## Selection Unit (chapter 2) -/

/-- States of a reading-list item (R33). -/
inductive ItemState where
  | waiting
  | awaitingMaster
  | onHold
  | reserved
  | inShipment
deriving DecidableEq, Repr

/-- A reading-list item (R33). -/
structure ListItem where
  title  : Nat
  medium : Medium
  state  : ItemState
  day    : Nat
deriving DecidableEq, Repr

/-- Patron mode (R25). -/
inductive Mode where
  | auto
  | onRequest
deriving DecidableEq, Repr

/-- Patron state (R27). -/
inductive PatronState where
  | active
  | suspended
  | overdueHold
deriving DecidableEq, Repr

/-- A patron record (R25) with the patron's reading list (R33). -/
structure Patron where
  number    : Nat
  kind      : Kind
  cartAllow : Nat
  embAllow  : Nat
  mode      : Mode
  state     : PatronState
  commCarts : Nat
  commCopies : Nat
  overdue   : Nat
  shipment  : Option Nat
  card      : Nat
  list      : List ListItem
deriving DecidableEq, Repr

/-- A job line of a shipment (R45). -/
structure JobLine where
  job    : Nat
  index  : Nat
  serial : Option Nat
deriving DecidableEq, Repr

/-- An entry of a shipment's container list, with its released mark (R136). -/
structure ContainerEntry where
  number   : Nat
  released : Bool
deriving DecidableEq, Repr

/-- Shipment states (R45). -/
inductive ShipmentState where
  | assembling
  | ready
  | packing
  | sealed
deriving DecidableEq, Repr

/-- A shipment (R45). `target` is absent for NONE. -/
structure Shipment where
  number     : Nat
  patron     : Nat
  state      : ShipmentState
  jobLines   : List JobLine
  copyLines  : List Nat
  target     : Option Nat
  containers : List ContainerEntry
  toScan     : Nat
deriving DecidableEq, Repr

/-- The selection setting (R39). -/
inductive Selection where
  | held
  | released
deriving DecidableEq, Repr

/-! ## Planner (chapter 3) -/

/-- A part of a job (R56, R60). -/
structure Part where
  key   : TitleKey
  first : Nat
  count : Nat
  occ   : Nat
deriving DecidableEq, Repr

/-- Job states (R60). -/
inductive JobState where
  | queued
  | assigned
  | done
deriving DecidableEq, Repr

/-- A job record (R60). -/
structure Job where
  number   : Nat
  shipment : Nat
  index    : Nat
  kind     : Kind
  parts    : List Part
  estimate : Nat
  target   : Option Nat
  requeued : Bool
  state    : JobState
  bay      : Option BayId
  serial   : Option Nat
deriving DecidableEq, Repr

/-! ## Duplication bays and Rack Supply Monitor (chapter 4) -/

/-- Bay states, in the order of the lamp table of R69. -/
inductive BayState where
  | absent
  | outOfService
  | empty
  | identifying
  | wiping
  | loaded
  | writing
  | verifying
  | paused
  | done
  | reject
  | fault
deriving DecidableEq, Repr

/-- Reject reasons (R69). -/
inductive RejectReason where
  | unreadable
  | packed
  | notReturned
  | quarantined
  | withdrawn
  | registryFull
  | inOtherBay
deriving DecidableEq, Repr

/-- Fault reasons of a bay (R69). -/
inductive BayFault where
  | wipeTimeout
  | wipeFailure
  | ackTimeout
  | verify
deriving DecidableEq, Repr

/-- The state a PAUSED bay takes on resume (R69). -/
inductive PausedFrom where
  | wiping
  | writing
  | verifying
deriving DecidableEq, Repr

/-- Verification phase (R69). -/
inductive Phase where
  | data
  | directory
deriving DecidableEq, Repr

/-- A position in a job: part index from 1, block index within the part (R69). A write position that has passed the last part, and a fetch position
that has passed the last occupied block, is the part after the last, block 0, which may be part 13, outside R69's range (DESIGN CHOICE, log 6). -/
structure Pos where
  part  : Nat
  block : Nat
deriving DecidableEq, Repr

/-- A place of the feed buffer (R81): granted, and delivered once it holds the block's bytes. -/
structure FeedBlock where
  pos  : Pos
  data : Option (List Byte)
deriving DecidableEq, Repr

/-- A check list entry (R69). `passed` is the model's own (log 15): the block has passed read-back, which R95 counts. -/
structure CheckEntry where
  block    : Nat
  crc      : Check
  rewrites : Nat
  passed   : Bool
deriving DecidableEq, Repr

/-- A bay record (R69). The timers count milliseconds; an absent wipe timer is 0 (DEDUCED, log 41). `writes` is the model's own (log 34): the number of the block write last begun,
by which an acknowledgement says which write it answers. -/
structure Bay where
  state        : BayState
  occupant     : Option Nat
  rejected     : Option Nat
  rejectReason : Option RejectReason
  faultReason  : Option BayFault
  job          : Option Nat
  writePos     : Pos
  fetchPos     : Pos
  buffer       : List FeedBlock
  checkList    : List CheckEntry
  retry        : Nat
  phase        : Option Phase
  readBack     : Option Nat
  rewriteMark  : Option Nat
  directory    : Option (List DirectoryBlock)
  ackTimer     : Option Nat
  identTimer   : Option Nat
  faults       : Nat
  pausedFrom   : Option PausedFrom
  wipeTimer    : Nat
  present      : Bool
  writes       : Nat
deriving DecidableEq, Repr

/-- State of the rack supply (R97). -/
inductive Supply where
  | normal
  | low
deriving DecidableEq, Repr

/-! ## Cartridge Registry (chapter 5) -/

/-- Cartridge states, in the order of R103. -/
inductive CartState where
  | blank
  | inBay
  | written
  | packed
  | out
  | returned
  | fouled
  | quarantined
  | withdrawn
deriving DecidableEq, Repr

/-- One part of a content list (R102). -/
structure Content where
  key   : TitleKey
  first : Nat
  count : Nat
deriving DecidableEq, Repr

/-- A cartridge record (R102). -/
structure Cartridge where
  serial   : Nat
  kind     : Kind
  state    : CartState
  bay      : Option BayId
  entry    : Option CartState
  shipment : Option Nat
  job      : Option Nat
  content  : List Content
  dupDay   : Option Nat
  wear     : Nat
  faults   : Nat
deriving DecidableEq, Repr

/-! ## Stock and Holds (chapter 6) -/

/-- Copy states, in the order of R118. -/
inductive CopyState where
  | shelf
  | reserved
  | allocated
  | packed
  | out
  | withdrawn
deriving DecidableEq, Repr

/-- A copy record (R118). `marks` holds one scanned mark for each volume, volume 1 first; volumes scanned is the number of
marks set. -/
structure Copy where
  id       : Nat
  title    : Nat
  volumes  : Nat
  state    : CopyState
  patron   : Option Nat
  shipment : Option Nat
  marks    : List Bool
deriving DecidableEq, Repr

/-- A hold entry (R122) with the embossed title number whose queue it stands in. -/
structure Hold where
  title  : Nat
  patron : Nat
  day    : Nat
deriving DecidableEq, Repr

/-! ## Pack Unit (chapter 7) -/

/-- An item of a container (R133): a cartridge serial, or a copy id with a volume number. -/
inductive Item where
  | cartridge (serial : Nat)
  | volume (copy volume : Nat)
deriving DecidableEq, Repr

/-- Container kinds (R134). -/
inductive ContainerKind where
  | pouch
  | carton
deriving DecidableEq, Repr

/-- Container states (R135). -/
inductive ContainerState where
  | open
  | sealed
  | batched
deriving DecidableEq, Repr

/-- A container record (R133). -/
structure Container where
  number   : Nat
  shipment : Nat
  kind     : ContainerKind
  seq      : Nat
  units    : Nat
  items    : List Item
  state    : ContainerState
  batch    : Option Nat
  lastScan : Nat
  deadline : Option Nat
  sealNo   : Option Nat
  final    : Bool
deriving DecidableEq, Repr

/-! ## Dispatch and Loans (chapter 8) -/

/-- The clock (R150). -/
structure Clock where
  day    : Nat
  minute : Nat
  set    : Bool
deriving DecidableEq, Repr

/-- Batch states (R153). -/
inductive BatchState where
  | open
  | closed
deriving DecidableEq, Repr

/-- A batch record (R153). -/
structure Batch where
  number : Nat
  cutoff : Nat
  state  : BatchState
  count  : Nat
  late   : Bool
deriving DecidableEq, Repr

/-- The item of a loan (R160). -/
inductive LoanItem where
  | cartridge (serial : Nat)
  | copy (id : Nat)
deriving DecidableEq, Repr

/-- A loan (R160). -/
structure Loan where
  item     : LoanItem
  patron   : Nat
  shipment : Nat
  dayOut   : Nat
  due      : Nat
  overdue  : Bool
deriving DecidableEq, Repr

/-! ## Returns Intake (chapter 9) -/

/-- Action of a recall filter (R172). -/
inductive RecallAction where
  | count
  | quarantine
  | withdraw
deriving DecidableEq, Repr

/-- A recall filter slot (R172). 0 in title, medium, edition or day leaves that field open. -/
structure RecallSlot where
  enabled : Bool
  title   : Nat
  medium  : Nat
  edition : Nat
  day     : Nat
  action  : RecallAction
  hits    : Nat
deriving DecidableEq, Repr

/-- The nine counters (R178). -/
structure Counters where
  unknown  : Nat
  notOut   : Nat
  recalled : Nat
  damaged  : Nat
  worn     : Nat
  late     : Nat
  onTime   : Nat
  lateDays : Nat
  loanDays : Nat
deriving DecidableEq, Repr

/-! ## The state -/

/-- Everything the part holds (INVENTORY.md, State). -/
structure State where
  /-- The commands waiting, first in first out (log 1). -/
  pending           : List Instr
  /-- Main power is on (R189, R190, log 8). -/
  power             : Bool
  /-- LI: the receive frame assembler (R182). -/
  rx                : Receiver
  /-- LI: the intake queue, the head being served (R183). -/
  intake            : List Frame
  /-- LI: the frames made ready and not yet sent, the head being sent (R181). -/
  tx                : List Frame
  /-- LI: where a requested controller reset stands (R189). -/
  resetStage        : ResetStage
  /-- LI: the event flags (R185). -/
  events            : Events
  /-- LI: the reset cause (R185). -/
  resetCause        : ResetCause
  /-- LI: the changed marks of the condition flags (R186). -/
  changed           : Conditions
  /-- LI: the bay mask (R185). -/
  bayMask           : BitVec 24
  /-- LI: the link error count (R182). -/
  linkErrors        : Nat
  /-- LI: the attention latch (R187). -/
  latch             : Bool
  /-- RM: the RECORDS LOST condition (R190). -/
  recordsLost       : Bool
  /-- TS: the title table, in order of entry (R1). -/
  titles            : List TitleEntry
  /-- TS: the entry sequence counter (R1). -/
  entrySeq          : Nat
  /-- TS: the survey queue (R9). -/
  surveyQueue       : List TitleKey
  /-- MPA: the rotation pointer (R19). -/
  rotation          : BayId
  /-- MPA: the number the next window takes (R19, log 19). -/
  nextWindow        : Nat
  /-- MPA: the outstanding grant (R19). -/
  grant             : Option Grant
  /-- SU: the patron table, by patron number, each record with its reading list (R25, R33). -/
  patrons           : List Patron
  /-- SU: the eligibility queue (R34). -/
  eligibility       : List Nat
  /-- SU: the shipment table, in order of creation (R45). -/
  shipments         : List Shipment
  /-- SU: the shipment number counter (R45). -/
  shipmentCounter   : Nat
  /-- SU: the selection setting (R39). -/
  selection         : Selection
  /-- PL: the job table, by job number (R60). -/
  jobs              : List Job
  /-- PL: the job number counter (R60). -/
  jobCounter        : Nat
  /-- DB0 to DB23: the bay records (R69). -/
  bays              : Vector Bay 24
  /-- RSM: the threshold level (R97). -/
  supplyLevel       : Nat
  /-- RSM: the state of the supply (R97). -/
  supply            : Supply
  /-- RSM: consecutive samples against the threshold (R97). -/
  supplyCount       : Nat
  /-- RSM: the low-duration timer, in milliseconds; it runs while the supply is LOW (R97). -/
  lowTimer          : Nat
  /-- RSM: the abandonment-done mark (R97). -/
  abandoned         : Bool
  /-- CR: the cartridge registry, by serial (R102). -/
  cartridges        : List Cartridge
  /-- SH: the copy table, by copy id (R118). -/
  copies            : List Copy
  /-- SH: the hold entries in the order placed; a title's hold queue is its entries in that order (R122). -/
  holds             : List Hold
  /-- SH: the pick list (R128). -/
  pickList          : List Nat
  /-- PK: the container table, by container number (R133). -/
  containers        : List Container
  /-- PK: the container number counter (R133). -/
  containerCounter  : Nat
  /-- PK: the seal counter (R133). -/
  sealCounter       : Nat
  /-- DL: the clock (R150). -/
  clock             : Clock
  /-- DL: the cut-off list (R152). -/
  cutoffs           : List Nat
  /-- DL: the batch table, by cut-off, then order of creation (R153). -/
  batches           : List Batch
  /-- DL: the batch number counter (R153). -/
  batchCounter      : Nat
  /-- DL: the loan table, cartridges by serial, then copies by copy id (R160). -/
  loans             : List Loan
  /-- DL: the cartridge loan period (R161). -/
  cartridgePeriod   : Nat
  /-- DL: the copy loan period (R161). -/
  copyPeriod        : Nat
  /-- RI: the recall filter slots (R172). -/
  slots             : Vector RecallSlot 16
  /-- RI: the classification counters and day sums (R178). -/
  counters          : Counters
  /-- RM: the check word held with the retained tables (R190). -/
  checkWord         : Nat
  /-- The model's own: how many times the free choice of R156 has been made (log 35). -/
  choices           : Nat
deriving DecidableEq, Repr

/-! ## Record memory (R190) -/

/-- What record memory holds beside the check word (R190): the twelve retained tables, the settings and the six number counters. The
reading lists lie in the patron records, the hold queues in the hold entries; the slots' match counts are held elsewhere, and stand
here at 0. -/
structure Records where
  titles           : List TitleEntry
  patrons          : List Patron
  shipments        : List Shipment
  jobs             : List Job
  cartridges       : List Cartridge
  copies           : List Copy
  holds            : List Hold
  containers       : List Container
  batches          : List Batch
  loans            : List Loan
  slots            : List RecallSlot
  cutoffs          : List Nat
  cartridgePeriod  : Nat
  copyPeriod       : Nat
  supplyLevel      : Nat
  entrySeq         : Nat
  shipmentCounter  : Nat
  jobCounter       : Nat
  containerCounter : Nat
  sealCounter      : Nat
  batchCounter     : Nat
deriving DecidableEq, Repr

/-! ## Reset -/

/-- No event flag set. -/
def Events.clear : Events :=
  ⟨false, false, false, false, false, false, false, false, false, false⟩

/-- No mark set. -/
def Conditions.clear : Conditions := ⟨false, false, false, false⟩

/-- Every mark set (R189). -/
def Conditions.all : Conditions := ⟨true, true, true, true⟩

/-- ATTENTION: kind 7Fh, tag 0, an empty body (R181). -/
def attentionFrame : Frame := ⟨0x7F, 0, []⟩

/-- A bay as power-up and controller reset leave it (R96): EMPTY, every optional field absent, feed buffer and check list
empty, wipe timer and consecutive fault count 0. The positions and the retry count are the model's choice (log 6). -/
def Bay.reset : Bay where
  state := .empty
  occupant := none
  rejected := none
  rejectReason := none
  faultReason := none
  job := none
  writePos := ⟨1, 0⟩
  fetchPos := ⟨1, 0⟩
  buffer := []
  checkList := []
  retry := 0
  phase := none
  readBack := none
  rewriteMark := none
  directory := none
  ackTimer := none
  identTimer := none
  faults := 0
  pausedFrom := none
  wipeTimer := 0
  present := false
  writes := 0

/-- An empty recall slot (R172). -/
def RecallSlot.empty : RecallSlot := ⟨false, 0, 0, 0, 0, .count, 0⟩

/-- Every counter 0 (R178). -/
def Counters.zero : Counters := ⟨0, 0, 0, 0, 0, 0, 0, 0, 0⟩

/-- Record memory after a check that differs (R190): every table empty, every setting at its default, every number counter 1. -/
def Records.empty : Records where
  titles := []
  patrons := []
  shipments := []
  jobs := []
  cartridges := []
  copies := []
  holds := []
  containers := []
  batches := []
  loans := []
  slots := List.replicate 16 RecallSlot.empty
  cutoffs := []
  cartridgePeriod := 42
  copyPeriod := 56
  supplyLevel := 2
  entrySeq := 1
  shipmentCounter := 1
  jobCounter := 1
  containerCounter := 1
  sealCounter := 1
  batchCounter := 1

end Sys2Proof.Machine

namespace Sys2Proof

/-- FREE VALUE (log 9). The check word computed over all that record memory holds: R190 gives neither its width nor how it is computed.
Nothing may be proved about the words themselves. -/
opaque Config.checkWord : Machine.Records → Nat

end Sys2Proof

namespace Sys2Proof.Machine

/-- The part right after a power-up that reports RECORDS LOST, with a writer module in every bay and no cartridge sensed
(log 5): the one reset for which the spec states the value of every table, setting and counter. -/
def State.reset : State where
  pending := []
  power := true
  rx := .hunting
  intake := []
  tx := [attentionFrame]
  resetStage := .none
  events := { Events.clear with reset := true }
  resetCause := .power
  changed := Conditions.all
  bayMask := 0
  linkErrors := 0
  latch := true
  recordsLost := true
  titles := []
  entrySeq := 1
  surveyQueue := []
  rotation := 23
  nextWindow := 0
  grant := none
  patrons := []
  eligibility := []
  shipments := []
  shipmentCounter := 1
  selection := .held
  jobs := []
  jobCounter := 1
  bays := ⟨#[Bay.reset, Bay.reset, Bay.reset, Bay.reset, Bay.reset, Bay.reset, Bay.reset, Bay.reset,
    Bay.reset, Bay.reset, Bay.reset, Bay.reset, Bay.reset, Bay.reset, Bay.reset, Bay.reset,
    Bay.reset, Bay.reset, Bay.reset, Bay.reset, Bay.reset, Bay.reset, Bay.reset, Bay.reset], rfl⟩
  supplyLevel := 2
  supply := .normal
  supplyCount := 0
  lowTimer := 0
  abandoned := false
  cartridges := []
  copies := []
  holds := []
  pickList := []
  containers := []
  containerCounter := 1
  sealCounter := 1
  clock := ⟨0, 0, false⟩
  cutoffs := []
  batches := []
  batchCounter := 1
  loans := []
  cartridgePeriod := 42
  copyPeriod := 56
  slots := ⟨#[RecallSlot.empty, RecallSlot.empty, RecallSlot.empty, RecallSlot.empty,
    RecallSlot.empty, RecallSlot.empty, RecallSlot.empty, RecallSlot.empty,
    RecallSlot.empty, RecallSlot.empty, RecallSlot.empty, RecallSlot.empty,
    RecallSlot.empty, RecallSlot.empty, RecallSlot.empty, RecallSlot.empty], rfl⟩
  counters := Counters.zero
  checkWord := Config.checkWord Records.empty
  choices := 0

/-! ## Reasons to stop -/

/-- No rule of the spec stops the part: every error is a reply status, a flag, a state of a bay or of a title entry
(log 33). Nothing raises a fault; the type has no constructor. -/
inductive Fault where
deriving DecidableEq, Repr

/-- Reasons not to run a command. -/
inductive Refusal where
  /-- Raised by `exec` alone, for a row that has no meaning yet (safe: the run stops). No row is in that case. -/
  | notModelled (mnemonic : String)
deriving DecidableEq, Repr

end Sys2Proof.Machine
end

