-- ==== Sys2Proof/Machine/Bytes.lean ====
section
/-! DEFINITION. Fields of several bytes, the CRC-16, and the bytes of a frame on the line (R181, R192, R193). -/

namespace Sys2Proof.Machine

/-- The number that bytes spell, low byte first (00_scope.md, Conventions). -/
def leNat : List Byte → Nat
  | [] => 0
  | b :: bs => b.toNat + 256 * leNat bs

/-- A number in `width` bytes, low byte first. -/
def leBytes : Nat → Nat → List Byte
  | 0, _ => []
  | width + 1, n => BitVec.ofNat 8 n :: leBytes width (n / 256)

/-- The field of `width` bytes at an offset of a body. -/
def field (body : List Byte) (offset width : Nat) : Nat :=
  leNat ((body.drop offset).take width)

/-- A Boolean as 1 or 0 (R192). -/
def bit (b : Bool) : Nat := if b then 1 else 0

/-- An optional field (R193): a presence byte, then the field, sent as 0 when absent. -/
def optField (width : Nat) : Option Nat → List Byte
  | none => leBytes 1 0 ++ leBytes width 0
  | some n => leBytes 1 1 ++ leBytes width n

/-- A list that cannot hold more than 255 entries (R193): its number of entries in one byte, then the entries. -/
def listField {α : Type} (entry : α → List Byte) (xs : List α) : List Byte :=
  leBytes 1 xs.length ++ xs.flatMap entry

/-- An absolute minute in four bytes; FFFFFFFFh stands for none (R192). -/
def minuteField : Option Nat → List Byte
  | none => leBytes 4 max32
  | some m => leBytes 4 m

/-- One bit of a CRC-16: the register shifts left, and takes the polynomial x^16 + x^12 + x^5 + 1 when a 1 leaves it (R181). -/
def crcShift (r : Check) : Check :=
  if r.msb then (r <<< 1) ^^^ 0x1021 else r <<< 1

/-- One byte of a CRC-16, most significant bit first (R181). -/
def crcByte (r : Check) (b : Byte) : Check :=
  crcShift (crcShift (crcShift (crcShift (crcShift (crcShift (crcShift (crcShift
    (r ^^^ (b.setWidth 16 <<< 8)))))))))

/-- CRC-16 with starting value FFFFh, not reflected, no final exclusive-or (R181). -/
def crc16 (bytes : List Byte) : Check := bytes.foldl crcByte 0xFFFF

/-- The bytes of a frame that its CHECK covers: LENGTH, KIND, TAG, BODY (R181). -/
def covered (f : Frame) : List Byte := leBytes 2 f.body.length ++ f.kind :: f.tag :: f.body

/-- The CHECK of a frame (R181). -/
def frameCheck (f : Frame) : Check := crc16 (covered f)

/-- SYNC (R181). -/
def sync : Byte := 0xC3

/-- A frame as it is sent: SYNC, LENGTH, KIND, TAG, BODY, CHECK (R181). -/
def wire (f : Frame) : List Byte := sync :: covered f ++ leBytes 2 (frameCheck f).toNat

/-- Eight fill map marks to a byte, the lowest title block in bit 0 of the first byte, a set bit marking an occupied block
(R193): the marks of `count` blocks from `start`. -/
def packMarks (occupied : List Nat) (start count : Nat) : List Byte :=
  (List.range ((count + 7) / 8)).map fun k =>
    BitVec.ofNat 8 <| (List.range 8).foldl (fun acc j =>
      if 8 * k + j < count && occupied.contains (start + 8 * k + j) then acc + 2 ^ j else acc) 0

end Sys2Proof.Machine
end

