-- ==== Sys2Proof/Machine/Records.lean ====
section
/-! DEFINITION. RM, record memory: what it retains, and the check word that every change keeps up to date (R190). -/

namespace Sys2Proof.Machine

/-- What record memory holds (R190). The match counts of the recall slots are not retained. -/
def State.records (s : State) : Records where
  titles := s.titles
  patrons := s.patrons
  shipments := s.shipments
  jobs := s.jobs
  cartridges := s.cartridges
  copies := s.copies
  holds := s.holds
  containers := s.containers
  batches := s.batches
  loans := s.loans
  slots := s.slots.toList.map fun f => { f with hits := 0 }
  cutoffs := s.cutoffs
  cartridgePeriod := s.cartridgePeriod
  copyPeriod := s.copyPeriod
  supplyLevel := s.supplyLevel
  entrySeq := s.entrySeq
  shipmentCounter := s.shipmentCounter
  jobCounter := s.jobCounter
  containerCounter := s.containerCounter
  sealCounter := s.sealCounter
  batchCounter := s.batchCounter

/-- The check word recomputed over what record memory holds (R190, log 9). -/
def recomputed (s : State) : Nat := Config.checkWord s.records

/-- The check word is updated in the same change as what it covers (R190). -/
def State.stamped (s : State) : State := { s with checkWord := recomputed s }

end Sys2Proof.Machine
end

