-- ==== Sys2Proof/Machine/Operands.lean ====
section
/-! DEFINITION. The codes of enumerated values (R192), the body length of each request (R184, 10.5), and replies. -/

namespace Sys2Proof.Machine

/-! ## Reply statuses (R184) -/

/-- The statuses of a reply, in the order of their codes (R184). -/
inductive Status where
  | ok
  | deferred
  | notFound
  | full
  | busy
  | range
  | duplicate
  | length
  | unknownKind
  | refused
  | clockUnset
deriving DecidableEq, Repr

/-- R184. -/
def statusCode : Status → Byte
  | .ok => 0x00
  | .deferred => 0x01
  | .notFound => 0x02
  | .full => 0x03
  | .busy => 0x04
  | .range => 0x05
  | .duplicate => 0x06
  | .length => 0x07
  | .unknownKind => 0x08
  | .refused => 0x09
  | .clockUnset => 0x0A

/-- What serving a request gives: the state after it, and the body of its reply, the status first. -/
abbrev Answer := State × List Byte

/-- A reply of status OK with the data its rule lists (R184). -/
def okWith (data : List Byte) (s : State) : Answer := (s, statusCode .ok :: data)

/-- A reply that is the status byte alone (R184). -/
def statusOnly (st : Status) (s : State) : Answer := (s, [statusCode st])

/-! ## Codes of enumerated values (R192) -/

def kindCode : Kind → Nat
  | .s => 1
  | .l => 2

def kindOf : Nat → Option Kind
  | 1 => some .s
  | 2 => some .l
  | _ => none

def mediumCode : Medium → Nat
  | .audio => 1
  | .ebraille => 2
  | .embossed => 3

def mediumOf : Nat → Option Medium
  | 1 => some .audio
  | 2 => some .ebraille
  | 3 => some .embossed
  | _ => none

def modeCode : Mode → Nat
  | .auto => 1
  | .onRequest => 2

def modeOf : Nat → Option Mode
  | 1 => some .auto
  | 2 => some .onRequest
  | _ => none

def patronStateCode : PatronState → Nat
  | .active => 1
  | .suspended => 2
  | .overdueHold => 3

def itemStateCode : ItemState → Nat
  | .waiting => 1
  | .awaitingMaster => 2
  | .onHold => 3
  | .reserved => 4
  | .inShipment => 5

def titleStateCode : TitleState → Nat
  | .surveying => 1
  | .ready => 2
  | .suspect => 3
  | .retiring => 4
  | .faulted => 5

def titleFaultCode : TitleFault → Nat
  | .shortMaster => 1
  | .media => 2
  | .badExtent => 3
  | .noEnd => 4

def shipmentStateCode : ShipmentState → Nat
  | .assembling => 1
  | .ready => 2
  | .packing => 3
  | .sealed => 4

def jobStateCode : JobState → Nat
  | .queued => 1
  | .assigned => 2
  | .done => 3

def bayStateCode : BayState → Nat
  | .absent => 1
  | .outOfService => 2
  | .empty => 3
  | .identifying => 4
  | .wiping => 5
  | .loaded => 6
  | .writing => 7
  | .verifying => 8
  | .paused => 9
  | .done => 10
  | .reject => 11
  | .fault => 12

/-- paused-from takes the code of the bay state it names (R192). -/
def pausedFromCode : PausedFrom → Nat
  | .wiping => bayStateCode .wiping
  | .writing => bayStateCode .writing
  | .verifying => bayStateCode .verifying

/-- The lamp of a bay, driven from its state (R69), as its code (R192). -/
def lampCode : BayState → Nat
  | .absent => 1
  | .outOfService => 1
  | .empty => 2
  | .identifying => 3
  | .wiping => 3
  | .loaded => 4
  | .writing => 3
  | .verifying => 3
  | .paused => 5
  | .done => 6
  | .reject => 7
  | .fault => 8

def rejectCode : RejectReason → Nat
  | .unreadable => 1
  | .packed => 2
  | .notReturned => 3
  | .quarantined => 4
  | .withdrawn => 5
  | .registryFull => 6
  | .inOtherBay => 7

def bayFaultCode : BayFault → Nat
  | .wipeTimeout => 1
  | .wipeFailure => 2
  | .ackTimeout => 3
  | .verify => 4

def cartStateCode : CartState → Nat
  | .blank => 1
  | .inBay => 2
  | .written => 3
  | .packed => 4
  | .out => 5
  | .returned => 6
  | .fouled => 7
  | .quarantined => 8
  | .withdrawn => 9

def copyStateCode : CopyState → Nat
  | .shelf => 1
  | .reserved => 2
  | .allocated => 3
  | .packed => 4
  | .out => 5
  | .withdrawn => 6

def containerKindCode : ContainerKind → Nat
  | .pouch => 1
  | .carton => 2

def containerStateCode : ContainerState → Nat
  | .open => 1
  | .sealed => 2
  | .batched => 3

def batchStateCode : BatchState → Nat
  | .open => 1
  | .closed => 2

def actionCode : RecallAction → Nat
  | .count => 1
  | .quarantine => 2
  | .withdraw => 3

def actionOf : Nat → Option RecallAction
  | 1 => some .count
  | 2 => some .quarantine
  | 3 => some .withdraw
  | _ => none

def causeCode : ResetCause → Nat
  | .none => 0
  | .power => 1
  | .controller => 2

/-- Yes or no (R192). -/
def flagOf : Nat → Option Bool
  | 0 => some false
  | 1 => some true
  | _ => none

/-! ## Body lengths (R184, check 2; kind table of 10.5) -/

/-- The body length is the one the kind table gives, for the form or the count that the body names. An empty body of a
request with forms has the wrong length; a first byte that names no form goes on to the owning block (R184). -/
def bodyLengthOk (f : Frame) : Bool :=
  let n := f.body.length
  match f.kind.toNat with
  | 0x01 => n == 4
  | 0x02 => n != 0 && n == 1 + 2 * field f.body 0 1
  | 0x03 => n == 2
  | 0x04 => n == 1
  | 0x05 => n == 0
  | 0x06 => n == 0
  | 0x10 => decide (11 ≤ n) && n == 11 + 2 * field f.body 10 1
  | 0x11 => n == 5
  | 0x12 => n == 7
  | 0x18 => n == 9
  | 0x19 => n == 3
  | 0x1A => n == 3
  | 0x1B => n == 3
  | 0x1C => n == 3
  | 0x1D => n == 3
  | 0x20 => n == 8
  | 0x21 => n == 7
  | 0x22 => n == 3
  | 0x28 => n == 7
  | 0x29 => n == 3
  | 0x2A => byForm n [6, 7]
  | 0x2B => n == 2
  | 0x30 => n == 2
  | 0x31 => n == 2
  | 0x32 => n == 3
  | 0x38 => n == 1
  | 0x39 => n == 2
  | 0x40 => byForm n [5, 1, 10]
  | 0x41 => n == 4
  | 0x48 => n == 5
  | 0x49 => n == 4
  | 0x50 => n == 4
  | 0x51 => n == 2
  | 0x52 => byForm n [6, 5]
  | 0x53 => n == 5
  | 0x58 => n == 6
  | 0x59 => n == 10
  | 0x5A => n == 1
  | 0x5B => n == 0
  | 0x5C => n == 0
  | 0x60 => n == 0
  | 0x61 => n == 0
  | 0x62 => n == 0
  | _ => true
where
  /-- The lengths of form 0, 1, ... of a request with forms. -/
  byForm (n : Nat) (lengths : List Nat) : Bool :=
    n != 0 && (match lengths[field f.body 0 1]? with
      | some m => n == m
      | none => true)

/-! ## Request bodies the host builds (R193), as bytes -/

/-- A request body made of fields, each a width in bytes and a value, in order (R193). -/
def bodyOf (fields : List (Nat × Nat)) : List Byte := fields.flatMap fun (w, n) => leBytes w n

end Sys2Proof.Machine
end

