-- ==== Sys2Proof/Machine/Flags.lean ====
section
/-! DEFINITION. The status summary: event flags, condition flags with their changed marks, ATTENTION (10.3), and the service of
the request at the head of the intake queue (10.2). -/

namespace Sys2Proof.Machine

/-! ## Event flags (R185, R187) -/

/-- The ten event flags, in the order of their bits in the summary (10.5). -/
inductive EventFlag where
  | bay
  | survey
  | suspect
  | shipmentReady
  | shipmentSealed
  | batchClosed
  | holdReserved
  | sweepDone
  | linkError
  | reset
deriving DecidableEq, Repr

/-- The event flags with one of them set (R185). -/
def Events.set (e : Events) : EventFlag → Events
  | .bay => { e with bay := true }
  | .survey => { e with survey := true }
  | .suspect => { e with suspect := true }
  | .shipmentReady => { e with shipmentReady := true }
  | .shipmentSealed => { e with shipmentSealed := true }
  | .batchClosed => { e with batchClosed := true }
  | .holdReserved => { e with holdReserved := true }
  | .sweepDone => { e with sweepDone := true }
  | .linkError => { e with linkError := true }
  | .reset => { e with reset := true }

/-- Whether an event flag is set. -/
def Events.has (e : Events) : EventFlag → Bool
  | .bay => e.bay
  | .survey => e.survey
  | .suspect => e.suspect
  | .shipmentReady => e.shipmentReady
  | .shipmentSealed => e.shipmentSealed
  | .batchClosed => e.batchClosed
  | .holdReserved => e.holdReserved
  | .sweepDone => e.sweepDone
  | .linkError => e.linkError
  | .reset => e.reset

/-- The event flags as the summary sends them, bit 0 BAY to bit 9 RESET (10.5). -/
def eventBits (e : Events) : Nat :=
  bit e.bay + 2 * bit e.survey + 4 * bit e.suspect + 8 * bit e.shipmentReady + 16 * bit e.shipmentSealed
    + 32 * bit e.batchClosed + 64 * bit e.holdReserved + 128 * bit e.sweepDone + 256 * bit e.linkError
    + 512 * bit e.reset

/-- One bit for each condition, bit 0 SUPPLY LOW to bit 3 SELECTION HELD (10.5). -/
def conditionBits (c : Conditions) : Nat :=
  bit c.supplyLow + 2 * bit c.clockUnset + 4 * bit c.recordsLost + 8 * bit c.selectionHeld

/-- The summary has something unread while any event flag or any changed mark is set (R187). -/
def unread (s : State) : Bool := eventBits s.events != 0 || conditionBits s.changed != 0

/-- LI makes a frame ready; it is sent after the frames made ready before it (R181). -/
def readyFrame (f : Frame) (s : State) : State := { s with tx := s.tx ++ [f] }

/-- The summary has come to have something unread: with the latch clear, one ATTENTION frame is made ready and the latch is
set; with the latch set, nothing is sent (R187). -/
def attention (s : State) : State :=
  if s.latch then s else { s with latch := true, tx := s.tx ++ [attentionFrame] }

/-- An event flag is set (R185, R187). -/
def setEvent (f : EventFlag) (s : State) : State := attention { s with events := s.events.set f }

/-- The BAY event flag is set, with the bay's mark in the bay mask (R185). -/
def setBayEvent (b : BayId) (s : State) : State :=
  setEvent .bay { s with bayMask := s.bayMask ||| ((1 : BitVec 24) <<< b.val) }

/-! ## Condition flags (R186) -/

/-- The four condition flags. -/
inductive Condition where
  | supplyLow
  | clockUnset
  | recordsLost
  | selectionHeld
deriving DecidableEq, Repr

/-- The marks with one of them set. -/
def Conditions.set (c : Conditions) : Condition → Conditions
  | .supplyLow => { c with supplyLow := true }
  | .clockUnset => { c with clockUnset := true }
  | .recordsLost => { c with recordsLost := true }
  | .selectionHeld => { c with selectionHeld := true }

/-- The values of the condition flags, each read from the state it shows (R186, log 10). -/
def conditions (s : State) : Conditions where
  supplyLow := s.supply == .low
  clockUnset := !s.clock.set
  recordsLost := s.recordsLost
  selectionHeld := s.selection == .held

/-- A condition flag has changed value: its changed mark is set (R186, R187). -/
def markChanged (c : Condition) (s : State) : State := attention { s with changed := s.changed.set c }

/-- The selection setting is set; SELECTION HELD follows it (R39, R186). -/
def setSelection (x : Selection) (s : State) : State :=
  if s.selection = x then s else markChanged .selectionHeld { s with selection := x }

/-- RECORDS LOST is cleared (R191). -/
def clearRecordsLost (s : State) : State :=
  if s.recordsLost then markChanged .recordsLost { s with recordsLost := false } else s

/-! ## Replies and service (R181, R183, R184) -/

/-- The kind of a reply: the request's kind + 80h, or FFh for a request kind of 7Fh or above (R181). -/
def replyKind (k : Byte) : Byte := if 0x7F ≤ k.toNat then 0xFF else k + 0x80

/-- The reply to a frame: its reply kind, its tag unchanged, and a body whose first byte is the status (R181). -/
def replyFrame (f : Frame) (body : List Byte) : Frame := ⟨replyKind f.kind, f.tag, body⟩

/-- LI can serve this request now: main power is on, no controller reset has been asked for (R189), and the request is the head
of the intake queue, or the queue is empty and the request has just arrived whole (R183, log 1). -/
def canServe (f : Frame) (s : State) : Bool :=
  s.power && s.resetStage == .none &&
    (match s.intake with
     | [] => true
     | g :: _ => g == f)

/-- The state after a request is served: the owning block's changes with the check word that they give (R190), then the request leaves
the queue and its reply is made ready (R183). -/
def answered (f : Frame) (a : Answer) : State :=
  { a.1.stamped with intake := a.1.intake.tail, tx := a.1.tx ++ [replyFrame f a.2] }

/-- A request that passes the check of its length is served by its owning block's rule; a wrong length is answered LENGTH
(R184). -/
def checkedRule (f : Frame) (rule : State → Answer) (s : State) : Answer :=
  if bodyLengthOk f then rule s else statusOnly .length s

/-- LI serves a request whole (R183, R184). A command that is not the row of its own frame (log 28), or whose request is not
the one that LI can serve, changes nothing (log 1). -/
def serve (c : Instr) (f : Frame) (rule : State → Answer) (s : State) : Host.Outcome State Fault Refusal :=
  .next (if headCommand f == c && canServe f s then answered f (checkedRule f rule s) else s)

/-- An event that the part senses or brings about itself: it reaches the part only while main power is on (R189, log 8). What it changes
and the check word change together (R190). -/
def event (change : State → State) (s : State) : Host.Outcome State Fault Refusal :=
  .next (if s.power then (change s).stamped else s)

end Sys2Proof.Machine
end

