-- ==== Sys2Proof/Machine/Ops.lean ====
section
/-! DEFINITION. The named operations on the part's tables that every block's rules are built from: finding, replacing and
ordering records, number counters, the clock's now, headroom, spares, the job queue's order and readiness tests. -/

namespace Sys2Proof.Machine

/-! ## Ordered tables -/

/-- Insert a record behind every record it does not precede. -/
def insertBy {α : Type} (before : α → α → Bool) (x : α) : List α → List α
  | [] => [x]
  | y :: ys => if before x y then x :: y :: ys else y :: insertBy before x ys

/-- The records in ascending order; equal records keep their order. -/
def sortBy {α : Type} (before : α → α → Bool) (xs : List α) : List α :=
  xs.foldl (fun acc x => insertBy before x acc) []

/-- Replace every record that a key picks out. -/
def replace {α : Type} (hit : α → Bool) (f : α → α) (xs : List α) : List α :=
  xs.map fun x => if hit x then f x else x

/-- Every place of a table of fixed size changed. -/
def mapVector {α : Type} {n : Nat} (f : α → α) (v : Vector α n) : Vector α n := ⟨⟨v.toArray.toList.map f⟩, by simp⟩

/-! ## Number counters (R45) -/

/-- The number after `n`, going from `top` to 1. -/
def numberAfter (top n : Nat) : Nat := if n < top then n + 1 else 1

/-- The number a new record takes: the counter's value, passing over the numbers held (R45). One more trial than there are
numbers held always finds a free one below `top`. -/
def takeNumber (top : Nat) (held : List Nat) (counter : Nat) : Nat :=
  go (held.length + 1) counter
where
  go : Nat → Nat → Nat
    | 0, n => n
    | fuel + 1, n => if held.contains n then go fuel (numberAfter top n) else n

/-! ## Time (R150) -/

/-- Now: the current absolute minute (R150). -/
def now (s : State) : Nat := s.clock.day * 1440 + s.clock.minute

/-- Today: the clock's current day. It is 0 while the clock is unset after power-up (R37, R86, R150). -/
def today (s : State) : Nat := s.clock.day

/-! ## Title table -/

/-- The entry with a title number, medium and edition (R1). -/
def findTitle (s : State) (k : TitleKey) : Option TitleEntry := s.titles.find? (·.key == k)

/-- The READY entry of a title number and medium (1.1.2). -/
def readyEntry (s : State) (title : Nat) (medium : Medium) : Option TitleEntry :=
  s.titles.find? fun e => e.key.title == title && e.key.medium == medium && e.state == .ready

def updateTitle (k : TitleKey) (f : TitleEntry → TitleEntry) (s : State) : State :=
  { s with titles := replace (·.key == k) f s.titles }

def dropTitle (k : TitleKey) (s : State) : State :=
  { s with titles := s.titles.filter fun e => !(e.key == k) }

/-- One more part names the entry (R5). -/
def raiseRef (k : TitleKey) (s : State) : State :=
  updateTitle k (fun e => { e with refs := e.refs + 1 }) s

/-- One part fewer names the entry: a RETIRING entry that falls to 0 is deleted (R5, R6). -/
def lowerRef (k : TitleKey) (s : State) : State :=
  { s with titles := s.titles.filterMap fun e =>
      if e.key == k then
        if e.state == .retiring && decide (e.refs ≤ 1) then none else some { e with refs := e.refs - 1 }
      else some e }

/-- Every READY entry of a title number and medium, but the one of edition `keep`, is retired: deleted at job reference count 0,
RETIRING otherwise (R4, R16). -/
def retireReady (title : Nat) (medium : Medium) (keep : Nat) (s : State) : State :=
  { s with titles := s.titles.filterMap fun e =>
      if e.key.title == title && e.key.medium == medium && e.state == .ready && e.key.edition != keep then
        if e.refs == 0 then none else some { e with state := .retiring }
      else some e }

/-- The master block that holds a title block (R11): none at or beyond the sum of the extents' counts. -/
def mapBlock : List Extent → Nat → Option Nat
  | [], _ => none
  | x :: xs, i => if i < x.count then some (x.first + i) else mapBlock xs (i - x.count)

/-- The volumes of a title: first block and size of each, from its breaks and its size (R2). -/
def volumes (size : Nat) (breaks : List Nat) : List (Nat × Nat) :=
  go 0 breaks
where
  go (start : Nat) : List Nat → List (Nat × Nat)
    | [] => [(start, size - start)]
    | b :: bs => (start, b - start) :: go b bs

/-- The volume, counted from 0, that holds a title block (R2): the number of breaks at or before it. -/
def volumeOf (breaks : List Nat) (i : Nat) : Nat := (breaks.filter (· ≤ i)).length

/-! ## Patrons and reading lists -/

def findPatron (s : State) (n : Nat) : Option Patron := s.patrons.find? (·.number == n)

def updatePatron (n : Nat) (f : Patron → Patron) (s : State) : State :=
  { s with patrons := replace (·.number == n) f s.patrons }

/-- Cartridge headroom (R28): the allowance less the commitment, 0 if that is not above 0. -/
def cartHeadroom (p : Patron) : Nat := p.cartAllow - p.commCarts

/-- Embossed headroom (R28). -/
def embHeadroom (p : Patron) : Nat := p.embAllow - p.commCopies

/-- The item is of this title number and medium. -/
def isItem (title : Nat) (medium : Medium) (i : ListItem) : Bool := i.title == title && i.medium == medium

/-- A patron's list with the item of a title number and medium in a new state. -/
def setItem (title : Nat) (medium : Medium) (st : ItemState) (p : Patron) : Patron :=
  { p with list := replace (isItem title medium) (fun i => { i with state := st }) p.list }

/-- The items of all lists together (R33). -/
def itemsUsed (s : State) : Nat := (s.patrons.map (·.list.length)).sum

/-- The conditions for an append at this moment, the mode apart (R34). -/
def mayQueue (s : State) (p : Patron) : Bool :=
  p.state == .active && p.shipment.isNone && !s.eligibility.contains p.number

/-- A cause of R34 other than SHIP NOW: the patron is appended at the tail if the conditions hold and its mode is AUTO. -/
def appendEligible (n : Nat) (s : State) : State :=
  match findPatron s n with
  | some p => if mayQueue s p && p.mode == .auto then { s with eligibility := s.eligibility ++ [n] } else s
  | none => s

/-- An OVERDUE HOLD patron whose overdue count is below 3 becomes ACTIVE (R27). -/
def clearHold (p : Patron) : Patron :=
  if p.state == .overdueHold && decide (p.overdue < 3) then { p with state := .active } else p

/-! ## Shipments, jobs, cartridges, copies, containers -/

def findShipment (s : State) (n : Nat) : Option Shipment := s.shipments.find? (·.number == n)

def updateShipment (n : Nat) (f : Shipment → Shipment) (s : State) : State :=
  { s with shipments := replace (·.number == n) f s.shipments }

def findJob (s : State) (n : Nat) : Option Job := s.jobs.find? (·.number == n)

def updateJob (n : Nat) (f : Job → Job) (s : State) : State :=
  { s with jobs := replace (·.number == n) f s.jobs }

def findCart (s : State) (serial : Nat) : Option Cartridge := s.cartridges.find? (·.serial == serial)

def updateCart (serial : Nat) (f : Cartridge → Cartridge) (s : State) : State :=
  { s with cartridges := replace (·.serial == serial) f s.cartridges }

def findCopy (s : State) (id : Nat) : Option Copy := s.copies.find? (·.id == id)

def updateCopy (id : Nat) (f : Copy → Copy) (s : State) : State :=
  { s with copies := replace (·.id == id) f s.copies }

def findContainer (s : State) (n : Nat) : Option Container := s.containers.find? (·.number == n)

def updateContainer (n : Nat) (f : Container → Container) (s : State) : State :=
  { s with containers := replace (·.number == n) f s.containers }

/-- Volumes scanned: the number of scanned marks set (R118). -/
def volumesScanned (c : Copy) : Nat := (c.marks.filter id).length

/-- Every mark of a copy clear (R118). -/
def noMarks (volumes : Nat) : List Bool := List.replicate volumes false

/-- A volume's scanned mark. -/
def markOf (c : Copy) (volume : Nat) : Bool := (c.marks[volume - 1]?).getD false

/-- The copy's scanned mark for a volume, set or cleared. -/
def setMark (volume : Nat) (x : Bool) (c : Copy) : Copy := { c with marks := c.marks.set (volume - 1) x }

/-! ## Bays -/

/-- The bays in ascending number. -/
def bayIds : List BayId :=
  [0, 1, 2, 3, 4, 5, 6, 7, 8, 9, 10, 11, 12, 13, 14, 15, 16, 17, 18, 19, 20, 21, 22, 23]

def getBay (s : State) (b : BayId) : Bay := s.bays[b.val]

def setBay (b : BayId) (x : Bay) (s : State) : State := { s with bays := s.bays.set b.val x }

def updateBay (b : BayId) (f : Bay → Bay) (s : State) : State := setBay b (f (getBay s b)) s

/-- The registry record of the cartridge a bay has admitted. -/
def occupantOf (s : State) (b : BayId) : Option Cartridge := (getBay s b).occupant.bind (findCart s)

/-- The bay sets the entry state of its cartridge's record (R74). -/
def setEntry (b : BayId) (e : CartState) (s : State) : State :=
  match (getBay s b).occupant with
  | some serial => updateCart serial (fun c => { c with entry := some e }) s
  | none => s

/-! ## The job queue (R61) -/

/-- The place of a shipment in the order of creation of the shipment table (R45). -/
def shipmentPlace (s : State) (n : Nat) : Nat := s.shipments.findIdx (·.number == n)

/-- The key of R61 as numbers compared in order: target (NONE after every minute), requeued flag (set before clear), place of
the shipment, cartridge index. -/
def jobKey (s : State) (j : Job) : List Nat :=
  (match j.target with
   | some t => [0, t]
   | none => [1, 0]) ++ [1 - bit j.requeued, shipmentPlace s j.shipment, j.index]

/-- The first list comes first, comparing number by number. -/
def keyBefore : List Nat → List Nat → Bool
  | x :: xs, y :: ys => decide (x < y) || (x == y && keyBefore xs ys)
  | [], _ :: _ => true
  | _, [] => false

/-- The QUEUED jobs in the order of R61. -/
def jobQueue (s : State) : List Job :=
  sortBy (fun a b => keyBefore (jobKey s a) (jobKey s b)) (s.jobs.filter (·.state == .queued))

/-- The number of QUEUED jobs of a kind. -/
def queuedOf (s : State) (k : Kind) : Nat :=
  (s.jobs.filter fun j => j.state == .queued && j.kind == k).length

/-! ## Spares (R111) -/

/-- An IN BAY record counts as a spare: its bay holds no job and is LOADED, WIPING, or PAUSED from WIPING (R74, R111). -/
def inBaySpare (s : State) (c : Cartridge) : Bool :=
  c.state == .inBay &&
    (match c.bay with
     | some b =>
       let x := getBay s b
       x.job.isNone && (x.state == .loaded || x.state == .wiping
         || (x.state == .paused && x.pausedFrom == some .wiping))
     | none => false)

/-- The record counts toward the spares of its kind (R103, R111). -/
def isSpare (s : State) (c : Cartridge) : Bool :=
  c.state == .blank || c.state == .returned || c.state == .fouled || inBaySpare s c

/-- The spare count of a kind (R111). -/
def spareCount (s : State) (k : Kind) : Nat :=
  (s.cartridges.filter fun c => c.kind == k && isSpare s c).length - queuedOf s k

/-! ## Readiness -/

/-- A job line is DONE, with a cartridge record of this kind. -/
def lineIn (s : State) (ok : Cartridge → Bool) (l : JobLine) : Bool :=
  match findJob s l.job with
  | some j =>
    j.state == .done &&
      (match j.serial.bind (findCart s) with
       | some c => ok c
       | none => false)
  | none => false

/-- Every job line is DONE with its cartridge WRITTEN (R46, R64). -/
def allWritten (s : State) (sh : Shipment) : Bool := sh.jobLines.all (lineIn s (·.state == .written))

/-- R144: every job line DONE with its cartridge WRITTEN or PACKED, every copy line's copy ALLOCATED or PACKED. An item that has left, come
back and gone into another shipment is the line's no longer: its record names the shipment it is in (R108, R118; DEDUCED, log 38). -/
def readyToPack (s : State) (sh : Shipment) : Bool :=
  sh.jobLines.all (lineIn s fun c => c.shipment == some sh.number && (c.state == .written || c.state == .packed)) &&
    sh.copyLines.all fun id =>
      match findCopy s id with
      | some c => c.shipment == some sh.number && (c.state == .allocated || c.state == .packed)
      | none => false

/-- The OPEN container of a shipment: at most one (R135). -/
def openContainer (s : State) (shipment : Nat) : Option Container :=
  s.containers.find? fun c => c.shipment == shipment && c.state == .open

/-- The OPEN batch: at most one (R153). -/
def openBatch (s : State) : Option Batch := s.batches.find? (·.state == .open)

/-! ## Loans -/

def findLoan (s : State) (i : LoanItem) : Option Loan := s.loans.find? (·.item == i)

/-- The order of the loan table: cartridges by serial, then copies by copy id (R160). -/
def loanBefore (a b : Loan) : Bool :=
  match a.item, b.item with
  | .cartridge x, .cartridge y => decide (x < y)
  | .cartridge _, .copy _ => true
  | .copy _, .cartridge _ => false
  | .copy x, .copy y => decide (x < y)

/-- A loan closes: it is deleted, the patron's commitment of the item's form falls by 1, the overdue count falls by 1 if the
loan was overdue, and an overdue hold may clear (R163, R169). -/
def closeLoan (l : Loan) (s : State) : State :=
  updatePatron l.patron (fun p =>
      clearHold <|
        match l.item with
        | .cartridge _ => { p with commCarts := p.commCarts - 1, overdue := p.overdue - bit l.overdue }
        | .copy _ => { p with commCopies := p.commCopies - 1, overdue := p.overdue - bit l.overdue })
    { s with loans := s.loans.filter fun m => !(m.item == l.item) }

end Sys2Proof.Machine
end

