-- ==== Sys2Proof/Machine/Batches.lean ====
section
/-! DEFINITION. Dispatch and Loans, shared operations: the next cut-off, joining, creating and closing batches, and the overdue
sweep (chapter 8). -/

namespace Sys2Proof.Machine

/-- The next cut-off at now (R152): today's first listed minute later than now if there is one, otherwise tomorrow's first
listed minute; none on a day after day 65,535. -/
def nextCutoff (s : State) : Option Nat :=
  match s.cutoffs.find? (fun m => decide (s.clock.minute < m)) with
  | some m => some (s.clock.day * 1440 + m)
  | none =>
    match s.cutoffs with
    | m :: _ => if s.clock.day < maxDay then some ((s.clock.day + 1) * 1440 + m) else none
    | [] => none

/-- A sealed container becomes BATCHED and names the batch, whose container count rises by 1 (R156). -/
def joinBatch (container batch : Nat) (s : State) : State :=
  { updateContainer container (fun c => { c with state := .batched, batch := some batch }) s with
    batches := replace (·.number == batch) (fun b => { b with count := b.count + 1 }) s.batches }

/-- DL takes a container as it seals: it joins the OPEN batch, LATE or not, or stays SEALED when there is none (R156). -/
def takeSealed (container : Nat) (s : State) : State :=
  match openBatch s with
  | some b => joinBatch container b.number s
  | none => s

/-- The containers SEALED and not in a batch, in ascending seal number (R154). -/
def waitingContainers (s : State) : List Container :=
  sortBy (fun a b => decide (a.sealNo.getD 0 < b.sealNo.getD 0)) (s.containers.filter (·.state == .sealed))

/-- The batch number a new batch takes (R153). -/
def newBatchNumber (s : State) : Nat := takeNumber 65535 (s.batches.map (·.number)) s.batchCounter

/-- A new OPEN batch with a cut-off, which the waiting containers join in ascending seal number (R154). -/
def openNewBatch (cutoff : Nat) (s : State) : State :=
  let n := newBatchNumber s
  (waitingContainers s).foldl (fun t c => joinBatch c.number n t)
    { s with
      batches := insertBy (fun a b => decide (a.cutoff < b.cutoff)) ⟨n, cutoff, .open, 0, false⟩ s.batches
      batchCounter := numberAfter 65535 n }

/-- R154: an OPEN batch is created whenever the clock is set, a next cut-off exists, no batch is OPEN and the table has room. -/
def createBatch (s : State) : State :=
  if s.clock.set && (openBatch s).isNone && decide (s.batches.length < batchCapacity) then
    match nextCutoff s with
    | some t => openNewBatch t s
    | none => s
  else s

/-- A batch becomes CLOSED, BATCH CLOSED is set, and creation takes place (R155). -/
def closeBatch (n : Nat) (s : State) : State :=
  createBatch <| setEvent .batchClosed
    { s with batches := replace (·.number == n) (fun b => { b with state := .closed }) s.batches }

/-- R155: now has reached the OPEN batch's cut-off. It closes if the table holds fewer than 8 batches or the cut-off list is
empty, and becomes LATE otherwise. Before that moment nothing happens. -/
def cutoffReached (s : State) : State :=
  match openBatch s with
  | some b =>
    if s.clock.set && decide (b.cutoff ≤ now s) then
      if s.batches.length < batchCapacity || s.cutoffs.isEmpty then closeBatch b.number s
      else { s with batches := replace (·.number == b.number) (fun x => { x with late := true }) s.batches }
    else s
  | none => s

/-- The OPEN batch's cut-off has come and has not been taken yet (R155). -/
def cutoffDue (s : State) : Bool :=
  match openBatch s with
  | some b => s.clock.set && !b.late && decide (b.cutoff ≤ now s)
  | none => false

/-- Between the two seals of one scan (R156): a cut-off that is due may be taken there, or after the scan; which of the two is a free
value (log 35). -/
def betweenSeals (s : State) : State :=
  if cutoffDue s then
    let t := { s with choices := s.choices + 1 }
    if Config.cutoffBetween s.choices then cutoffReached t else t
  else s

/-- The OPEN batch closes at once if it is LATE (R152, R159). While the clock is unset no batch closes (R165, log 37). -/
def closeIfLate (s : State) : State :=
  match openBatch s with
  | some b => if s.clock.set && b.late then closeBatch b.number s else s
  | none => s

/-- One loan of the overdue sweep (R162): past its due day and not yet marked, it is marked, its patron's overdue count rises by
1, and an ACTIVE patron whose count reaches 3 becomes OVERDUE HOLD. -/
def sweepLoan (s : State) (l : Loan) : State :=
  if l.due < today s && !l.overdue then
    updatePatron l.patron (fun p =>
        let p' := { p with overdue := p.overdue + 1 }
        if p'.state == .active && decide (3 ≤ p'.overdue) then { p' with state := .overdueHold } else p')
      { s with loans := replace (·.item == l.item) (fun m => { m with overdue := true }) s.loans }
  else s

/-- The overdue sweep: the loans in table order, then SWEEP DONE, whether or not any loan changed (R162). -/
def sweep (s : State) : State := setEvent .sweepDone (s.loans.foldl sweepLoan s)

end Sys2Proof.Machine
end

