-- ==== Sys2Proof/Machine/Containers.lean ====
section
/-! DEFINITION. Pack Unit, shared operations: sealing, the pack deadline and dissolution (chapter 7). -/

namespace Sys2Proof.Machine

/-- The units an item takes: 1 for a cartridge, 8 for an embossed volume (R134). -/
def itemUnits : Item → Nat
  | .cartridge _ => 1
  | .volume _ _ => 8

/-- The units a container holds (R134). -/
def capacityOf : ContainerKind → Nat
  | .pouch => 3
  | .carton => 24

/-- A container is sealed (R140): SEALED, with the seal counter's value as its seal number and no pack deadline; in the same
change DL takes it (R156). -/
def sealContainer (n : Nat) (final : Bool) (s : State) : State :=
  takeSealed n
    { updateContainer n (fun c =>
          { c with state := .sealed, sealNo := some s.sealCounter, deadline := none, final := c.final || final }) s with
      sealCounter := numberAfter max32 s.sealCounter }

/-- R144, R145: the pack deadline of a PACKING shipment's OPEN container after an event that may change whether the shipment is
ready to pack. It becomes absent when the shipment is not ready, is set 30 minutes on when the shipment has become ready, and
is kept while the shipment stays ready. -/
def refreshDeadline (shipment : Nat) (s : State) : State :=
  match findShipment s shipment with
  | some sh =>
    if sh.state == .packing then
      match openContainer s shipment with
      | some c =>
        let d := if readyToPack s sh then some (c.deadline.getD (now s + 30)) else none
        updateContainer c.number (fun x => { x with deadline := d }) s
      | none => s
    else s
  | none => s

/-- One item of a dissolved container (R146): a cartridge returns from PACKED to WRITTEN; a copy volume is forgotten, and a copy
with no mark left returns from PACKED to ALLOCATED at the tail of the pick list. -/
def unpackItem (s : State) : Item → State
  | .cartridge serial =>
    updateCart serial (fun c => if c.state == .packed then { c with state := .written } else c) s
  | .volume id volume =>
    let t := updateCopy id (setMark volume false) s
    match findCopy t id with
    | some c =>
      if c.state == .packed && volumesScanned c == 0 then
        { updateCopy id (fun x => { x with state := .allocated }) t with pickList := t.pickList ++ [id] }
      else t
    | none => t

/-- R146, its end: a shipment left with an empty container list returns to READY, with SHIPMENT READY, if every job line is DONE
with its cartridge WRITTEN, and to ASSEMBLING otherwise; with entries left it stays PACKING. -/
def afterDissolve (shipment : Nat) (s : State) : State :=
  match findShipment s shipment with
  | some sh =>
    if sh.containers.isEmpty && sh.state == .packing then
      if allWritten s sh then
        setEvent .shipmentReady (updateShipment shipment (fun x => { x with state := .ready }) s)
      else updateShipment shipment (fun x => { x with state := .assembling }) s
    else s
  | none => s

/-- Dissolution of an OPEN container (R146): its scans are undone in scan order, its items are to be scanned again, its entry
leaves the shipment's container list and its record is deleted. -/
def dissolve (c : Container) (s : State) : State :=
  let t := c.items.foldl unpackItem s
  let u := updateShipment c.shipment (fun x =>
    { x with
      toScan := x.toScan + c.items.length
      containers := x.containers.filter (·.number != c.number) }) t
  afterDissolve c.shipment { u with containers := u.containers.filter (·.number != c.number) }

/-- The OPEN containers in ascending container number. -/
def openContainers (s : State) : List Container := s.containers.filter (·.state == .open)

/-- The pack deadline of a container has come (R145). -/
def deadlinePassed (s : State) (c : Container) : Bool :=
  match c.deadline with
  | some d => c.state == .open && decide (d ≤ now s)
  | none => false

/-- Dissolve every OPEN container whose pack deadline is at or before now (R145, R151), in ascending container number: the spec orders
several dissolutions at reset only (R149), and the order fixes the pick list's tail (R128) (DESIGN CHOICE, log 39). -/
def dissolveDue (s : State) : State :=
  (s.containers.filter (deadlinePassed s)).foldl (fun t c => dissolve c t) s

/-- Dissolve every OPEN container, in ascending container number (R149). -/
def dissolveAll (s : State) : State := (openContainers s).foldl (fun t c => dissolve c t) s

end Sys2Proof.Machine
end

