-- ==== Sys2Proof/Machine/Lines.lean ====
section
/-! DEFINITION. Shipments, shared operations: becoming READY, losing a job line, being freed (R46, R47, R49, R64, R65, R143). -/

namespace Sys2Proof.Machine

/-- A job record is deleted (R65): the reference count of each of its parts' entries falls by 1. -/
def deleteJob (n : Nat) (s : State) : State :=
  match findJob s n with
  | some j =>
    let t := j.parts.foldl (fun u p => lowerRef p.key u) s
    { t with jobs := t.jobs.filter (·.number != n) }
  | none => s

/-- A shipment is freed (R49): its record is deleted and the patron's open shipment becomes absent. -/
def freeShipment (n : Nat) (s : State) : State :=
  match findShipment s n with
  | some sh =>
    updatePatron sh.patron (fun p => { p with shipment := none })
      { s with shipments := s.shipments.filter (·.number != n) }
  | none => s

/-- A shipment is freed by a cause that appends its patron under R34 (R49). -/
def freeAndAppend (n : Nat) (s : State) : State :=
  match findShipment s n with
  | some sh => appendEligible sh.patron (freeShipment n s)
  | none => s

/-- R64: an ASSEMBLING shipment whose job lines are all DONE with their cartridges WRITTEN becomes READY. -/
def readyCheck (n : Nat) (s : State) : State :=
  match findShipment s n with
  | some sh =>
    if sh.state == .assembling && allWritten s sh then
      setEvent .shipmentReady (updateShipment n (fun x => { x with state := .ready }) s)
    else s
  | none => s

/-- The last entry of a shipment's container list that is not marked released: the unreleased entry with the highest sequence
number (R136, R143). -/
def lastUnreleased (sh : Shipment) : Option ContainerEntry := (sh.containers.filter (!·.released)).getLast?

/-- A shipment becomes SEALED, and SHIPMENT SEALED is set (R46, R185). -/
def sealShipment (n : Nat) (s : State) : State :=
  setEvent .shipmentSealed (updateShipment n (fun x => { x with state := .sealed }) s)

/-- R143 for a PACKING shipment with nothing left to scan. -/
def completeShipment (sh : Shipment) (s : State) : State :=
  match openContainer s sh.number with
  | some c => sealShipment sh.number (sealContainer c.number true s)
  | none =>
    match lastUnreleased sh with
    | some e => sealShipment sh.number (updateContainer e.number (fun c => { c with final := true }) s)
    | none =>
      freeAndAppend sh.number <| sealShipment sh.number <|
        sh.jobLines.foldl (fun t l => deleteJob l.job t) s

/-- What becomes of a shipment that has lost a job line (R47, R143). -/
def afterDrop (n : Nat) (s : State) : State :=
  match findShipment s n with
  | none => s
  | some sh =>
    if sh.jobLines.isEmpty && sh.copyLines.isEmpty then freeAndAppend n s
    else
      match sh.state with
      | .assembling => readyCheck n s
      | .packing => if sh.toScan = 0 then completeShipment sh s else refreshDeadline n s
      | .ready => s
      | .sealed => s

/-- The state an item takes when its job line is dropped or its shipment cancelled: AWAITING MASTER if its title and medium have no
READY entry, WAITING otherwise (R47, R50). -/
def releasedItem (s : State) (i : ListItem) : ListItem :=
  { i with state := if (readyEntry s i.title i.medium).isSome then .waiting else .awaitingMaster }

/-- The item's title number and medium appear in a part of the job (R47). -/
def carriedBy (parts : List Part) (i : ListItem) : Bool :=
  i.state == .inShipment && parts.any fun p => isItem p.key.title p.key.medium i

/-- A patron's IN SHIPMENT items carried by these parts return to the patron's list (R47, R50). -/
def releaseItems (s : State) (parts : List Part) (p : Patron) : Patron :=
  { p with list := replace (carriedBy parts) (releasedItem s) p.list }

/-- A job line leaves its shipment without SHIPMENT CANCEL (R47): committed cartridges and items still to scan fall by 1, the items
its job carried return to the patron's list, and R143 gives what becomes of the shipment. The job record is already deleted. -/
def dropLine (j : Job) (s : State) : State :=
  match findShipment s j.shipment with
  | none => s
  | some sh =>
    afterDrop j.shipment <|
      updatePatron sh.patron (fun p => releaseItems s j.parts { p with commCarts := p.commCarts - 1 }) <|
        updateShipment j.shipment (fun x =>
          { x with jobLines := x.jobLines.filter (·.job != j.number), toScan := x.toScan - 1 }) s

end Sys2Proof.Machine
end

