-- ==== Sys2Proof/Machine/BayOps.lean ====
section
/-! DEFINITION. Duplication bays, shared operations: positions in a job, writes and their check list, pausing, assignment, giving a
job back, faults, wipes and completion (chapter 4; R62, R63 of chapter 3). -/

namespace Sys2Proof.Machine

/-! ## Positions (R79, R80) -/

/-- The parts of the job a bay holds. -/
def jobParts (s : State) (b : BayId) : List Part :=
  match (getBay s b).job.bind (findJob s) with
  | some j => j.parts
  | none => []

/-- The part at a position. -/
def partAt (parts : List Part) (p : Pos) : Option Part :=
  if p.part = 0 then none else parts[p.part - 1]?

/-- The position after a position: the next block of the part, or block 0 of the next part (R79). Past the last part it is the part after it,
block 0, to which R69 gives no value (DESIGN CHOICE, log 6). -/
def nextPos (parts : List Part) (p : Pos) : Pos :=
  match partAt parts p with
  | some q => if p.block + 1 < q.count then ⟨p.part, p.block + 1⟩ else ⟨p.part + 1, 0⟩
  | none => p

/-- The cartridge block at which part `n` starts: 16 plus the blocks of the parts before it (R79). -/
def partStart (parts : List Part) (n : Nat) : Nat := 16 + ((parts.take (n - 1)).map (·.count)).sum

/-- The cartridge block of a position (R79). -/
def cartBlock (parts : List Part) (p : Pos) : Nat := partStart parts p.part + p.block

/-- The position whose cartridge block this is. -/
def locate (parts : List Part) (block : Nat) : Option Pos := go 1 16 parts
where
  go (n start : Nat) : List Part → Option Pos
    | [] => none
    | q :: qs =>
      if start ≤ block ∧ block < start + q.count then some ⟨n, block - start⟩
      else go (n + 1) (start + q.count) qs

/-- The fill map mark of a title block is occupied (R12). -/
def isOccupied (s : State) (k : TitleKey) (block : Nat) : Bool :=
  match findTitle s k with
  | some e => e.occupied.contains block
  | none => false

/-- The first occupied block at or after a position, in part and block order (R80). -/
def nextOccupied (s : State) (parts : List Part) (p : Pos) : Option Pos :=
  go p.part p.block (parts.drop (p.part - 1))
where
  go (n start : Nat) : List Part → Option Pos
    | [] => none
    | q :: qs =>
      match (match findTitle s q.key with
        | some e => e.occupied.find? fun i => decide (q.first + start ≤ i ∧ i < q.first + q.count)
        | none => none) with
      | some i => some ⟨n, i - q.first⟩
      | none => go (n + 1) 0 qs

/-! ## Stopping an operation -/

/-- The operation under way is stopped: feed buffer emptied, phase, read-back position, rewrite mark, directory and each timer absent (R69,
R90, R91), the wipe timer as 0 (DEDUCED, log 41); the retry count, of which nothing is said, is 0 (DEDUCED, log 16). -/
def Bay.stopped (x : Bay) : Bay :=
  { x with
    buffer := []
    retry := 0
    phase := none
    readBack := none
    rewriteMark := none
    directory := none
    ackTimer := none
    identTimer := none
    wipeTimer := 0 }

/-- The bay discards its outstanding grant, if it has one; the read still takes its window (R81). -/
def discardGrant (b : BayId) (s : State) : State :=
  match s.grant with
  | some g => if g.requester = .bay b then { s with grant := some { g with discarded := true } } else s
  | none => s

/-- The bay pauses (R98): it keeps its job, positions, check list, rewrite counts and the blocks delivered; a grant outstanding
is discarded, and its block is to be requested again (R81). No acknowledgement is awaited any longer (R69). The wipe timer stops where it stands
(R98, 4.13.1). -/
def pauseBay (b : BayId) (from_ : PausedFrom) (s : State) : State :=
  updateBay b (fun x =>
    { x with
      state := .paused
      pausedFrom := some from_
      ackTimer := none
      buffer := x.buffer.filter (·.data.isSome)
      fetchPos :=
        match x.buffer.find? (·.data.isNone) with
        | some f => if from_ = .writing then f.pos else x.fetchPos
        | none => x.fetchPos }) (discardGrant b s)

/-! ## Writes (R82) -/

/-- The block's entry of the check list takes the CRC of what is written: a new entry with rewrite count 0 in ascending
cartridge block order, or the entry the block has (R82, R85, R87). -/
def recordWrite (block : Nat) (crc : Check) (l : List CheckEntry) : List CheckEntry :=
  if l.any (·.block == block) then replace (·.block == block) (fun e => { e with crc := crc }) l
  else insertBy (fun a c => decide (a.block < c.block)) ⟨block, crc, 0, false⟩ l

/-- A block is written to its cartridge block: its CRC-16 goes into the check list and the acknowledgement timer starts (R82). The write
has the next number (log 34). -/
def beginWrite (b : BayId) (block : Nat) (data : List Byte) (s : State) : State :=
  updateBay b (fun x =>
    { x with checkList := recordWrite block (crc16 data) x.checkList, ackTimer := some 0, writes := x.writes + 1 }) s

/-- The bytes of a directory block: every byte FFh for fill, a free value otherwise (R86, log 7). -/
def directoryBytes : DirectoryBlock → List Byte
  | .fill => List.replicate 65536 0xFF
  | d => Config.directoryImage d

/-- The number of directory blocks written so far: their entries stand in front of the check list (R87). -/
def directoryWritten (x : Bay) : Nat := (x.checkList.filter (·.block < 16)).length

/-- Write a directory block from the directory the bay built (R87). -/
def writeDirectoryBlock (b : BayId) (block : Nat) (s : State) : State :=
  match ((getBay s b).directory.getD [])[block]? with
  | some d => beginWrite b block (directoryBytes d) s
  | none => s

/-- The next directory write: the first block not yet written, or the last one begun when its write is to be retried (R87, R82). -/
def writeDirectory (b : BayId) (s : State) : State :=
  let x := getBay s b
  writeDirectoryBlock b (if x.retry = 1 then directoryWritten x - 1 else directoryWritten x) s

/-! ## Verifying and the directory (R84-R87) -/

/-- The volume breaks of the part's title entry that fall inside the part, counted from its first block (R86, log 29). -/
def volumeTable (s : State) (p : Part) : List Nat :=
  match findTitle s p.key with
  | some e =>
    (e.breaks.filter fun k => decide (p.first < k ∧ k < p.first + p.count)).map (· - p.first)
  | none => []

/-- The listing of the directory: each part with its starting cartridge block, in part order (R86). -/
def directoryListing (parts : List Part) : List DirectoryPart := go 16 parts
where
  go (start : Nat) : List Part → List DirectoryPart
    | [] => []
    | p :: ps => ⟨p.key, p.first, p.count, start⟩ :: go (start + p.count) ps

/-- The 16 directory blocks (R86): header and listing, the volume tables of parts 1 to 12, fill. -/
def buildDirectory (s : State) (b : BayId) : List DirectoryBlock :=
  let parts := jobParts s b
  let c := occupantOf s b
  let tables := (parts.take 12).map fun p => DirectoryBlock.volumes (volumeTable s p)
  DirectoryBlock.header ((c.map (·.serial)).getD 0) ((c.map (·.kind)).getD .s) (today s) (directoryListing parts)
    :: tables ++ List.replicate (15 - tables.length) DirectoryBlock.fill

/-- The day of duplication written in a directory's header (R86). -/
def directoryDay : List DirectoryBlock → Nat
  | .header _ _ day _ :: _ => day
  | _ => 0

/-- The data blocks have passed: the bay builds the directory and writes its first block (R86, R87), or pauses before it while the
supply is LOW (R98). -/
def enterDirectory (b : BayId) (s : State) : State :=
  let t := updateBay b (fun x =>
    { x with phase := some .directory, readBack := none, directory := some (buildDirectory s b) }) s
  if s.supply = .low then pauseBay b .verifying t else writeDirectory b t

/-- The first check list entry at or after a cartridge block. -/
def entryFrom (l : List CheckEntry) (block : Nat) : Option CheckEntry := l.find? (fun e => decide (block ≤ e.block))

/-- The bay ends WRITING and begins to check its data blocks (R83, R84); with none to check it goes on to the directory (R86). -/
def enterVerifying (b : BayId) (s : State) : State :=
  let t := updateBay b (fun x =>
    { x with
      state := .verifying
      buffer := []
      phase := some .data
      readBack := (entryFrom x.checkList 16).map (·.block) }) s
  if (getBay t b).readBack.isNone then enterDirectory b t else t

/-- What a bay in WRITING or VERIFYING does at once when nothing is awaited: past the last part it verifies (R83); with the block of
its write position, or of its rewrite mark, delivered, it writes it (R82, R85). -/
def startWrite (b : BayId) (s : State) : State :=
  let x := getBay s b
  if x.ackTimer.isSome then s
  else
    match x.state with
    | .writing =>
      let parts := jobParts s b
      if parts.length < x.writePos.part then enterVerifying b s
      else
        match x.buffer with
        | ⟨p, some data⟩ :: _ => if p = x.writePos then beginWrite b (cartBlock parts p) data s else s
        | _ => s
    | .verifying =>
      match x.rewriteMark, x.phase, x.buffer with
      | some block, some .data, ⟨_, some data⟩ :: _ => beginWrite b block data s
      | _, _, _ => s
    | _ => s

/-! ## Wipes, assignment, giving back (R75, R78, R62, R63) -/

/-- A bay enters WIPING: its cartridge's entry state becomes FOULED and the wipe timer starts from 0 (R75); while the supply is LOW
the bay goes to PAUSED at once, with paused-from WIPING (R99). -/
def enterWiping (b : BayId) (s : State) : State :=
  updateBay b (fun x =>
    if s.supply = .low then { x with state := .paused, pausedFrom := some .wiping, wipeTimer := 0 }
    else { x with state := .wiping, pausedFrom := none, wipeTimer := 0 }) (setEntry b .fouled s)

/-- A bay enters WRITING; while the supply is LOW it goes to PAUSED at once, with paused-from WRITING (R78, R99). -/
def enterWriting (b : BayId) (s : State) : State :=
  updateBay b (fun x =>
    if s.supply = .low then { x with state := .paused, pausedFrom := some .writing }
    else { x with state := .writing, pausedFrom := none }) s

/-- A bay takes a job: everything R78 lists happens together. -/
def assignJob (b : BayId) (job : Nat) (s : State) : State :=
  enterWriting b <| setEntry b .fouled <|
    updateBay b (fun x =>
      { x with
        job := some job
        checkList := []
        retry := 0
        writePos := ⟨1, 0⟩
        fetchPos := ⟨1, 0⟩ }) <|
      updateJob job (fun j => { j with state := .assigned, bay := some b }) s

/-- The bay is LOADED with a cartridge of this kind (R62). -/
def loadedWith (s : State) (k : Kind) (b : BayId) : Bool :=
  (getBay s b).state == .loaded &&
    (match occupantOf s b with
     | some c => c.kind == k
     | none => false)

/-- A QUEUED job is offered to the bays: the lowest-numbered LOADED bay of its kind takes it (R62, R78). -/
def offerJob (n : Nat) (s : State) : State :=
  match findJob s n with
  | some j =>
    match bayIds.find? (loadedWith s j.kind) with
    | some b => assignJob b n s
    | none => s
  | none => s

/-- A bay enters LOADED and takes the first QUEUED job of its cartridge's kind, in queue order (R78). A wipe that led to it is awaited no
longer (R69, R76, log 41). -/
def enterLoaded (b : BayId) (s : State) : State :=
  let t := updateBay b (fun x => { x with state := .loaded, wipeTimer := 0 }) s
  match occupantOf t b with
  | some c =>
    match (jobQueue t).find? (·.kind == c.kind) with
    | some j => assignJob b j.number t
    | none => t
  | none => t

/-- A bay gives back its job, if it holds one (R63): the job becomes QUEUED with its requeued flag set and is offered to the bays. A
job already deleted is not requeued. -/
def giveBack (b : BayId) (s : State) : State :=
  match (getBay s b).job with
  | some n =>
    let t := updateBay b (fun x => { x with job := none }) s
    match findJob t n with
    | some _ =>
      offerJob n (updateJob n (fun j => { j with state := .queued, bay := none, requeued := true }) t)
    | none => t
  | none => s

/-! ## Faults, completion, leaving (R88, R89, R91) -/

/-- The bay's cartridge is charged with a fault: its fault count rises by 1, to 3 at most, and its entry state becomes WITHDRAWN at
3 and FOULED below (R74, R91, R110). -/
def chargeFault (c : Cartridge) : Cartridge :=
  { c with
    faults := min 3 (c.faults + 1)
    entry := some (if 3 ≤ c.faults + 1 then .withdrawn else .fouled) }

/-- A bay enters FAULT (R91). -/
def faultBay (b : BayId) (reason : BayFault) (s : State) : State :=
  let t := updateBay b (fun x =>
    { x.stopped with
      state := .fault
      faultReason := some reason
      pausedFrom := none
      faults := min 3 (x.faults + 1) }) (discardGrant b s)
  let u := match (getBay s b).occupant with
    | some serial => updateCart serial chargeFault t
    | none => t
  setBayEvent b (giveBack b u)

/-- The content list a job gives its cartridge (R107). -/
def contentOf (parts : List Part) : List Content := parts.map fun p => ⟨p.key, p.first, p.count⟩

/-- The registry's part of a completion (R88, R107, R108, R109). -/
def completeCart (j : Job) (day : Nat) (c : Cartridge) : Cartridge :=
  { c with
    content := contentOf j.parts
    dupDay := some day
    wear := min 65535 (c.wear + 1)
    job := some j.number
    shipment := some j.shipment
    entry := some .written }

/-- A bay that has passed its directory enters DONE (R88, R64). -/
def finishBay (b : BayId) (s : State) : State :=
  let x := getBay s b
  let day := directoryDay (x.directory.getD [])
  let t := updateBay b (fun y => { y.stopped with state := .done, job := none, faults := 0 }) s
  let u := match x.job.bind (findJob s), x.occupant with
    | some j, some serial =>
      updateShipment j.shipment (fun sh =>
          { sh with jobLines := replace (·.job == j.number) (fun l => { l with serial := some serial }) sh.jobLines }) <|
        updateJob j.number (fun k => { k with state := .done, bay := none, serial := some serial }) <|
          updateCart serial (completeCart j day) t
    | _, _ => t
  setBayEvent b u

/-- The record leaves IN BAY and takes its entry state (R89, R104, R106). -/
def leaveCart (c : Cartridge) : Cartridge :=
  { c with state := c.entry.getD .fouled, bay := none, entry := none }

/-- PL and PK look at the shipment whose cartridge has become WRITTEN (R64, R144). -/
def cartWritten (serial : Nat) (s : State) : State :=
  match findCart s serial with
  | some c =>
    match c.shipment with
    | some n => if c.state == .written then refreshDeadline n (readyCheck n s) else s
    | none => s
  | none => s

/-- A bay whose cartridge has gone: occupant, rejected serial, reasons, paused-from and check list cleared, the operation stopped and with it
the wipe timer (R73, R89). The consecutive fault count and the job field, which `giveBack` settles, are kept. -/
def Bay.vacated (x : Bay) (st : BayState) : Bay :=
  { x.stopped with
    state := st
    occupant := none
    rejected := none
    rejectReason := none
    faultReason := none
    pausedFrom := none
    checkList := []
    present := false }

/-- A bay begins to identify the cartridge it senses: IDENTIFYING, with the identification timer (R71). -/
def beginIdentify (x : Bay) : Bay := { x with state := .identifying, present := true, identTimer := some 0 }

/-! ## Suspect cancellation (R24, R48, R66, R92, R93) -/

/-- A bay whose job has been cancelled aborts (R92, R93): its cartridge is FOULED and wiped in place, at once from WRITING or
VERIFYING, when the supply recovers from PAUSED. -/
def abortBay (b : BayId) (s : State) : State :=
  let t := updateBay b (fun x => { x.stopped with job := none, checkList := [] }) (discardGrant b s)
  match (getBay s b).state with
  | .paused => updateBay b (fun x => { x with pausedFrom := some .wiping }) (setEntry b .fouled t)
  | .writing => enterWiping b t
  | .verifying => enterWiping b t
  | _ => t

/-- One job named by a suspect entry is cancelled (R66): its record is deleted, the bay that holds it aborts, and its line leaves the
shipment (R47). A DONE job is left. -/
def cancelJob (n : Nat) (s : State) : State :=
  match findJob s n with
  | some j =>
    if j.state == .done then s
    else
      let t := deleteJob n s
      dropLine j (match j.bay with
        | some b => abortBay b t
        | none => t)
  | none => s

/-- The jobs with a part of an entry, in ascending job number (R66). -/
def jobsNaming (s : State) (k : TitleKey) : List Nat :=
  (s.jobs.filter fun j => j.parts.any (·.key == k)).map (·.number)

/-- A patron's WAITING item of a title number and medium becomes AWAITING MASTER (R48). -/
def awaitMaster (title : Nat) (medium : Medium) (p : Patron) : Patron :=
  let hit := fun i : ListItem => isItem title medium i && i.state == .waiting
  { p with list := replace hit (fun i => { i with state := .awaitingMaster }) p.list }

/-- R48: on every list, a WAITING item of the title number and medium becomes AWAITING MASTER if no READY entry exists. -/
def suspectItems (k : TitleKey) (s : State) : State :=
  if (readyEntry s k.title k.medium).isSome then s
  else { s with patrons := s.patrons.map (awaitMaster k.title k.medium) }

/-- R24: TS hands a suspect entry to the Planner, the bays and the Selection Unit. -/
def cancelEntry (k : TitleKey) (s : State) : State :=
  suspectItems k ((jobsNaming s k).foldl (fun t n => cancelJob n t) s)

end Sys2Proof.Machine
end

