-- ==== Sys2Proof/Machine/Bays.lean ====
section
/-! DEFINITION. Chapter 4, the bays: insertion, identification and admission, wipes, writes, verification, removal, and the BAY
requests (R71-R95). -/

namespace Sys2Proof.Machine

/-! ## Insertion and identification (R71, R72) -/

/-- The cartridge present sense of a bay rises (R71): an EMPTY bay begins identification, an OUT OF SERVICE bay notes the sense, an
ABSENT bay ignores it (R70). In any other state the bay holds a cartridge already. -/
def insertCartridge (b : BayId) (s : State) : State :=
  match (getBay s b).state with
  | .empty => updateBay b beginIdentify s
  | .outOfService => updateBay b (fun x => { x with present := true }) s
  | _ => s

/-- The bay goes to REJECT with a reason, keeping the serial read if there is one (R71, R72). -/
def rejectBay (b : BayId) (reason : RejectReason) (serial : Option Nat) (s : State) : State :=
  setBayEvent b (updateBay b (fun x =>
    { x with state := .reject, rejectReason := some reason, rejected := serial, identTimer := none }) s)

/-- Admission of a record (R72, R106): IN BAY, naming the bay, its entry state the state it held, its kind the kind read. A record
admitted from RETURNED or FOULED names no shipment and no job (R108). -/
def admitRecord (b : BayId) (k : Kind) (c : Cartridge) : Cartridge :=
  let spent := c.state == .returned || c.state == .fouled
  { c with
    state := .inBay
    bay := some b
    entry := some c.state
    kind := k
    shipment := if spent then none else c.shipment
    job := if spent then none else c.job }

/-- The bay's side of an admission: its occupant names the serial, and the identification is over (R72). -/
def admitCart (b : BayId) (serial : Nat) (k : Kind) (s : State) : State :=
  updateBay b (fun x => { x with occupant := some serial, identTimer := none })
    (updateCart serial (admitRecord b k) s)

/-- The registry is ordered by serial (R102). -/
def cartBefore (a c : Cartridge) : Bool := decide (a.serial < c.serial)

/-- A newly enrolled record (R105). -/
def enrolled (serial : Nat) (k : Kind) : Cartridge where
  serial := serial
  kind := k
  state := .fouled
  bay := none
  entry := none
  shipment := none
  job := none
  content := []
  dupDay := none
  wear := 0
  faults := 0

/-- A WRITTEN cartridge seen again (R72): the bay goes to DONE with the BAY event flag, and its shipment stops being ready to pack
(R144). -/
def seenAgain (b : BayId) (c : Cartridge) (k : Kind) (s : State) : State :=
  let t := setBayEvent b (updateBay b (fun x => { x with state := .done }) (admitCart b c.serial k s))
  match c.shipment with
  | some n => refreshDeadline n t
  | none => t

/-- The table of R72, for a serial and kind that were read. -/
def identify (b : BayId) (serial : Nat) (k : Kind) (s : State) : State :=
  match findCart s serial with
  | some c =>
    match c.state with
    | .blank => enterLoaded b (admitCart b serial k s)
    | .returned => enterWiping b (admitCart b serial k s)
    | .fouled => enterWiping b (admitCart b serial k s)
    | .written => seenAgain b c k s
    | .packed => rejectBay b .packed (some serial) s
    | .out => rejectBay b .notReturned (some serial) s
    | .quarantined => rejectBay b .quarantined (some serial) s
    | .withdrawn => rejectBay b .withdrawn (some serial) s
    | .inBay => rejectBay b .inOtherBay (some serial) s
  | none =>
    if s.cartridges.length < cartridgeCapacity then
      enterWiping b (admitCart b serial k { s with cartridges := insertBy cartBefore (enrolled serial k) s.cartridges })
    else rejectBay b .registryFull (some serial) s

/-- The identity read completes (R71, R72). Outside IDENTIFYING the completion is discarded; in it, it is taken as that of the present read (DESIGN
CHOICE, log 43). -/
def identityRead (b : BayId) (serial : Nat) (kind : Option Kind) (s : State) : State :=
  if (getBay s b).state = .identifying then
    match kind with
    | some k => if serial = 0 then rejectBay b .unreadable none s else identify b serial k s
    | none => rejectBay b .unreadable none s
  else s

/-- The identification timer expires (R71). -/
def identityLate (b : BayId) (s : State) : State :=
  if (getBay s b).state = .identifying then
    rejectBay b .unreadable none s
  else s

/-! ## Removal (R89, R90) -/

/-- The state a bay takes when its cartridge is removed (R89). -/
def stateAfterRemoval (x : Bay) : BayState :=
  if x.state = .fault ∧ 3 ≤ x.faults then .outOfService else .empty

/-- The cartridge's record leaves IN BAY, and the bay is vacated (R89). -/
def vacateBay (b : BayId) (s : State) : State :=
  let x := getBay s b
  let next := stateAfterRemoval x
  updateBay b (fun y =>
      { y.vacated next with faults := if next = .outOfService then 0 else y.faults })
    (match x.occupant with
     | some serial => updateCart serial leaveCart (discardGrant b s)
     | none => discardGrant b s)

/-- The cartridge present sense of a bay falls (R89, R90): the bay is vacated, PL and PK look at the shipment of a cartridge that left
DONE (R64, R144), and the bay gives back its job, if it holds one (R63). -/
def removeCartridge (b : BayId) (s : State) : State :=
  let x := getBay s b
  match x.state with
  | .absent => s
  | .empty => s
  | .outOfService => updateBay b (fun y => { y with present := false }) s
  | .done =>
    match x.occupant with
    | some serial => cartWritten serial (vacateBay b s)
    | none => vacateBay b s
  | _ => giveBack b (vacateBay b s)

/-! ## Wipes (R76, R77) -/

/-- A completed wipe empties the record's content list, and its entry state becomes BLANK (R76, R107). -/
def wiped (c : Cartridge) : Cartridge := { c with entry := some .blank, content := [], dupDay := none }

/-- The writer module reports a completed wipe (R76). Outside WIPING the report is discarded; in it, it is taken as that of the present wipe (DESIGN
CHOICE, log 43). -/
def wipeDone (b : BayId) (s : State) : State :=
  let x := getBay s b
  if x.state = .wiping then
    enterLoaded b (match x.occupant with
      | some serial => updateCart serial wiped s
      | none => s)
  else s

/-- The writer module reports a failed wipe (R77), taken as that of the present wipe (DESIGN CHOICE, log 43). -/
def wipeFailed (b : BayId) (s : State) : State :=
  if (getBay s b).state = .wiping then faultBay b .wipeFailure s else s

/-- The wipe timeout of the cartridge in a bay (R75). -/
def wipeLimit (s : State) (b : BayId) : Nat := wipeTime (((occupantOf s b).map (·.kind)).getD .s)

/-- The wipe timer reaches the timeout (R77). -/
def wipeLate (b : BayId) (s : State) : State :=
  if (getBay s b).state = .wiping then faultBay b .wipeTimeout s else s

/-! ## Writing (R79, R82) -/

/-- The block at the write position of a bay in WRITING is a fill block, and nothing is being written (R79). -/
def restsOnFill (s : State) (b : BayId) : Bool :=
  let x := getBay s b
  x.state == .writing && x.ackTimer.isNone &&
    (match partAt (jobParts s b) x.writePos with
     | some p => !isOccupied s p.key (p.first + x.writePos.block)
     | none => false)

/-- The bay passes over a fill block (R79). -/
def passFill (b : BayId) (s : State) : State :=
  if restsOnFill s b then
    startWrite b (updateBay b (fun x => { x with writePos := nextPos (jobParts s b) x.writePos }) s)
  else s

/-- The write of a bay is settled: no acknowledgement is awaited and the retry count is 0 (R82). -/
def settled (x : Bay) : Bay := { x with ackTimer := none, retry := 0 }

/-- The acknowledgement of a data block in WRITING (R82): the block leaves the buffer and the write position advances; a LOW supply
pauses the bay now (R98). -/
def ackData (b : BayId) (s : State) : State :=
  let t := updateBay b (fun x =>
    { settled x with buffer := x.buffer.tail, writePos := nextPos (jobParts s b) x.writePos }) s
  if s.supply = .low then pauseBay b .writing t else startWrite b t

/-- The acknowledgement of a rewrite (R85, R87): the block is to be read back again. -/
def ackRewrite (b : BayId) (s : State) : State :=
  let t := updateBay b (fun x => { settled x with rewriteMark := none, buffer := [] }) s
  if s.supply = .low then pauseBay b .verifying t else t

/-- The acknowledgement of a directory block (R87): the next one is written, or after block 15 the read-back of block 0 begins. -/
def ackDirectory (b : BayId) (s : State) : State :=
  let last := decide (16 ≤ directoryWritten (getBay s b))
  let t := updateBay b (fun x => { settled x with readBack := if last then some 0 else x.readBack }) s
  if s.supply = .low then pauseBay b .verifying t
  else if last then t
  else writeDirectory b t

/-- The cartridge acknowledges a block write, the one that `write` numbers (R82, log 34). An acknowledgement that is not awaited, or of a
write whose timer has expired, is discarded. -/
def writeDone (b : BayId) (write : Nat) (s : State) : State :=
  let x := getBay s b
  if x.ackTimer.isNone ∨ write ≠ x.writes then s
  else
    match x.state with
    | .writing => ackData b s
    | .verifying => if x.rewriteMark.isSome then ackRewrite b s else ackDirectory b s
    | _ => s

/-- The first expiry of a write (R82): the retry count becomes 1 and the block is written again, as a write of its own number, or under a LOW supply the bay
pauses and keeps the block (R98). -/
def retryWrite (b : BayId) (from_ : PausedFrom) (s : State) : State :=
  if s.supply = .low then pauseBay b from_ (updateBay b (fun x => { x with retry := 1 }) s)
  else updateBay b (fun x => { x with retry := 1, ackTimer := some 0, writes := x.writes + 1 }) s

/-- The acknowledgement timer of a bay expires (R82). -/
def ackLate (b : BayId) (s : State) : State :=
  let x := getBay s b
  if x.ackTimer.isNone then s
  else
    match x.state with
    | .writing => if x.retry = 0 then retryWrite b .writing s else faultBay b .ackTimeout s
    | .verifying => if x.retry = 0 then retryWrite b .verifying s else faultBay b .ackTimeout s
    | _ => s

/-! ## Reading back (R84, R85, R87) -/

/-- The check list entry being read back: a bay in VERIFYING with no block to rewrite and no write in progress (R84). -/
def readingBack (x : Bay) : Option CheckEntry :=
  if x.state = .verifying ∧ x.rewriteMark = none ∧ x.ackTimer = none then
    x.readBack.bind fun n => x.checkList.find? (·.block == n)
  else none

/-- The bay goes on after a block has passed (R84, R86, R87). -/
def readNext (b : BayId) (block : Nat) (s : State) : State :=
  let x := getBay s b
  if x.phase = some .directory ∧ block = 15 then finishBay b s
  else
    match entryFrom x.checkList (block + 1) with
    | some e => updateBay b (fun y => { y with readBack := some e.block }) s
    | none => enterDirectory b s

/-- A block passes (R84). -/
def blockPassed (b : BayId) (e : CheckEntry) (s : State) : State :=
  readNext b e.block (updateBay b (fun x =>
    { x with checkList := replace (·.block == e.block) (fun y => { y with passed := true }) x.checkList }) s)

/-- A block is marked for rewrite, and its rewrite count rises by 1 (R85). -/
def markRewrite (e : CheckEntry) (x : Bay) : Bay :=
  { x with
    rewriteMark := some e.block
    checkList := replace (·.block == e.block) (fun y => { y with rewrites := y.rewrites + 1 }) x.checkList }

/-- A block differs, or its read was not answered (R84, R85, R87): the third mismatch is a fault; before it the block is rewritten, a
directory block at once, a data block once it is fetched. While the supply is LOW the bay pauses instead (R98). -/
def blockDiffers (b : BayId) (e : CheckEntry) (s : State) : State :=
  if 2 ≤ e.rewrites then faultBay b .verify s
  else
    let t := updateBay b (markRewrite e) s
    if s.supply = .low then pauseBay b .verifying t
    else if (getBay s b).phase = some .directory then writeDirectoryBlock b e.block t
    else t

/-- A read-back completes with data (R84), taken as the present read-back (DESIGN CHOICE, log 43). -/
def readBackData (b : BayId) (data : List Byte) (s : State) : State :=
  match readingBack (getBay s b) with
  | some e => if crc16 data = e.crc then blockPassed b e s else blockDiffers b e s
  | none => s

/-- A read-back is not answered within 250 ms (R84). -/
def readBackLate (b : BayId) (s : State) : State :=
  match readingBack (getBay s b) with
  | some e => blockDiffers b e s
  | none => s

/-! ## BAY SERVICE and BAY QUERY (R94, R95) -/

/-- The bay with a number. -/
def bayOf (n : Nat) : Option BayId := if h : n < 24 then some ⟨n, h⟩ else none

/-- BAY SERVICE with action OUT; any action but OUT and IN is answered RANGE (R94). -/
def serviceOutRule (bay action : Nat) (s : State) : Answer :=
  match bayOf bay with
  | none => statusOnly .range s
  | some b =>
    if action ≠ 1 then statusOnly .range s
    else if (getBay s b).state = .empty then okWith [] (updateBay b (fun x => { x with state := .outOfService }) s)
    else statusOnly .busy s

/-- BAY SERVICE with action IN (R94). -/
def serviceInRule (bay : Nat) (s : State) : Answer :=
  match bayOf bay with
  | none => statusOnly .range s
  | some b =>
    if (getBay s b).state = .outOfService then
      okWith [] (updateBay b (fun x =>
        let y := { x with state := .empty, faults := 0 }
        if x.present then beginIdentify y else y) s)
    else statusOnly .busy s

/-- The rewrite count of the block under verification; 0 when there is none (R95). -/
def rewritesNow (x : Bay) : Nat :=
  ((x.readBack.bind fun n => x.checkList.find? (·.block == n)).map (·.rewrites)).getD 0

/-- The data of a BAY QUERY reply for one bay (R95, log 12). A write position past the last part, as in VERIFYING, is sent as the number of parts
plus 1 and block 0: R69 gives it no value (DESIGN CHOICE, log 12). -/
def bayData (x : Bay) : List Byte :=
  leBytes 1 (bayStateCode x.state) ++ leBytes 1 (lampCode x.state) ++ leBytes 1 (bit (x.state != .outOfService))
    ++ leBytes 1 (bit x.present)
    ++ optField 4 x.occupant ++ optField 4 x.rejected ++ optField 1 (x.rejectReason.map rejectCode)
    ++ optField 1 (x.faultReason.map bayFaultCode) ++ optField 2 x.job
    ++ leBytes 1 (if x.job.isSome then x.writePos.part else 0)
    ++ leBytes 2 (if x.job.isSome then x.writePos.block else 0)
    ++ leBytes 1 x.buffer.length ++ leBytes 3 x.checkList.length ++ leBytes 3 (x.checkList.filter (·.passed)).length
    ++ leBytes 1 (rewritesNow x) ++ leBytes 1 x.faults ++ optField 1 (x.pausedFrom.map pausedFromCode)
    ++ leBytes 2 (if x.state = .wiping then x.wipeTimer / 1000 else 0)

/-- BAY QUERY of one bay (R95). -/
def bayQueryRule (bay : Nat) (s : State) : Answer :=
  match bayOf bay with
  | none => statusOnly .range s
  | some b => okWith (bayData (getBay s b)) s

/-- One bay of a BAY QUERY of the rack (R95). -/
def rackData (x : Bay) : List Byte :=
  leBytes 1 (bayStateCode x.state) ++ optField 4 x.occupant ++ optField 2 x.job

/-- BAY QUERY of the whole rack (R95). -/
def rackQueryRule (s : State) : Answer := okWith (bayIds.flatMap fun b => rackData (getBay s b)) s

/-! ## The commands -/

/-- BAY_QUERY. -/
def execBayQuery (tag : Byte) (body : List Byte) (s : State) : Host.Outcome State Fault Refusal :=
  serve (.bayQuery tag body) ⟨0x38, tag, body⟩ (bayQueryRule (field body 0 1)) s

/-- BAY_QUERY_RACK. -/
def execBayQueryRack (tag : Byte) (body : List Byte) (s : State) : Host.Outcome State Fault Refusal :=
  serve (.bayQueryRack tag body) ⟨0x38, tag, body⟩ rackQueryRule s

/-- BAY_SERVICE_OUT. -/
def execBayServiceOut (tag : Byte) (body : List Byte) (s : State) : Host.Outcome State Fault Refusal :=
  serve (.bayServiceOut tag body) ⟨0x39, tag, body⟩ (serviceOutRule (field body 0 1) (field body 1 1)) s

/-- BAY_SERVICE_IN. -/
def execBayServiceIn (tag : Byte) (body : List Byte) (s : State) : Host.Outcome State Fault Refusal :=
  serve (.bayServiceIn tag body) ⟨0x39, tag, body⟩ (serviceInRule (field body 0 1)) s

/-- CARTRIDGE_INSERTED. -/
def execCartridgeInserted (bay : BayId) (s : State) : Host.Outcome State Fault Refusal :=
  event (insertCartridge bay) s

/-- IDENTITY_READ_DONE. -/
def execIdentityReadDone (bay : BayId) (serial : BitVec 32) (kind : Option Kind) (s : State) :
    Host.Outcome State Fault Refusal :=
  event (identityRead bay serial.toNat kind) s

/-- IDENTIFICATION_TIMEOUT. -/
def execIdentificationTimeout (bay : BayId) (s : State) : Host.Outcome State Fault Refusal :=
  event (identityLate bay) s

/-- CARTRIDGE_REMOVED. -/
def execCartridgeRemoved (bay : BayId) (s : State) : Host.Outcome State Fault Refusal :=
  event (removeCartridge bay) s

/-- WIPE_COMPLETE. -/
def execWipeComplete (bay : BayId) (s : State) : Host.Outcome State Fault Refusal := event (wipeDone bay) s

/-- WIPE_FAILURE. -/
def execWipeFailure (bay : BayId) (s : State) : Host.Outcome State Fault Refusal := event (wipeFailed bay) s

/-- WIPE_TIMEOUT. -/
def execWipeTimeout (bay : BayId) (s : State) : Host.Outcome State Fault Refusal := event (wipeLate bay) s

/-- FILL_BLOCK_PASSED. -/
def execFillBlockPassed (bay : BayId) (s : State) : Host.Outcome State Fault Refusal := event (passFill bay) s

/-- WRITE_ACKNOWLEDGED. -/
def execWriteAcknowledged (answered : BlockWrite) (s : State) : Host.Outcome State Fault Refusal :=
  event (writeDone answered.bay answered.write) s

/-- ACK_TIMEOUT. -/
def execAckTimeout (bay : BayId) (s : State) : Host.Outcome State Fault Refusal := event (ackLate bay) s

/-- READ_BACK_DONE. -/
def execReadBackDone (bay : BayId) (data : List Byte) (s : State) : Host.Outcome State Fault Refusal :=
  event (readBackData bay data) s

/-- READ_BACK_TIMEOUT. -/
def execReadBackTimeout (bay : BayId) (s : State) : Host.Outcome State Fault Refusal := event (readBackLate bay) s

end Sys2Proof.Machine
end

