-- ==== Sys2Proof/Machine/Clocks.lean ====
section
/-! DEFINITION. One millisecond of the part's running timers: what an idle step does (log 3). -/

namespace Sys2Proof.Machine

/-- A timer that is present runs up to its limit. -/
def runTimer (limit : Nat) (t : Option Nat) : Option Nat := t.map fun n => min limit (n + 1)

/-- The timers of a bay (R69): the acknowledgement and identification timers while present, the wipe timer in WIPING. -/
def tickBay (s : State) (b : BayId) : Bay :=
  let x := getBay s b
  { x with
    ackTimer := runTimer ackTime x.ackTimer
    identTimer := runTimer identTime x.identTimer
    wipeTimer := if x.state = .wiping then min (wipeLimit s b) (x.wipeTimer + 1) else x.wipeTimer }

/-- The gap since the last byte of a frame (R182). -/
def tickReceiver : Receiver → Receiver
  | .hunting => .hunting
  | .inFrame bytes gap => .inFrame bytes (min gapTime (gap + 1))

/-- One millisecond: every running timer advances, none expires; an expiry is a command of its own (log 4). While main power is off
nothing runs. -/
def tick (s : State) : State :=
  if s.power then
    { s with
      bays := Vector.ofFn fun i => tickBay s i
      lowTimer := if s.supply = .low then min lowTime (s.lowTimer + 1) else s.lowTimer
      rx := tickReceiver s.rx }
  else s

end Sys2Proof.Machine
end

