-- ==== Sys2Proof/Machine/Calendar.lean ====
section
/-! DEFINITION. Chapter 8, the calendar: CLOCK SET, CUTOFF SET, LOAN PERIOD SET, the minute, the cut-off (R150-R155, R161). -/

namespace Sys2Proof.Machine

/-- The clock takes a value and becomes set; CLOCK UNSET follows (R151, R186). -/
def putClock (day minute : Nat) (s : State) : State :=
  let t := { s with clock := ⟨day, minute, true⟩ }
  if s.clock.set then t else markChanged .clockUnset t

/-- CLOCK SET with a day and minute in range (R151): the clock, then the sweep if the day is later, the cut-off, batch creation, and the
pack deadlines. -/
def setClock (day minute : Nat) (s : State) : State :=
  let t := putClock day minute s
  let u := if s.clock.day < day then sweep t else t
  dissolveDue (createBatch (cutoffReached u))

/-- CLOCK SET (R151). -/
def clockSetRule (day minute : Nat) (s : State) : Answer :=
  if maxDay < day ∨ 1439 < minute then statusOnly .range s else okWith [] (setClock day minute s)

/-- A minute put into an ascending list, unless it is there (R152). -/
def mergeMinute (m : Nat) (l : List Nat) : List Nat :=
  if l.contains m then l else insertBy (fun a b => decide (a < b)) m l

/-- The minutes sorted, with repeats merged (R152). -/
def keptMinutes (l : List Nat) : List Nat := l.foldl (fun acc m => mergeMinute m acc) []

/-- The minutes of a CUTOFF SET body: as many as its count, two bytes each (10.5). -/
def bodyMinutes (body : List Byte) : List Nat :=
  (List.range (field body 0 1)).map fun i => field body (1 + 2 * i) 2

/-- The cut-off list is replaced, and the batches follow (R152, R154, R155). -/
def putCutoffs (l : List Nat) (s : State) : State :=
  let t := { s with cutoffs := l }
  createBatch (if l.isEmpty then closeIfLate t else t)

/-- CUTOFF SET (R152). -/
def cutoffSetRule (minutes : List Nat) (s : State) : Answer :=
  if 4 < minutes.length ∨ minutes.any (fun m => decide (1440 ≤ m)) then statusOnly .range s
  else okWith (listField (leBytes 2) (keptMinutes minutes)) (putCutoffs (keptMinutes minutes) s)

/-- A loan period clamped to 7-120 days (R161). -/
def clampPeriod (n : Nat) : Nat := max 7 (min 120 n)

/-- LOAN PERIOD SET (R161). -/
def loanPeriodRule (cartridge copy : Nat) (s : State) : Answer :=
  okWith (leBytes 1 (clampPeriod cartridge) ++ leBytes 1 (clampPeriod copy))
    { s with cartridgePeriod := clampPeriod cartridge, copyPeriod := clampPeriod copy }

/-- The timebase advances the clock by one minute (R150). The events that a new minute makes for the batch table and the container table
are commands of their own (log 21). -/
def advanceMinute (s : State) : State :=
  if !s.clock.set then s
  else if s.clock.minute + 1 < 1440 then { s with clock := { s.clock with minute := s.clock.minute + 1 } }
  else if s.clock.day < maxDay then sweep { s with clock := ⟨s.clock.day + 1, 0, true⟩ }
  else s

/-- CLOCK_SET. -/
def execClockSet (tag : Byte) (body : List Byte) (s : State) : Host.Outcome State Fault Refusal :=
  serve (.clockSet tag body) ⟨0x01, tag, body⟩ (clockSetRule (field body 0 2) (field body 2 2)) s

/-- CUTOFF_SET. -/
def execCutoffSet (tag : Byte) (body : List Byte) (s : State) : Host.Outcome State Fault Refusal :=
  serve (.cutoffSet tag body) ⟨0x02, tag, body⟩ (cutoffSetRule (bodyMinutes body)) s

/-- LOAN_PERIOD_SET. -/
def execLoanPeriodSet (tag : Byte) (body : List Byte) (s : State) : Host.Outcome State Fault Refusal :=
  serve (.loanPeriodSet tag body) ⟨0x03, tag, body⟩ (loanPeriodRule (field body 0 1) (field body 1 1)) s

/-- MINUTE_ADVANCE. -/
def execMinuteAdvance (s : State) : Host.Outcome State Fault Refusal := event advanceMinute s

/-- BATCH_CUTOFF. -/
def execBatchCutoff (s : State) : Host.Outcome State Fault Refusal := event cutoffReached s

end Sys2Proof.Machine
end

