-- ==== Sys2Proof/Machine/HoldService.lean ====
section
/-! DEFINITION. Stock and Holds, shared operations: the pick list, copies entering SHELF, and hold service (chapter 6). -/

namespace Sys2Proof.Machine

/-- The entries of a title's hold queue, oldest first (R122). -/
def holdQueue (s : State) (title : Nat) : List Hold := s.holds.filter (·.title == title)

/-- A patron's entry is removed from a title's hold queue, which closes up (R122). -/
def dropHold (title patron : Nat) (s : State) : State :=
  { s with holds := s.holds.filter fun h => !(h.title == title && h.patron == patron) }

/-- A copy becomes ALLOCATED for a patron and a shipment and joins the tail of the pick list (R124, R127, R128). -/
def allocateCopy (id patron shipment : Nat) (s : State) : State :=
  { updateCopy id (fun c => { c with state := .allocated, patron := some patron, shipment := some shipment }) s with
    pickList := s.pickList ++ [id] }

/-- A copy leaves the pick list; the copies behind it move up (R128). -/
def unpick (id : Nat) (s : State) : State := { s with pickList := s.pickList.filter (· != id) }

/-- The patron qualifies for a copy: ACTIVE with embossed headroom above 0 (R123). -/
def qualifies (s : State) (patron : Nat) : Bool :=
  match findPatron s patron with
  | some p => p.state == .active && decide (0 < embHeadroom p)
  | none => false

/-- The open shipment that takes a chosen patron's copy: one that is ASSEMBLING or READY (R124). -/
def takingShipment (s : State) (p : Patron) : Option Shipment :=
  match p.shipment.bind (findShipment s) with
  | some sh => if sh.state == .assembling || sh.state == .ready then some sh else none
  | none => none

/-- R124: the copy goes into the chosen patron's open shipment. -/
def allocateInto (c : Copy) (p : Patron) (sh : Shipment) (s : State) : State :=
  updatePatron p.number (setItem c.title .embossed .inShipment) <|
    updateShipment sh.number
      (fun x => { x with copyLines := x.copyLines ++ [c.id], toScan := x.toScan + c.volumes }) <|
      allocateCopy c.id p.number sh.number s

/-- R125: the copy is set aside on the shelf for the chosen patron. -/
def reserveFor (c : Copy) (p : Patron) (s : State) : State :=
  appendEligible p.number <| setEvent .holdReserved <|
    updatePatron p.number (setItem c.title .embossed .reserved) <|
      updateCopy c.id (fun x => { x with state := .reserved, patron := some p.number, shipment := none }) s

/-- Hold service for one copy that has entered SHELF (R123): the first entry of its title's queue whose patron qualifies is
removed, that patron's committed copies rises by 1, and the copy goes to the patron under R124 or R125. With no such entry the
copy stays on SHELF and nothing else changes. -/
def holdService (id : Nat) (s : State) : State :=
  match findCopy s id with
  | none => s
  | some c =>
    match (holdQueue s c.title).find? (fun h => qualifies s h.patron) with
    | none => s
    | some h =>
      match findPatron s h.patron with
      | none => s
      | some p =>
        let t := updatePatron p.number (fun q => { q with commCopies := q.commCopies + 1 })
          (dropHold c.title p.number s)
        match takingShipment s p with
        | some sh => allocateInto c p sh t
        | none => reserveFor c p t

/-- A copy enters SHELF: its patron and shipment fields become absent, it leaves the pick list if it stood there, and hold
service runs for it as part of the same change (R119, R123). -/
def toShelf (id : Nat) (s : State) : State :=
  holdService id <| unpick id <|
    updateCopy id (fun c => { c with state := .shelf, patron := none, shipment := none }) s

end Sys2Proof.Machine
end

