-- ==== Sys2Proof/Machine/Shipments.lean ====
section
/-! DEFINITION. Chapter 2, shipments, and chapter 3, the job queue: SHIPMENT QUERY, SHIPMENT CANCEL, JOB QUERY (R50, R51, R67). -/

namespace Sys2Proof.Machine

/-- Up to `limit` entries from a start position, counted from 1; position 0 is taken as 1 (R67, R129, R130, R164). -/
def page {α : Type} (start limit : Nat) (xs : List α) : List α := (xs.drop (start - 1)).take limit

/-- A job line of a SHIPMENT QUERY reply: its fields, then its job's state and bay (R45, R51). -/
def jobLineData (s : State) (l : JobLine) : List Byte :=
  let j := findJob s l.job
  leBytes 2 l.job ++ leBytes 1 l.index ++ optField 4 l.serial
    ++ leBytes 1 ((j.map fun x => jobStateCode x.state).getD 0)
    ++ optField 1 ((j.bind (·.bay)).map (·.val))

/-- A copy line of a SHIPMENT QUERY reply: the copy id and the copy's state (R45, R51). -/
def copyLineData (s : State) (id : Nat) : List Byte :=
  leBytes 3 id ++ leBytes 1 (((findCopy s id).map fun c => copyStateCode c.state).getD 0)

/-- The data of a SHIPMENT QUERY reply: every field of R45 (R51, log 12). -/
def shipmentData (s : State) (sh : Shipment) : List Byte :=
  leBytes 2 sh.number ++ leBytes 3 sh.patron ++ leBytes 1 (shipmentStateCode sh.state)
    ++ listField (jobLineData s) sh.jobLines ++ listField (copyLineData s) sh.copyLines
    ++ minuteField sh.target ++ listField (fun e => leBytes 2 e.number) sh.containers ++ leBytes 1 sh.toScan

/-- SHIPMENT QUERY (R51). -/
def shipmentQueryRule (n : Nat) (s : State) : Answer :=
  match findShipment s n with
  | none => statusOnly .notFound s
  | some sh => okWith (shipmentData s sh) s

/-- A shipment cannot be cancelled: some job line's job is ASSIGNED or DONE, or its container list is not empty (R50). -/
def cancelBusy (s : State) (sh : Shipment) : Bool :=
  !sh.containers.isEmpty || sh.jobLines.any fun l =>
    match findJob s l.job with
    | some j => j.state != .queued
    | none => false

/-- The parts of a shipment's jobs. -/
def shipmentParts (s : State) (sh : Shipment) : List Part :=
  sh.jobLines.flatMap fun l => ((findJob s l.job).map (·.parts)).getD []

/-- Each copy line's item returns to WAITING, and committed copies falls by their number (R50, step 3). -/
def releaseCopyItems (s : State) (sh : Shipment) (p : Patron) : Patron :=
  sh.copyLines.foldl (fun q id =>
      match findCopy s id with
      | some c => setItem c.title .embossed .waiting q
      | none => q)
    { p with commCopies := p.commCopies - sh.copyLines.length }

/-- R50: the five steps of a cancellation, in order. -/
def cancelShipment (sh : Shipment) (s : State) : State :=
  let deleted := sh.jobLines.foldl (fun t l => deleteJob l.job t) s
  let released := updatePatron sh.patron (fun p =>
      releaseCopyItems s sh <|
        releaseItems deleted (shipmentParts s sh) { p with commCarts := p.commCarts - sh.jobLines.length }) deleted
  sh.copyLines.foldl (fun t id => toShelf id t) (freeShipment sh.number released)

/-- SHIPMENT CANCEL (R50). -/
def shipmentCancelRule (n : Nat) (s : State) : Answer :=
  match findShipment s n with
  | none => statusOnly .notFound s
  | some sh => if cancelBusy s sh then statusOnly .busy s else okWith [] (cancelShipment sh s)

/-- A part as JOB QUERY reports it (R60). -/
def partData (p : Part) : List Byte :=
  leBytes 3 p.key.title ++ leBytes 1 (mediumCode p.key.medium) ++ leBytes 1 p.key.edition ++ leBytes 2 p.first
    ++ leBytes 2 p.count ++ leBytes 2 p.occ

/-- The position of a QUEUED job in the job queue, from 1; 0 for a job that is not queued (R67). -/
def queuePosition (s : State) (j : Job) : Nat :=
  if j.state = .queued then (jobQueue s).findIdx (·.number == j.number) + 1 else 0

/-- The data of a JOB QUERY reply for one job: every field of R60, its queue position, its shipment's patron (R67, log 12). -/
def jobData (s : State) (j : Job) : List Byte :=
  leBytes 2 j.number ++ leBytes 2 j.shipment ++ leBytes 1 j.index ++ leBytes 1 (kindCode j.kind)
    ++ listField partData j.parts ++ leBytes 2 j.estimate ++ minuteField j.target ++ leBytes 1 (bit j.requeued)
    ++ leBytes 1 (jobStateCode j.state) ++ optField 1 (j.bay.map (·.val)) ++ optField 4 j.serial
    ++ leBytes 1 (queuePosition s j) ++ leBytes 3 (((findShipment s j.shipment).map (·.patron)).getD 0)

/-- JOB QUERY of a job number (R67). -/
def jobQueryRule (n : Nat) (s : State) : Answer :=
  match findJob s n with
  | none => statusOnly .notFound s
  | some j => okWith (jobData s j) s

/-- One QUEUED job of a JOB QUERY of the queue (R67). -/
def queuedData (j : Job) : List Byte :=
  leBytes 2 j.number ++ leBytes 1 (kindCode j.kind) ++ minuteField j.target ++ leBytes 1 (bit j.requeued)
    ++ leBytes 2 j.shipment ++ leBytes 1 j.index ++ leBytes 2 j.estimate

/-- JOB QUERY of the queue: the number of QUEUED jobs, then up to 24 of them (R67). -/
def jobQueueRule (start : Nat) (s : State) : Answer :=
  okWith (leBytes 1 (jobQueue s).length ++ listField queuedData (page start 24 (jobQueue s))) s

/-- SHIPMENT_QUERY. -/
def execShipmentQuery (tag : Byte) (body : List Byte) (s : State) : Host.Outcome State Fault Refusal :=
  serve (.shipmentQuery tag body) ⟨0x30, tag, body⟩ (shipmentQueryRule (field body 0 2)) s

/-- SHIPMENT_CANCEL. -/
def execShipmentCancel (tag : Byte) (body : List Byte) (s : State) : Host.Outcome State Fault Refusal :=
  serve (.shipmentCancel tag body) ⟨0x31, tag, body⟩ (shipmentCancelRule (field body 0 2)) s

/-- JOB_QUERY. -/
def execJobQuery (tag : Byte) (body : List Byte) (s : State) : Host.Outcome State Fault Refusal :=
  serve (.jobQuery tag body) ⟨0x32, tag, body⟩ (jobQueryRule (field body 0 2)) s

/-- JOB_QUERY_QUEUE. -/
def execJobQueryQueue (tag : Byte) (body : List Byte) (s : State) : Host.Outcome State Fault Refusal :=
  serve (.jobQueryQueue tag body) ⟨0x32, tag, body⟩ (jobQueueRule (field body 2 1)) s

end Sys2Proof.Machine
end

