-- ==== Sys2Proof/Machine/Dispatching.lean ====
section
/-! DEFINITION. Chapter 8, dispatch and loans: BATCH RELEASE, BATCH QUERY, LOAN QUERY, LOAN WRITE OFF (R157-R164). -/

namespace Sys2Proof.Machine

/-! ## Release (R157-R159) -/

/-- The containers of a batch, in ascending seal number (R153, R158). -/
def batchContainers (s : State) (batch : Nat) : List Container :=
  sortBy (fun a b => decide (a.sealNo.getD 0 < b.sealNo.getD 0))
    (s.containers.filter fun c => c.state == .batched && c.batch == some batch)

/-- The items of a batch, containers in seal number order and items in scan order, each with its shipment (R158). -/
def batchItems (s : State) (batch : Nat) : List (Item × Nat) :=
  (batchContainers s batch).flatMap fun c => c.items.map fun i => (i, c.shipment)

/-- The cartridge serials of a batch. -/
def batchSerials (items : List (Item × Nat)) : List Nat :=
  items.filterMap fun x =>
    match x.1 with
    | .cartridge serial => some serial
    | .volume _ _ => none

/-- The copies with a volume in a batch, each once, in the order of its last volume. -/
def batchCopies (items : List (Item × Nat)) : List Nat :=
  items.foldl (fun acc x =>
    match x.1 with
    | .cartridge _ => acc
    | .volume id _ => acc.filter (· != id) ++ [id]) []

/-- Some volume of a copy lies in a container other than those of the batch (R158). -/
def elsewhere (s : State) (batch id : Nat) : Bool :=
  s.containers.any fun c =>
    !(c.state == .batched && c.batch == some batch) && c.items.any fun i =>
      match i with
      | .volume j _ => j == id
      | .cartridge _ => false

/-- The release of a batch makes a copy OUT (R158): every volume scanned, none left in an unreleased container. -/
def goesOut (s : State) (batch id : Nat) : Bool :=
  match findCopy s id with
  | some c => volumesScanned c == c.volumes && !elsewhere s batch id
  | none => false

/-- The number of loans a release creates (R157, check 4; R158). -/
def releaseLoans (s : State) (batch : Nat) : Nat :=
  let items := batchItems s batch
  (batchSerials items).length + ((batchCopies items).filter (goesOut s batch)).length

/-- A new loan from today (R158, R160). -/
def newLoan (s : State) (i : LoanItem) (patron shipment period : Nat) : Loan :=
  ⟨i, patron, shipment, today s, min maxDay (today s + period), false⟩

/-- The patron of a shipment. -/
def patronOf (s : State) (shipment : Nat) : Nat := ((findShipment s shipment).map (·.patron)).getD 0

/-- A cartridge of a released batch becomes OUT, with a loan (R158). -/
def lendCart (s : State) (serial shipment : Nat) : State :=
  let t := updateCart serial (fun c => { c with state := .out }) s
  { t with
    loans := insertBy loanBefore (newLoan s (.cartridge serial) (patronOf s shipment) shipment s.cartridgePeriod) t.loans }

/-- A copy whose last volume a released batch carries becomes OUT, its marks cleared, with a loan (R158). -/
def lendCopy (s : State) (id : Nat) : State :=
  match findCopy s id with
  | some c =>
    let t := updateCopy id (fun x => { x with state := .out, marks := noMarks x.volumes }) s
    { t with
      loans := insertBy loanBefore (newLoan s (.copy id) (c.patron.getD 0) (c.shipment.getD 0) s.copyPeriod) t.loans }
  | none => s

/-- One item of a released batch, for its loan (R158). A copy that goes out is lent once, at the first of its volumes in the batch: its
other volumes find it OUT. The loan table's own order is by item. -/
def lendItem (out : List Nat) (s : State) (x : Item × Nat) : State :=
  match x.1 with
  | .cartridge serial => lendCart s serial x.2
  | .volume id _ =>
    if out.contains id then
      match findCopy s id with
      | some c => if c.state = .packed then lendCopy s id else s
      | none => s
    else s

/-- The reading-list item is carried by a released item and is IN SHIPMENT (R159, step 1). -/
def satisfied (s : State) (x : Item) (i : ListItem) : Bool :=
  i.state == .inShipment &&
    (match x with
     | .cartridge serial =>
       match findCart s serial with
       | some c => c.content.any fun p => isItem p.key.title p.key.medium i
       | none => false
     | .volume id _ =>
       match findCopy s id with
       | some c => isItem c.title .embossed i
       | none => false)

/-- The list items that a released item carries leave its patron's list (R159, step 1). -/
def strikeItems (s : State) (x : Item × Nat) : State :=
  updatePatron (patronOf s x.2) (fun p => { p with list := p.list.filter fun i => !satisfied s x.1 i }) s

/-- The containers of a batch are deleted, and their entries marked released (R159, step 2). -/
def dropContainers (gone : List Nat) (s : State) : State :=
  { s with
    containers := s.containers.filter fun c => !gone.contains c.number
    shipments := s.shipments.map fun sh =>
      { sh with
        containers := sh.containers.map fun e => if gone.contains e.number then { e with released := true } else e } }

/-- A shipment has left: it is SEALED, and every entry of its container list is released (R159, step 3). -/
def shipmentGone (sh : Shipment) : Bool := sh.state == .sealed && sh.containers.all (·.released)

/-- A shipment whose last container is released (R159, step 3): its jobs are deleted, and it is freed with the append of its patron. -/
def freeReleased (s : State) (sh : Shipment) : State :=
  freeAndAppend sh.number (sh.jobLines.foldl (fun t l => deleteJob l.job t) s)

/-- The shipments freed by a release, in order of creation (R159, step 3). -/
def goneShipments (named : List Nat) (s : State) : List Shipment :=
  s.shipments.filter fun sh => named.contains sh.number && shipmentGone sh

/-- A batch record is deleted, a LATE OPEN batch closes, and creation takes place (R159, step 4). -/
def dropBatch (batch : Nat) (s : State) : State :=
  createBatch (closeIfLate { s with batches := s.batches.filter fun b => b.number != batch })

/-- The loans of a release (R158). -/
def lendBatch (batch : Nat) (s : State) : State :=
  let items := batchItems s batch
  items.foldl (lendItem ((batchCopies items).filter (goesOut s batch))) s

/-- The reading lists of a release (R159, step 1), its items given. -/
def strikeBatch (items : List (Item × Nat)) (s : State) : State := items.foldl strikeItems s

/-- The OPEN containers of the shipments named lose their pack deadlines where the shipment has stopped being ready to pack (R145): a released
cartridge is OUT. -/
def refreshDeadlines (named : List Nat) (s : State) : State := named.foldl (fun t n => refreshDeadline n t) s

/-- BATCH RELEASE of a batch that passes the checks (R158, R159), with what R145 gives for the shipments still PACKING. -/
def releaseBatch (batch : Nat) (s : State) : Answer :=
  let boxes := batchContainers s batch
  let lent := lendBatch batch s
  let struck := strikeBatch (batchItems s batch) lent
  let dropped := refreshDeadlines (boxes.map (·.shipment)) (dropContainers (boxes.map (·.number)) struck)
  let gone := goneShipments (boxes.map (·.shipment)) dropped
  okWith (leBytes 2 boxes.length ++ leBytes 2 (releaseLoans s batch) ++ leBytes 2 (itemsUsed lent - itemsUsed struck)
    ++ leBytes 2 gone.length) (dropBatch batch (gone.foldl freeReleased dropped))

/-- BATCH RELEASE (R157). -/
def batchReleaseRule (batch : Nat) (s : State) : Answer :=
  if !s.clock.set then statusOnly .clockUnset s
  else
    match s.batches.find? (·.number == batch) with
    | none => statusOnly .notFound s
    | some b =>
      if b.state ≠ .closed then statusOnly .busy s
      else if loanCapacity < s.loans.length + releaseLoans s batch then statusOnly .full s
      else releaseBatch batch s

/-! ## Queries (R164) -/

/-- The fields of a batch (R153). -/
def batchData (b : Batch) : List Byte :=
  leBytes 2 b.number ++ leBytes 4 b.cutoff ++ leBytes 1 (batchStateCode b.state) ++ leBytes 2 b.count ++ leBytes 1 (bit b.late)

/-- BATCH QUERY of the table (R164): clock, cut-off list, waiting containers, batches. -/
def batchTableRule (s : State) : Answer :=
  okWith (leBytes 2 s.clock.day ++ leBytes 2 s.clock.minute ++ leBytes 1 (bit s.clock.set)
    ++ listField (leBytes 2) s.cutoffs ++ leBytes 2 (waitingContainers s).length ++ listField batchData s.batches) s

/-- One container of a BATCH QUERY (R164). -/
def batchedData (c : Container) : List Byte :=
  leBytes 2 c.number ++ leBytes 2 c.shipment ++ leBytes 1 c.seq ++ leBytes 1 (containerKindCode c.kind) ++ leBytes 1 (bit c.final)

/-- BATCH QUERY of a batch number (R164). -/
def batchQueryRule (batch start : Nat) (s : State) : Answer :=
  match s.batches.find? (·.number == batch) with
  | none => statusOnly .notFound s
  | some b => okWith (batchData b ++ listField batchedData (page start 64 (batchContainers s batch))) s

/-- The item of a LOAN QUERY or a LOAN WRITE OFF: its form and number; none when they are out of range (R163, R192). -/
def loanItemOf (form item : Nat) : Option LoanItem :=
  match form with
  | 1 => if item = 0 then none else some (.cartridge item)
  | 2 => if item < 1 ∨ maxCopy < item then none else some (.copy item)
  | _ => none

/-- The form and number of a loan's item (R160, R192). -/
def loanItemData : LoanItem → List Byte
  | .cartridge serial => leBytes 1 1 ++ leBytes 4 serial
  | .copy id => leBytes 1 2 ++ leBytes 4 id

/-- The days a loan is overdue (R164): today less the due day when the flag is set, 0 otherwise. Where today is before the due day of a loan
marked overdue, the value is free (log 36). -/
def daysOverdue (s : State) (l : Loan) : Nat :=
  if !l.overdue then 0
  else if l.due ≤ today s then today s - l.due
  else Config.negativeDays (today s) l.due

/-- The data of a LOAN QUERY reply for one item: every field of the loan and the days overdue (R164). -/
def loanData (s : State) (l : Loan) : List Byte :=
  loanItemData l.item ++ leBytes 3 l.patron ++ leBytes 2 l.shipment ++ leBytes 2 l.dayOut ++ leBytes 2 l.due
    ++ leBytes 1 (bit l.overdue) ++ leBytes 2 (daysOverdue s l)

/-- LOAN QUERY in form 0; a form byte that names no form is answered RANGE (R164, R184). -/
def loanItemRule (form itemForm item : Nat) (s : State) : Answer :=
  if form ≠ 0 then statusOnly .range s
  else
    match loanItemOf itemForm item with
    | none => statusOnly .range s
    | some i =>
      match findLoan s i with
      | none => statusOnly .notFound s
      | some l => okWith (loanData s l) s

/-- One loan of a LOAN QUERY in form 1 (R164). -/
def patronLoanData (l : Loan) : List Byte :=
  loanItemData l.item ++ leBytes 2 l.dayOut ++ leBytes 2 l.due ++ leBytes 1 (bit l.overdue)

/-- The loans of a patron in table order. -/
def loansOf (s : State) (n : Nat) : List Loan := s.loans.filter (·.patron == n)

/-- LOAN QUERY in form 1 (R164). -/
def loanPatronRule (n start : Nat) (s : State) : Answer :=
  match findPatron s n with
  | none => statusOnly .notFound s
  | some p =>
    okWith (leBytes 1 (loansOf s n).length ++ leBytes 1 p.overdue ++ leBytes 1 (patronStateCode p.state)
      ++ listField patronLoanData (page start 9 (loansOf s n))) s

/-! ## LOAN WRITE OFF (R163) -/

/-- The item of a loan written off becomes WITHDRAWN (R163, step 1). -/
def writeOffItem (i : LoanItem) (s : State) : State :=
  match i with
  | .cartridge serial =>
    updateCart serial (fun c => { c with state := .withdrawn, shipment := none, job := none }) s
  | .copy id => updateCopy id (fun c => { c with state := .withdrawn, patron := none, shipment := none }) s

/-- A loan is written off (R163). -/
def writeOff (l : Loan) (s : State) : State :=
  appendEligible l.patron (closeLoan l (writeOffItem l.item s))

/-- LOAN WRITE OFF (R163). -/
def loanWriteOffRule (form item : Nat) (s : State) : Answer :=
  match loanItemOf form item with
  | none => statusOnly .range s
  | some i =>
    match findLoan s i with
    | none => statusOnly .notFound s
    | some l => okWith [] (writeOff l s)

/-- BATCH_QUERY. -/
def execBatchQuery (tag : Byte) (body : List Byte) (s : State) : Host.Outcome State Fault Refusal :=
  serve (.batchQuery tag body) ⟨0x50, tag, body⟩ (batchQueryRule (field body 0 2) (field body 2 2)) s

/-- BATCH_QUERY_TABLE. -/
def execBatchQueryTable (tag : Byte) (body : List Byte) (s : State) : Host.Outcome State Fault Refusal :=
  serve (.batchQueryTable tag body) ⟨0x50, tag, body⟩ batchTableRule s

/-- BATCH_RELEASE. -/
def execBatchRelease (tag : Byte) (body : List Byte) (s : State) : Host.Outcome State Fault Refusal :=
  serve (.batchRelease tag body) ⟨0x51, tag, body⟩ (batchReleaseRule (field body 0 2)) s

/-- LOAN_QUERY_ITEM. -/
def execLoanQueryItem (tag : Byte) (body : List Byte) (s : State) : Host.Outcome State Fault Refusal :=
  serve (.loanQueryItem tag body) ⟨0x52, tag, body⟩
    (loanItemRule (field body 0 1) (field body 1 1) (field body 2 4)) s

/-- LOAN_QUERY_PATRON. -/
def execLoanQueryPatron (tag : Byte) (body : List Byte) (s : State) : Host.Outcome State Fault Refusal :=
  serve (.loanQueryPatron tag body) ⟨0x52, tag, body⟩ (loanPatronRule (field body 1 3) (field body 4 1)) s

/-- LOAN_WRITE_OFF. -/
def execLoanWriteOff (tag : Byte) (body : List Byte) (s : State) : Host.Outcome State Fault Refusal :=
  serve (.loanWriteOff tag body) ⟨0x53, tag, body⟩ (loanWriteOffRule (field body 0 1) (field body 1 4)) s

end Sys2Proof.Machine
end

