-- ==== Sys2Proof/Machine/Link.lean ====
section
/-! DEFINITION. Chapter 10, the link: the receiver, the intake queue, the transmitter, UNKNOWN KIND and SUMMARY READ (R181-R184, R188). -/

namespace Sys2Proof.Machine

/-! ## The receiver (R182) -/

/-- A frame is discarded (R182): the receiver hunts, the link error count rises by 1, at most to 255, and LINK ERROR is set. -/
def discardFrame (s : State) : State :=
  setEvent .linkError { s with rx := .hunting, linkErrors := min 255 (s.linkErrors + 1) }

/-- A good frame reaches the intake queue (R183): it joins the tail, or with 4 frames there LI answers it FULL at once. -/
def takeFrame (f : Frame) (s : State) : State :=
  if s.intake.length < intakeCapacity then { s with intake := s.intake ++ [f] }
  else readyFrame (replyFrame f [statusCode .full]) s

/-- A whole frame, with the CHECK that came with it, has been received (R182, R183). -/
def receiveFrame (f : Frame) (check : Check) (s : State) : State :=
  if maxBody < f.body.length ∨ check ≠ frameCheck f then discardFrame s
  else takeFrame f { s with rx := .hunting }

/-- The bytes after SYNC that a frame with this LENGTH takes: LENGTH, KIND, TAG, BODY, CHECK (R181). -/
def frameSize (length : Nat) : Nat := 2 + 1 + 1 + length + 2

/-- The frame and the CHECK that the bytes after SYNC spell, `length` of them the body's (R181). -/
def readFrame (length : Nat) (bytes : List Byte) : Frame × Check :=
  (⟨BitVec.ofNat 8 (field bytes 2 1), BitVec.ofNat 8 (field bytes 3 1), (bytes.drop 4).take length⟩,
    BitVec.ofNat 16 (field bytes (4 + length) 2))

/-- The bytes of a frame after one more byte has been taken (R182). -/
def frameBytes (bytes : List Byte) (s : State) : State :=
  let length := field bytes 0 2
  if bytes.length < 2 then { s with rx := .inFrame bytes 0 }
  else if maxBody < length then discardFrame s
  else if bytes.length < frameSize length then { s with rx := .inFrame bytes 0 }
  else
    let r := readFrame length bytes
    receiveFrame r.1 r.2 s

/-- A byte arrives on the link (R182). -/
def receiveByte (b : Byte) (s : State) : State :=
  match s.rx with
  | .hunting => if b = sync then { s with rx := .inFrame [] 0 } else s
  | .inFrame bytes _ => frameBytes (bytes ++ [b]) s

/-- More than 10 ms have passed inside a frame (R182). -/
def gapTooLong (s : State) : State :=
  match s.rx with
  | .hunting => s
  | .inFrame _ _ => discardFrame s

/-- Both LENGTH bytes of a frame have arrived, and LENGTH exceeds 1,020 (R182). -/
def lengthTooLong (length : Nat) (s : State) : State := if maxBody < length then discardFrame s else s

/-! ## The transmitter (R181, R189) -/

/-- The frame is the reply to CONTROLLER RESET: its kind, and status OK (R181, R189). -/
def isResetReply (f : Frame) : Bool := f.kind == replyKind 0x61 && f.body == [statusCode .ok]

/-- The last byte of the frame being sent has gone (R181); with the reply to CONTROLLER RESET gone, the controller reset is due
(R189). -/
def frameSent (s : State) : State :=
  match s.tx with
  | f :: rest =>
    { s with
      tx := rest
      resetStage := if s.resetStage = .replying ∧ isResetReply f then .due else s.resetStage }
  | [] => s

/-! ## The summary (R188) -/

/-- The data of a SUMMARY READ reply (R188, 10.5). -/
def summaryData (s : State) : List Byte :=
  leBytes 2 (eventBits s.events) ++ leBytes 1 (causeCode s.resetCause) ++ leBytes 1 (conditionBits (conditions s))
    ++ leBytes 1 (conditionBits s.changed) ++ leBytes 3 s.bayMask.toNat ++ leBytes 1 s.linkErrors

/-- What SUMMARY READ clears (R188). -/
def clearSummary (s : State) : State :=
  { s with
    events := Events.clear
    resetCause := .none
    changed := Conditions.clear
    bayMask := 0
    linkErrors := 0
    latch := false }

/-- SUMMARY READ (R188). -/
def summaryReadRule (s : State) : Answer := okWith (summaryData s) (clearSummary s)

/-- SUMMARY_READ. -/
def execSummaryRead (tag : Byte) (body : List Byte) (s : State) : Host.Outcome State Fault Refusal :=
  serve (.summaryRead tag body) ⟨0x60, tag, body⟩ summaryReadRule s

/-- UNKNOWN_KIND (R184, check 1). -/
def execUnknownKind (kind tag : Byte) (body : List Byte) (s : State) : Host.Outcome State Fault Refusal :=
  serve (.unknownKind kind tag body) ⟨kind, tag, body⟩ (statusOnly .unknownKind) s

/-- GOOD_FRAME. -/
def execGoodFrame (kind tag : Byte) (body : List Byte) (check : Check) (s : State) :
    Host.Outcome State Fault Refusal :=
  event (receiveFrame ⟨kind, tag, body⟩ check) s

/-- FRAME_LENGTH_DISCARD. -/
def execFrameLengthDiscard (length : BitVec 16) (s : State) : Host.Outcome State Fault Refusal :=
  event (lengthTooLong length.toNat) s

/-- FRAME_GAP_TIMEOUT. -/
def execFrameGapTimeout (s : State) : Host.Outcome State Fault Refusal := event gapTooLong s

/-- FRAME_SENT. -/
def execFrameSent (s : State) : Host.Outcome State Fault Refusal := event frameSent s

/-- BYTE_RECEIVED. -/
def execByteReceived (byte : Byte) (s : State) : Host.Outcome State Fault Refusal := event (receiveByte byte) s

end Sys2Proof.Machine
end

