-- ==== Sys2Proof/Machine/Recall.lean ====
section
/-! DEFINITION. Chapter 9, the recall filters and the counters: matching, RECALL SET, RECALL CLEAR, COUNTERS READ, COUNTERS CLEAR
(R172-R180). -/

namespace Sys2Proof.Machine

/-- A part of a content list agrees with every non-zero field among a slot's title number, medium and edition (R173). -/
def partAgrees (f : RecallSlot) (p : Content) : Bool :=
  (f.title == 0 || f.title == p.key.title) && (f.medium == 0 || f.medium == mediumCode p.key.medium)
    && (f.edition == 0 || f.edition == p.key.edition)

/-- The slot's day bound admits the cartridge (R173). -/
def dayAgrees (f : RecallSlot) (c : Cartridge) : Bool :=
  f.day == 0 || (match c.dupDay with
    | some d => decide (d ≤ f.day)
    | none => false)

/-- A cartridge matches an enabled slot (R173). -/
def slotMatches (c : Cartridge) (f : RecallSlot) : Bool :=
  f.enabled && c.content.any (partAgrees f) && dayAgrees f c

/-- The slots, from slot 0 to slot 15. -/
def slotList (s : State) : List RecallSlot := s.slots.toList

/-- Some matching slot has this action. -/
def matchedAction (s : State) (c : Cartridge) (a : RecallAction) : Bool :=
  (slotList s).any fun f => slotMatches c f && f.action == a

/-- The strongest action among the matching slots; none when no slot matches (R175). -/
def strongestAction (s : State) (c : Cartridge) : Option RecallAction :=
  if matchedAction s c .withdraw then some .withdraw
  else if matchedAction s c .quarantine then some .quarantine
  else if matchedAction s c .count then some .count
  else none

/-- The state a recall gives the cartridge (R142, R175): none when no matching slot has action QUARANTINE or WITHDRAW. -/
def recallState (s : State) (c : Cartridge) : Option CartState :=
  match strongestAction s c with
  | some .withdraw => some .withdrawn
  | some .quarantine => some .quarantined
  | _ => none

/-- The lowest-numbered matching slot with an action (R171). -/
def lowestSlot (s : State) (c : Cartridge) (a : RecallAction) : Nat :=
  (slotList s).findIdx fun f => slotMatches c f && f.action == a

/-- The match count of a slot rises by 1, saturating (R172). -/
def hitSlot (f : RecallSlot) : RecallSlot := { f with hits := min max32 (f.hits + 1) }

/-- The match count of every matching slot rises by 1 (R142, R174). -/
def countMatches (c : Cartridge) (s : State) : State :=
  { s with slots := mapVector (fun f => if slotMatches c f then hitSlot f else f) s.slots }

/-- The fields of a RECALL SET (R176). -/
structure RecallRequest where
  slot    : Nat
  enabled : Nat
  title   : Nat
  medium  : Nat
  edition : Nat
  day     : Nat
  action  : Nat
deriving DecidableEq, Repr

def recallRequest (body : List Byte) : RecallRequest where
  slot := field body 0 1
  enabled := field body 1 1
  title := field body 2 3
  medium := field body 5 1
  edition := field body 6 1
  day := field body 7 2
  action := field body 9 1

/-- At least one of title number, medium, edition and day is not 0 (R176). -/
def narrows (r : RecallRequest) : Bool := r.title != 0 || r.medium != 0 || r.edition != 0 || r.day != 0

/-- A slot of the table is replaced. -/
def setSlot (n : Nat) (f : RecallSlot) (s : State) : State := { s with slots := s.slots.setIfInBounds n f }

/-- RECALL SET (R176). -/
def recallSetRule (r : RecallRequest) (s : State) : Answer :=
  match flagOf r.enabled, actionOf r.action with
  | some e, some a =>
    if 15 < r.slot ∨ maxNumber < r.title ∨ 2 < r.medium then statusOnly .range s
    else if !narrows r then statusOnly .range s
    else okWith [] (setSlot r.slot ⟨e, r.title, r.medium, r.edition, r.day, a, 0⟩ s)
  | _, _ => statusOnly .range s

/-- RECALL CLEAR (R177). -/
def recallClearRule (slot : Nat) (s : State) : Answer :=
  if slot = 255 then okWith [] { s with slots := Vector.replicate 16 RecallSlot.empty }
  else if 15 < slot then statusOnly .range s
  else okWith [] (setSlot slot RecallSlot.empty s)

/-- The nine counters as COUNTERS READ sends them (R178, R179). -/
def countersData (c : Counters) : List Byte :=
  [c.unknown, c.notOut, c.recalled, c.damaged, c.worn, c.late, c.onTime, c.lateDays, c.loanDays].flatMap (leBytes 4)

/-- A slot as COUNTERS READ sends it: every field of R172 (R179). -/
def slotData (f : RecallSlot) : List Byte :=
  leBytes 1 (bit f.enabled) ++ leBytes 3 f.title ++ leBytes 1 f.medium ++ leBytes 1 f.edition ++ leBytes 2 f.day
    ++ leBytes 1 (actionCode f.action) ++ leBytes 4 f.hits

/-- COUNTERS READ (R179). The 16 slots, always as many, are sent without a count in front (DESIGN CHOICE, log 12). -/
def countersReadRule (s : State) : Answer := okWith (countersData s.counters ++ (slotList s).flatMap slotData) s

/-- The match count of every slot is 0 (R172, R180). -/
def clearHits (s : State) : State := { s with slots := mapVector (fun f => { f with hits := 0 }) s.slots }

/-- The nine counters and every match count are 0 (R180). -/
def clearCounters (s : State) : State := { clearHits s with counters := Counters.zero }

/-- RECALL_SET. -/
def execRecallSet (tag : Byte) (body : List Byte) (s : State) : Host.Outcome State Fault Refusal :=
  serve (.recallSet tag body) ⟨0x59, tag, body⟩ (recallSetRule (recallRequest body)) s

/-- RECALL_CLEAR. -/
def execRecallClear (tag : Byte) (body : List Byte) (s : State) : Host.Outcome State Fault Refusal :=
  serve (.recallClear tag body) ⟨0x5A, tag, body⟩ (recallClearRule (field body 0 1)) s

/-- COUNTERS_READ. -/
def execCountersRead (tag : Byte) (body : List Byte) (s : State) : Host.Outcome State Fault Refusal :=
  serve (.countersRead tag body) ⟨0x5B, tag, body⟩ countersReadRule s

/-- COUNTERS_CLEAR. -/
def execCountersClear (tag : Byte) (body : List Byte) (s : State) : Host.Outcome State Fault Refusal :=
  serve (.countersClear tag body) ⟨0x5C, tag, body⟩ (fun t => okWith [] (clearCounters t)) s

end Sys2Proof.Machine
end

