-- ==== Sys2Proof/Machine/Packing.lean ====
section
/-! DEFINITION. Chapter 7, packing: PACK SCAN, recall at pack, CONTAINER QUERY, the pack timeout (R137-R148). -/

namespace Sys2Proof.Machine

/-! ## An item under scan (R137, R138) -/

/-- What the checks of R137 have found of a scanned item: the item and its shipment. -/
structure Scanned where
  item     : Item
  shipment : Nat
deriving DecidableEq, Repr

/-- REFUSED with reason NOT READY and the item's state (R141, 10.5). -/
def notReady (state : Nat) (s : State) : Answer := (s, statusCode .refused :: leBytes 1 1 ++ leBytes 1 state)

/-- REFUSED with reason RECALLED and the action taken (R141, 10.5). -/
def recalledReply (a : RecallAction) (s : State) : Answer :=
  (s, statusCode .refused :: leBytes 1 2 ++ leBytes 1 (actionCode a))

/-- The item becomes PACKED (R138): a cartridge in the registry; a copy's mark for the volume is set, and an ALLOCATED copy leaves the
pick list. -/
def packItem (i : Item) (s : State) : State :=
  match i with
  | .cartridge serial => updateCart serial (fun c => { c with state := .packed }) s
  | .volume id volume =>
    unpick id (updateCopy id (fun c => { setMark volume true c with state := .packed }) s)

/-! ## Placement and sealing (R139, R140) -/

/-- The shipment's OPEN container, if the item fits in it (R139). -/
def fitting (s : State) (shipment units : Nat) : Option Container :=
  (openContainer s shipment).filter fun c => decide (c.units + units ≤ capacityOf c.kind)

/-- The number a new container takes (R133): no number held by a container or by a released entry of a container list. -/
def newContainerNumber (s : State) : Nat :=
  takeNumber 65535
    (s.containers.map (·.number)
      ++ s.shipments.flatMap fun sh => (sh.containers.filter (·.released)).map (·.number))
    s.containerCounter

/-- The container table is ordered by container number (R133). -/
def containerBefore (a b : Container) : Bool := decide (a.number < b.number)

/-- The kind of a container opened for an item of a shipment: a POUCH if the shipment has no copy line (R134); a volume is placed only in a
CARTON (R139). -/
def newKind (sh : Shipment) : Item → ContainerKind
  | .cartridge _ => if sh.copyLines.isEmpty then .pouch else .carton
  | .volume _ _ => .carton

/-- A new container with its first item (R139). -/
def firstContainer (n : Nat) (sh : Shipment) (i : Item) (minute : Nat) : Container where
  number := n
  shipment := sh.number
  kind := newKind sh i
  seq := sh.containers.length + 1
  units := itemUnits i
  items := [i]
  state := .open
  batch := none
  lastScan := minute
  deadline := none
  sealNo := none
  final := false

/-- A new container is opened for a shipment, which becomes PACKING (R139, R46). -/
def openFor (n : Nat) (sh : Shipment) (i : Item) (s : State) : State :=
  updateShipment sh.number (fun x =>
      { x with state := .packing, containers := x.containers ++ [⟨n, false⟩] })
    { s with
      containers := insertBy containerBefore (firstContainer n sh i (now s)) s.containers
      containerCounter := numberAfter 65535 n }

/-- An item joins a container it fits in (R139). -/
def addItem (i : Item) (minute : Nat) (c : Container) : Container :=
  { c with items := c.items ++ [i], units := c.units + itemUnits i, lastScan := minute }

/-- The shipment's OPEN container is sealed as it stands, without the FINAL flag (R139, R140). -/
def sealAsItStands (shipment : Nat) (s : State) : State :=
  match openContainer s shipment with
  | some c => sealContainer c.number false s
  | none => s

/-- What a placement gives: the container that received the item, and the container this scan sealed as it stood, 0 for none. -/
structure Placed where
  state     : State
  container : Nat
  sealedOld : Nat

/-- An item is placed in its shipment's containers (R139). -/
def placeItem (sh : Shipment) (i : Item) (s : State) : Placed :=
  match fitting s sh.number (itemUnits i) with
  | some c => ⟨{ s with containers := replace (· == c) (addItem i (now s)) s.containers }, c.number, 0⟩
  | none =>
    let n := newContainerNumber s
    ⟨openFor n sh i (sealAsItStands sh.number s), n, ((openContainer s sh.number).map (·.number)).getD 0⟩

/-- The pack deadline after an accepted scan (R145): 30 minutes on if the shipment is ready to pack, absent otherwise, as after a
release that has made the shipment's earlier cartridges OUT. -/
def scanDeadline (s : State) (shipment : Nat) : Option Nat :=
  match findShipment s shipment with
  | some sh => if readyToPack s sh then some (now s + 30) else none
  | none => none

/-- R140, R145: after the placement the container is sealed as FINAL with the shipment, sealed as full, or stays OPEN with its deadline.
`sealedOld` is the container this scan has sealed before, 0 for none: a seal after it is the second of the scan (R156). -/
def sealAfter (shipment container sealedOld : Nat) (s : State) : State :=
  match findShipment s shipment, findContainer s container with
  | some sh, some c =>
    let t := if sealedOld = 0 then s else betweenSeals s
    if sh.toScan = 0 then sealShipment shipment (sealContainer container true t)
    else if c.units = capacityOf c.kind then sealContainer container false t
    else updateContainer container (fun x => { x with deadline := scanDeadline s shipment }) s
  | _, _ => s

/-! ## The reply (R141, 10.5) -/

/-- The cut-off of the batch that carries a container; none when it is not BATCHED (R141, R148). -/
def containerCutoff (s : State) (c : Container) : Option Nat :=
  c.batch.bind fun n => (s.batches.find? (·.number == n)).map (·.cutoff)

/-- Bit 0 sealed, bit 1 FINAL, bit 2 BATCHED (10.5). -/
def sealBits (c : Container) : Nat :=
  bit (c.state != .open) + 2 * bit c.final + 4 * bit (c.state == .batched)

/-- The data of the reply to an accepted scan (R141, 10.5). -/
def packReply (s : State) (shipment container sealedOld : Nat) : List Byte :=
  match findShipment s shipment, findContainer s container with
  | some sh, some c =>
    leBytes 2 shipment ++ leBytes 2 (((findPatron s sh.patron).map (·.card)).getD 0) ++ leBytes 2 container
      ++ leBytes 1 c.seq ++ leBytes 1 (containerKindCode c.kind) ++ leBytes 1 c.units ++ leBytes 1 (sealBits c)
      ++ minuteField (containerCutoff s c) ++ leBytes 2 sealedOld ++ leBytes 1 sh.toScan
  | _, _ => leBytes 17 0

/-! ## Acceptance and recall (R138, R142) -/

/-- An item that passes every check is accepted (R138). -/
def acceptItem (x : Scanned) (sh : Shipment) (s : State) : Answer :=
  let packed := updateShipment sh.number (fun y => { y with toScan := y.toScan - 1 }) (packItem x.item s)
  let p := placeItem sh x.item packed
  let t := sealAfter sh.number p.container p.sealedOld p.state
  okWith (packReply t sh.number p.container p.sealedOld) t

/-- Check 8 of R137, then acceptance; `count` is what an accepted scan adds to the match counts of the recall filters (R138). -/
def roomThenAccept (x : Scanned) (count : State → State) (s : State) : Answer :=
  match findShipment s x.shipment with
  | some sh =>
    if (fitting s sh.number (itemUnits x.item)).isNone ∧ containerCapacity ≤ s.containers.length then statusOnly .full s
    else acceptItem x sh (count s)
  | none => statusOnly .notFound s

/-- A cartridge is recalled at the bench (R142): every matching slot counts it, the record leaves WRITTEN, its job is deleted, its line
leaves the shipment. -/
def recallAtPack (c : Cartridge) (st : CartState) (s : State) : State :=
  let t := updateCart c.serial (leaveRecord st) (countMatches c s)
  match c.job.bind (findJob s) with
  | some j => dropLine j (deleteJob j.number t)
  | none => t
where
  /-- The record takes the state, and names no shipment and no job (R108). -/
  leaveRecord (st : CartState) (c : Cartridge) : Cartridge := { c with state := st, shipment := none, job := none }

/-- The scan of a cartridge, from check 3 on (R137, R142). Filters of action COUNT count it only when the scan is accepted. -/
def packCartridge (serial : Nat) (s : State) : Answer :=
  match findCart s serial with
  | none => statusOnly .notFound s
  | some c =>
    if c.state ≠ .written then notReady (cartStateCode c.state) s
    else
      match recallState s c with
      | some st => recalledReply ((strongestAction s c).getD .count) (recallAtPack c st s)
      | none =>
        match c.shipment with
        | some n => roomThenAccept ⟨.cartridge serial, n⟩ (countMatches c) s
        | none => statusOnly .notFound s

/-- Check 5 of R137 for a copy: ALLOCATED, or PACKED with volumes left to scan. -/
def copyScannable (c : Copy) : Bool :=
  c.state == .allocated || (c.state == .packed && decide (volumesScanned c < c.volumes))

/-- The scan of a volume, from check 3 on (R137). -/
def packVolume (id volume : Nat) (s : State) : Answer :=
  match findCopy s id with
  | none => statusOnly .notFound s
  | some c =>
    if c.volumes < volume then statusOnly .range s
    else if !copyScannable c then notReady (copyStateCode c.state) s
    else if markOf c volume then statusOnly .duplicate s
    else
      match c.shipment with
      | some n => roomThenAccept ⟨.volume id volume, n⟩ (fun t => t) s
      | none => statusOnly .notFound s

/-- PACK SCAN (R137). The item is a serial in form 1, a copy id with a volume number in form 2. -/
def packScanRule (form serial id volume : Nat) (s : State) : Answer :=
  if !s.clock.set then statusOnly .clockUnset s
  else
    match form with
    | 1 => if serial = 0 then statusOnly .range s else packCartridge serial s
    | 2 =>
      if id < 1 ∨ maxCopy < id ∨ volume < 1 ∨ 12 < volume then statusOnly .range s
      else packVolume id volume s
    | _ => statusOnly .range s

/-! ## CONTAINER QUERY (R148) -/

/-- An item of a container (R133): its form, then four bytes as in PACK SCAN (log 12). -/
def itemCode : Item → List Byte
  | .cartridge serial => leBytes 1 1 ++ leBytes 4 serial
  | .volume id volume => leBytes 1 2 ++ leBytes 3 id ++ leBytes 1 volume

/-- The data of a CONTAINER QUERY reply for one container (R148, log 12). An absent batch, deadline or seal number is presence byte 0 and
zeros (R193); an absent cut-off is FFFFFFFFh without a presence byte (R192). -/
def containerData (s : State) (c : Container) : List Byte :=
  let sh := findShipment s c.shipment
  let p := sh.bind fun x => findPatron s x.patron
  leBytes 2 c.number ++ leBytes 2 c.shipment ++ leBytes 1 (containerKindCode c.kind) ++ leBytes 1 c.seq
    ++ leBytes 1 c.units ++ listField itemCode c.items ++ leBytes 1 (containerStateCode c.state)
    ++ optField 2 c.batch ++ leBytes 4 c.lastScan ++ optField 4 c.deadline ++ optField 4 c.sealNo
    ++ leBytes 1 (bit c.final)
    ++ leBytes 1 ((sh.map fun x => shipmentStateCode x.state).getD 0) ++ leBytes 1 ((sh.map (·.toScan)).getD 0)
    ++ leBytes 3 ((sh.map (·.patron)).getD 0) ++ leBytes 2 ((p.map (·.card)).getD 0)
    ++ minuteField (containerCutoff s c)

/-- CONTAINER QUERY of a container number (R148). -/
def containerQueryRule (n : Nat) (s : State) : Answer :=
  match findContainer s n with
  | none => statusOnly .notFound s
  | some c => okWith (containerData s c) s

/-- One entry of a shipment's container list with its sequence number (R148); state 4 is RELEASED (R192). The cut-off has no presence byte:
absent, it is FFFFFFFFh (R192, log 12). -/
def entryData (s : State) (seq : Nat) (e : ContainerEntry) : List Byte :=
  match (findContainer s e.number).filter (fun _ => !e.released) with
  | some c =>
    leBytes 2 e.number ++ leBytes 1 seq ++ leBytes 1 (containerStateCode c.state) ++ leBytes 1 (containerKindCode c.kind)
      ++ leBytes 1 c.units ++ leBytes 1 (bit c.final) ++ minuteField (containerCutoff s c)
  | none =>
    leBytes 2 e.number ++ leBytes 1 seq ++ leBytes 1 4 ++ leBytes 1 0 ++ leBytes 1 0 ++ leBytes 1 0 ++ minuteField none

/-- The entries of a container list with their sequence numbers, from 1. -/
def numbered (l : List ContainerEntry) : List (Nat × ContainerEntry) := (List.range l.length).map (· + 1) |>.zip l

/-- CONTAINER QUERY of a shipment's container list (R148). -/
def containerListRule (shipment : Nat) (s : State) : Answer :=
  if shipment = 0 then statusOnly .range s
  else
    match findShipment s shipment with
    | none => statusOnly .notFound s
    | some sh =>
      okWith (leBytes 1 (shipmentStateCode sh.state) ++ leBytes 1 sh.toScan
        ++ listField (fun e => entryData s e.1 e.2) (numbered sh.containers)) s

/-! ## The pack timeout (R145) -/

/-- An OPEN container's pack deadline is reached (R145). Before that, and for another container, nothing happens. -/
def packTimeout (n : Nat) (s : State) : State :=
  match findContainer s n with
  | some c => if deadlinePassed s c then dissolve c s else s
  | none => s

/-- PACK_SCAN. -/
def execPackScan (tag : Byte) (body : List Byte) (s : State) : Host.Outcome State Fault Refusal :=
  serve (.packScan tag body) ⟨0x48, tag, body⟩
    (packScanRule (field body 0 1) (field body 1 4) (field body 1 3) (field body 4 1)) s

/-- CONTAINER_QUERY. -/
def execContainerQuery (tag : Byte) (body : List Byte) (s : State) : Host.Outcome State Fault Refusal :=
  serve (.containerQuery tag body) ⟨0x49, tag, body⟩ (containerQueryRule (field body 0 2)) s

/-- CONTAINER_QUERY_SHIPMENT. -/
def execContainerQueryShipment (tag : Byte) (body : List Byte) (s : State) : Host.Outcome State Fault Refusal :=
  serve (.containerQueryShipment tag body) ⟨0x49, tag, body⟩ (containerListRule (field body 2 2)) s

/-- PACK_TIMEOUT. -/
def execPackTimeout (container : Nat) (s : State) : Host.Outcome State Fault Refusal :=
  event (packTimeout container) s

end Sys2Proof.Machine
end

