-- ==== Sys2Proof/Machine/Patrons.lean ====
section
/-! DEFINITION. Chapter 2, patrons and reading lists: the PATRON, LIST and SHIP NOW requests (R26-R38). -/

namespace Sys2Proof.Machine

/-- A value clamped to a range (R26, R161). -/
def clamp (lo hi n : Nat) : Nat := max lo (min hi n)

/-- The patron table is ordered by patron number (R25). -/
def patronBefore (a b : Patron) : Bool := decide (a.number < b.number)

/-- A created patron record (R26): ACTIVE, nothing committed, no open shipment, an empty list. -/
def newPatron (n : Nat) (k : Kind) (cart emb : Nat) (m : Mode) (card : Nat) : Patron where
  number := n
  kind := k
  cartAllow := clamp 1 6 cart
  embAllow := clamp 0 3 emb
  mode := m
  state := .active
  commCarts := 0
  commCopies := 0
  overdue := 0
  shipment := none
  card := card
  list := []

/-- PATRON ENTER (R26). -/
def patronEnterRule (n kind cart emb mode card : Nat) (s : State) : Answer :=
  if n < 1 ∨ maxNumber < n then statusOnly .range s
  else
    match kindOf kind, modeOf mode with
    | some k, some m =>
      match findPatron s n with
      | some _ =>
        okWith [] <| appendEligible n <| updatePatron n (fun p =>
          { p with kind := k, cartAllow := clamp 1 6 cart, embAllow := clamp 0 3 emb, mode := m, card := card }) s
      | none =>
        if patronCapacity ≤ s.patrons.length then statusOnly .full s
        else
          okWith [] <| appendEligible n
            { s with patrons := insertBy patronBefore (newPatron n k cart emb m card) s.patrons }
    | _, _ => statusOnly .range s

/-- The copies RESERVED for a patron, in ascending copy id (R126). -/
def reservedCopies (s : State) (n : Nat) : List Nat :=
  (s.copies.filter fun c => c.state == .reserved && c.patron == some n).map (·.id)

/-- A suspended patron: its RESERVED items return to WAITING and committed copies falls by their number (R29). -/
def suspendPatron (p : Patron) : Patron :=
  { p with
    state := .suspended
    commCopies := p.commCopies - (p.list.filter (·.state == .reserved)).length
    list := replace (·.state == .reserved) (fun i => { i with state := .waiting }) p.list }

/-- PATRON SUSPEND (R29, R126). -/
def patronSuspendRule (n : Nat) (s : State) : Answer :=
  match findPatron s n with
  | none => statusOnly .notFound s
  | some _ => okWith [] <| (reservedCopies s n).foldl (fun t id => toShelf id t) (updatePatron n suspendPatron s)

/-- The state PATRON RESUME gives (R30). -/
def resumedState (p : Patron) : PatronState := if p.overdue < 3 then .active else .overdueHold

/-- PATRON RESUME (R30). The append's own conditions ask for ACTIVE (R34). -/
def patronResumeRule (n : Nat) (s : State) : Answer :=
  match findPatron s n with
  | none => statusOnly .notFound s
  | some _ => okWith [] <| appendEligible n (updatePatron n (fun p => { p with state := resumedState p }) s)

/-- The patron has a loan, an open shipment or a reserved copy (R31). -/
def patronBusy (s : State) (p : Patron) : Bool :=
  s.loans.any (·.patron == p.number) || p.shipment.isSome || !(reservedCopies s p.number).isEmpty

/-- PATRON REMOVE (R31). -/
def patronRemoveRule (n : Nat) (s : State) : Answer :=
  match findPatron s n with
  | none => statusOnly .notFound s
  | some p =>
    if patronBusy s p then statusOnly .busy s
    else
      okWith []
        { s with
          holds := s.holds.filter (·.patron != n)
          eligibility := s.eligibility.filter (· != n)
          patrons := s.patrons.filter (·.number != n) }

/-- The data of a PATRON QUERY reply: the fields of R25 in order, the number of items, whether the patron is queued (R32, R193). -/
def patronData (s : State) (p : Patron) : List Byte :=
  leBytes 3 p.number ++ leBytes 1 (kindCode p.kind) ++ leBytes 1 p.cartAllow ++ leBytes 1 p.embAllow
    ++ leBytes 1 (modeCode p.mode) ++ leBytes 1 (patronStateCode p.state) ++ leBytes 1 p.commCarts
    ++ leBytes 1 p.commCopies ++ leBytes 1 p.overdue ++ optField 2 p.shipment ++ leBytes 2 p.card
    ++ leBytes 1 p.list.length ++ leBytes 1 (bit (s.eligibility.contains p.number))

/-- PATRON QUERY (R32). -/
def patronQueryRule (n : Nat) (s : State) : Answer :=
  match findPatron s n with
  | none => statusOnly .notFound s
  | some p => okWith (patronData s p) s

/-- SHIP NOW (R36). -/
def shipNowRule (n : Nat) (s : State) : Answer :=
  match findPatron s n with
  | none => statusOnly .notFound s
  | some p =>
    if p.state ≠ .active ∨ p.shipment.isSome then statusOnly .busy s
    else if s.eligibility.contains n then okWith [] s
    else okWith [] { s with eligibility := s.eligibility ++ [n] }

/-- The position a new item takes (R37): 0, or a position beyond the items already there, is the end. -/
def listPosition (length position : Nat) : Nat :=
  if position = 0 ∨ length < position then length + 1 else position

/-- A new item placed at a position counted from 1; the items from there on move down (R37). -/
def insertItem (position : Nat) (i : ListItem) (l : List ListItem) : List ListItem :=
  l.take (position - 1) ++ i :: l.drop (position - 1)

/-- LIST ADD (R37). -/
def listAddRule (n title medium position : Nat) (s : State) : Answer :=
  match findPatron s n with
  | none => statusOnly .notFound s
  | some p =>
    match mediumOf medium with
    | none => statusOnly .range s
    | some m =>
      if title < 1 ∨ maxNumber < title then statusOnly .range s
      else if p.list.any (isItem title m) then statusOnly .duplicate s
      else if listCapacity ≤ p.list.length then statusOnly .full s
      else if itemPool ≤ itemsUsed s then statusOnly .full s
      else
        let at_ := listPosition p.list.length position
        okWith (leBytes 1 at_) <| appendEligible n <|
          updatePatron n (fun q => { q with list := insertItem at_ ⟨title, m, .waiting, today s⟩ q.list }) s

/-- A patron's item of a title number and medium. -/
def findItem (p : Patron) (title : Nat) (medium : Medium) : Option ListItem := p.list.find? (isItem title medium)

/-- A patron's list without the item of a title number and medium; the items below it move up (R33). -/
def removeItem (title : Nat) (medium : Medium) (p : Patron) : Patron :=
  { p with list := p.list.filter fun i => !isItem title medium i }

/-- LIST DROP (R38). A medium code outside the list is answered RANGE (R192, log 17). -/
def listDropRule (n title medium : Nat) (s : State) : Answer :=
  match mediumOf medium with
  | none => statusOnly .range s
  | some m =>
    match findPatron s n with
    | none => statusOnly .notFound s
    | some p =>
      match findItem p title m with
      | none => statusOnly .notFound s
      | some i =>
        match i.state with
        | .inShipment => statusOnly .busy s
        | .reserved => statusOnly .busy s
        | .onHold => okWith [] (dropHold title n (updatePatron n (removeItem title m) s))
        | .waiting => okWith [] (updatePatron n (removeItem title m) s)
        | .awaitingMaster => okWith [] (updatePatron n (removeItem title m) s)

/-- One item of a LIST QUERY reply (R38, R193). -/
def itemData (i : ListItem) : List Byte :=
  leBytes 3 i.title ++ leBytes 1 (mediumCode i.medium) ++ leBytes 1 (itemStateCode i.state) ++ leBytes 2 i.day

/-- LIST QUERY (R38). -/
def listQueryRule (n : Nat) (s : State) : Answer :=
  match findPatron s n with
  | none => statusOnly .notFound s
  | some p => okWith (listField itemData p.list) s

/-- PATRON_ENTER. -/
def execPatronEnter (tag : Byte) (body : List Byte) (s : State) : Host.Outcome State Fault Refusal :=
  serve (.patronEnter tag body) ⟨0x18, tag, body⟩
    (patronEnterRule (field body 0 3) (field body 3 1) (field body 4 1) (field body 5 1) (field body 6 1)
      (field body 7 2)) s

/-- PATRON_REMOVE. -/
def execPatronRemove (tag : Byte) (body : List Byte) (s : State) : Host.Outcome State Fault Refusal :=
  serve (.patronRemove tag body) ⟨0x19, tag, body⟩ (patronRemoveRule (field body 0 3)) s

/-- PATRON_SUSPEND. -/
def execPatronSuspend (tag : Byte) (body : List Byte) (s : State) : Host.Outcome State Fault Refusal :=
  serve (.patronSuspend tag body) ⟨0x1A, tag, body⟩ (patronSuspendRule (field body 0 3)) s

/-- PATRON_RESUME. -/
def execPatronResume (tag : Byte) (body : List Byte) (s : State) : Host.Outcome State Fault Refusal :=
  serve (.patronResume tag body) ⟨0x1B, tag, body⟩ (patronResumeRule (field body 0 3)) s

/-- PATRON_QUERY. -/
def execPatronQuery (tag : Byte) (body : List Byte) (s : State) : Host.Outcome State Fault Refusal :=
  serve (.patronQuery tag body) ⟨0x1C, tag, body⟩ (patronQueryRule (field body 0 3)) s

/-- SHIP_NOW. -/
def execShipNow (tag : Byte) (body : List Byte) (s : State) : Host.Outcome State Fault Refusal :=
  serve (.shipNow tag body) ⟨0x1D, tag, body⟩ (shipNowRule (field body 0 3)) s

/-- LIST_ADD. -/
def execListAdd (tag : Byte) (body : List Byte) (s : State) : Host.Outcome State Fault Refusal :=
  serve (.listAdd tag body) ⟨0x20, tag, body⟩
    (listAddRule (field body 0 3) (field body 3 3) (field body 6 1) (field body 7 1)) s

/-- LIST_DROP. -/
def execListDrop (tag : Byte) (body : List Byte) (s : State) : Host.Outcome State Fault Refusal :=
  serve (.listDrop tag body) ⟨0x21, tag, body⟩
    (listDropRule (field body 0 3) (field body 3 3) (field body 6 1)) s

/-- LIST_QUERY. -/
def execListQuery (tag : Byte) (body : List Byte) (s : State) : Host.Outcome State Fault Refusal :=
  serve (.listQuery tag body) ⟨0x22, tag, body⟩ (listQueryRule (field body 0 3)) s

end Sys2Proof.Machine
end

