-- ==== Sys2Proof/Machine/Port.lean ====
section
/-! DEFINITION. Chapter 1, the master port: granting windows and completing feed reads (R19-R24). -/

namespace Sys2Proof.Machine

/-- What a bay asks the master port for at the start of a window (R22, R80, R85): a title entry, a title block and its position in the
job. A bay in WRITING asks with a free place in its buffer and an occupied block left to fetch; a bay in VERIFYING asks for the
data block marked for rewrite, until it has it. While the supply is LOW no bay asks (R98). -/
def feedRequest (s : State) (b : BayId) : Option (TitleKey × Nat × Pos) :=
  let x := getBay s b
  let parts := jobParts s b
  let wanted :=
    if s.supply = .low then none
    else
      match x.state with
      | .writing => if x.buffer.length < 2 then nextOccupied s parts x.fetchPos else none
      | .verifying => if x.phase = some .data ∧ x.buffer.isEmpty then x.rewriteMark.bind (locate parts) else none
      | _ => none
  wanted.bind fun p => (partAt parts p).map fun q => (q.key, q.first + p.block, p)

/-- The bays in the order in which MPA considers them: from the one after the rotation pointer round to the one it names (R20). -/
def rotationOrder (pointer : BayId) : List BayId :=
  bayIds.drop (pointer.val + 1) ++ bayIds.take (pointer.val + 1)

/-- The first requesting bay after the rotation pointer (R20). -/
def nextBay (s : State) : Option BayId := (rotationOrder s.rotation).find? fun b => (feedRequest s b).isSome

/-- The fetch position after a block has been requested: the next occupied block (R80). Past the last occupied block it is the part after the last,
block 0: R69 gives it no value there (DESIGN CHOICE, log 6). -/
def fetchAfter (s : State) (parts : List Part) (p : Pos) : Pos :=
  (nextOccupied s parts (nextPos parts p)).getD ⟨parts.length + 1, 0⟩

/-- A window is granted to a bay (R20): the grant is outstanding, the rotation pointer moves to the bay, the block takes a place in its
feed buffer, and a bay in WRITING moves its fetch position on (R80, R81). -/
def grantBay (b : BayId) (s : State) : State :=
  match feedRequest s b with
  | some (k, block, p) =>
    let e := findTitle s k
    let x := getBay s b
    let fetch := if x.state = .writing then fetchAfter s (jobParts s b) p else x.fetchPos
    updateBay b (fun y => { y with buffer := y.buffer ++ [⟨p, none⟩], fetchPos := fetch })
      { s with
        rotation := b
        grant := some ⟨.bay b, k, (e.map (·.seq)).getD 0, some block,
          ((e.bind fun t => mapBlock t.extents block)).getD 0, false⟩ }
  | none => s

/-- The next read of the survey at the head of the survey queue: the index block, or the next title block (R9, R10, R12). -/
def surveyRead (s : State) : Option Grant :=
  match s.surveyQueue with
  | k :: _ =>
    (findTitle s k).map fun e =>
      if e.extents.isEmpty then ⟨.survey, k, e.seq, none, e.indexBlock, false⟩
      else ⟨.survey, k, e.seq, some e.progress, (mapBlock e.extents e.progress).getD 0, false⟩
  | [] => none

/-- A window is granted to the survey; the pointer does not move (R20, R21). -/
def grantSurvey (s : State) : State := { s with grant := surveyRead s }

/-- A feed window (R20): the first requesting bay, else the pending survey, else idle. -/
def feedWindow (s : State) : State :=
  match nextBay s with
  | some b => grantBay b s
  | none => if (surveyRead s).isSome then grantSurvey s else s

/-- The start of a window (R20, R21). The read of the window before completes at its end (R23), so a window cannot start while a grant
is outstanding (log 19). -/
def startWindow (s : State) : State :=
  if s.grant.isSome then s
  else
    let t := if 14 ≤ s.nextWindow ∧ (surveyRead s).isSome then grantSurvey s else feedWindow s
    { t with nextWindow := (s.nextWindow + 1) % 16 }

/-- The place of the feed buffer that was granted takes its block (R81). -/
def deliver (data : List Byte) (x : Bay) : Bay :=
  { x with buffer := replace (·.data.isNone) (fun f => { f with data := some data }) x.buffer }

/-- A feed read completes with data (R23, R81): the block is held in its place, and written at once if the write position or the rewrite
mark waits for it (R82, R85). A discarded grant's result is dropped. -/
def feedData (data : List Byte) (s : State) : State :=
  match s.grant with
  | some g =>
    match g.requester with
    | .bay b =>
      let t := { s with grant := none }
      if g.discarded then t else startWrite b (updateBay b (deliver data) t)
    | .survey => s
  | none => s

/-- R24: the entry named in a grant whose feed read met a media error. READY becomes SUSPECT, RETIRING stays; both set the SUSPECT event
flag and are handed on. An entry already SUSPECT, or no longer in the table, changes nothing. -/
def markSuspect (g : Grant) (s : State) : State :=
  match (findTitle s g.key).filter (·.seq == g.seq) with
  | some e =>
    match e.state with
    | .ready =>
      cancelEntry g.key (setEvent .suspect (updateTitle g.key (fun x => { x with state := .suspect }) s))
    | .retiring => cancelEntry g.key (setEvent .suspect s)
    | _ => s
  | none => s

/-- A feed read completes with a media error (R23, R24, R92). The bay that asked, if it has not discarded the grant, aborts with the
other bays of the entry's jobs (R66, R92, R93). -/
def feedError (s : State) : State :=
  match s.grant with
  | some g =>
    match g.requester with
    | .bay _ => markSuspect g { s with grant := none }
    | .survey => s
  | none => s

/-- WINDOW_START. -/
def execWindowStart (s : State) : Host.Outcome State Fault Refusal := event startWindow s

/-- FEED_READ_DATA. -/
def execFeedReadData (data : List Byte) (s : State) : Host.Outcome State Fault Refusal :=
  event (feedData data) s

/-- FEED_MEDIA_ERROR. -/
def execFeedMediaError (s : State) : Host.Outcome State Fault Refusal := event feedError s

end Sys2Proof.Machine
end

