-- ==== Sys2Proof/Machine/Registry.lean ====
section
/-! DEFINITION. Chapter 5, the cartridge registry: CARTRIDGE QUERY and CARTRIDGE WITHDRAW (R112-R115). -/

namespace Sys2Proof.Machine

/-- One part of a content list (R102). -/
def contentData (c : Content) : List Byte :=
  leBytes 3 c.key.title ++ leBytes 1 (mediumCode c.key.medium) ++ leBytes 1 c.key.edition ++ leBytes 2 c.first
    ++ leBytes 2 c.count

/-- The state of the bay an IN BAY record names, as its code; 0 for another record (R112). -/
def recordBayState (s : State) (c : Cartridge) : Nat :=
  if c.state = .inBay then (c.bay.map fun b => bayStateCode (getBay s b).state).getD 0 else 0

/-- The data of a CARTRIDGE QUERY reply for one record: every field of R102, then the bay's state and whether an IN BAY record counts
toward the spares (R112, log 12). -/
def cartridgeData (s : State) (c : Cartridge) : List Byte :=
  leBytes 4 c.serial ++ leBytes 1 (kindCode c.kind) ++ leBytes 1 (cartStateCode c.state)
    ++ optField 1 (c.bay.map (·.val)) ++ optField 1 (c.entry.map cartStateCode)
    ++ optField 2 c.shipment ++ optField 2 c.job
    ++ listField contentData c.content ++ optField 2 c.dupDay ++ leBytes 2 c.wear ++ leBytes 1 c.faults
    ++ leBytes 1 (recordBayState s c) ++ leBytes 1 (bit (inBaySpare s c))

/-- CARTRIDGE QUERY in form 0; a form byte that names no form is answered RANGE (R112, R184). -/
def cartridgeRecordRule (form serial : Nat) (s : State) : Answer :=
  if form ≠ 0 ∨ serial = 0 then statusOnly .range s
  else
    match findCart s serial with
    | none => statusOnly .notFound s
    | some c => okWith (cartridgeData s c) s

/-- The nine states, in the order of R103. -/
def cartStates : List CartState :=
  [.blank, .inBay, .written, .packed, .out, .returned, .fouled, .quarantined, .withdrawn]

/-- What the summary gives for one kind (R113). Each of the nine state counts takes two bytes, that of IN BAY with the others, though at most 24
records can be IN BAY (R103); R113 gives no range (DESIGN CHOICE, log 12). -/
def kindSummary (s : State) (k : Kind) : List Byte :=
  cartStates.flatMap (fun st => leBytes 2 (s.cartridges.filter fun c => c.kind == k && c.state == st).length)
    ++ leBytes 1 (s.cartridges.filter fun c => c.kind == k && inBaySpare s c).length
    ++ leBytes 1 (queuedOf s k) ++ leBytes 2 (spareCount s k)

/-- CARTRIDGE QUERY in form 1 (R113). -/
def cartridgeSummaryRule (s : State) : Answer :=
  okWith (kindSummary s .s ++ kindSummary s .l ++ leBytes 2 s.cartridges.length
    ++ leBytes 2 (cartridgeCapacity - s.cartridges.length)) s

/-- A part agrees with a search (R114): its title number and medium, and its edition unless the edition sought is 0. -/
def sought (title : Nat) (medium : Medium) (edition : Nat) (p : Content) : Bool :=
  p.key.title == title && p.key.medium == medium && (edition == 0 || p.key.edition == edition)

/-- One record found by a search (R114): serial, state, edition of the first matching part, duplication day. The day is sent as the
optional field that it is in the record, with its presence byte (R193) (DESIGN CHOICE, log 12). -/
def foundData (title : Nat) (medium : Medium) (edition : Nat) (c : Cartridge) : List Byte :=
  leBytes 4 c.serial ++ leBytes 1 (cartStateCode c.state)
    ++ leBytes 1 (((c.content.find? (sought title medium edition)).map (·.key.edition)).getD 0)
    ++ optField 2 c.dupDay

/-- The records a search finds, in ascending serial (R114). -/
def searchRecords (title : Nat) (medium : Medium) (edition start : Nat) (s : State) : List Cartridge :=
  s.cartridges.filter fun c => decide (start ≤ c.serial) && c.content.any (sought title medium edition)

/-- CARTRIDGE QUERY in form 2 (R114). The serial at which the next search should start is that of the 33rd match itself (DESIGN CHOICE,
log 40). -/
def cartridgeSearchRule (title medium edition start : Nat) (s : State) : Answer :=
  match mediumOf medium with
  | some m =>
    if m = .embossed ∨ title < 1 ∨ maxNumber < title then statusOnly .range s
    else
      let found := searchRecords title m edition start s
      okWith (listField (foundData title m edition) (found.take 32)
        ++ leBytes 4 (((found.drop 32).head?.map (·.serial)).getD 0)) s
  | none => statusOnly .range s

/-- The states from which CARTRIDGE WITHDRAW takes a record (R104, R115). -/
def withdrawable (c : CartState) : Bool :=
  c == .blank || c == .returned || c == .fouled || c == .quarantined

/-- CARTRIDGE WITHDRAW (R115). -/
def cartridgeWithdrawRule (serial : Nat) (s : State) : Answer :=
  if serial = 0 then statusOnly .range s
  else
    match findCart s serial with
    | none => statusOnly .notFound s
    | some c =>
      if withdrawable c.state then okWith [] (updateCart serial (fun x => { x with state := .withdrawn }) s)
      else statusOnly .busy s

/-- CARTRIDGE_QUERY_RECORD. -/
def execCartridgeQueryRecord (tag : Byte) (body : List Byte) (s : State) : Host.Outcome State Fault Refusal :=
  serve (.cartridgeQueryRecord tag body) ⟨0x40, tag, body⟩ (cartridgeRecordRule (field body 0 1) (field body 1 4)) s

/-- CARTRIDGE_QUERY_SUMMARY. -/
def execCartridgeQuerySummary (tag : Byte) (body : List Byte) (s : State) : Host.Outcome State Fault Refusal :=
  serve (.cartridgeQuerySummary tag body) ⟨0x40, tag, body⟩ cartridgeSummaryRule s

/-- CARTRIDGE_QUERY_SEARCH. -/
def execCartridgeQuerySearch (tag : Byte) (body : List Byte) (s : State) : Host.Outcome State Fault Refusal :=
  serve (.cartridgeQuerySearch tag body) ⟨0x40, tag, body⟩
    (cartridgeSearchRule (field body 1 3) (field body 4 1) (field body 5 1) (field body 6 4)) s

/-- CARTRIDGE_WITHDRAW. -/
def execCartridgeWithdraw (tag : Byte) (body : List Byte) (s : State) : Host.Outcome State Fault Refusal :=
  serve (.cartridgeWithdraw tag body) ⟨0x41, tag, body⟩ (cartridgeWithdrawRule (field body 0 4)) s

end Sys2Proof.Machine
end

