-- ==== Sys2Proof/Machine/Supply.lean ====
section
/-! DEFINITION. Chapter 4, the Rack Supply Monitor: SUPPLY LEVEL SET, the samples, LOW and NORMAL, abandonment (R97-R101). -/

namespace Sys2Proof.Machine

/-- A sample is against the threshold that would change the state (R97). -/
def against (s : State) (millivolts : Nat) : Bool :=
  match s.supply with
  | .normal => decide (millivolts < fallingAt s.supplyLevel)
  | .low => decide (risingAt s.supplyLevel < millivolts)

/-- What one bay does as the supply becomes LOW (R98): a bay that is writing nothing pauses at once, from WRITING or, with a block to
rewrite, from VERIFYING; a bay with a write in progress waits for it; a wipe stops. -/
def lowBay (s : State) (b : BayId) : State :=
  let x := getBay s b
  match x.state with
  | .writing => if x.ackTimer.isNone then pauseBay b .writing s else s
  | .wiping => pauseBay b .wiping s
  | .verifying => if x.ackTimer.isNone && x.rewriteMark.isSome then pauseBay b .verifying s else s
  | _ => s

/-- The state becomes LOW (R97, R98). -/
def becomeLow (s : State) : State :=
  markChanged .supplyLow <| bayIds.foldl lowBay
    { s with supply := .low, supplyCount := 0, lowTimer := 0, abandoned := false }

/-- A bay PAUSED from VERIFYING continues where it paused (R100). -/
def resumeVerifying (b : BayId) (s : State) : State :=
  let x := getBay s b
  match x.rewriteMark, x.phase with
  | some block, some .directory => writeDirectoryBlock b block s
  | some _, _ => startWrite b s
  | none, some .directory => if x.readBack.isNone then writeDirectory b s else s
  | none, _ => s

/-- A PAUSED bay resumes into its paused-from state (R100). -/
def resumeBay (s : State) (b : BayId) : State :=
  let x := getBay s b
  if x.state = .paused then
    match x.pausedFrom with
    | some .writing => startWrite b (updateBay b (fun y => { y with state := .writing, pausedFrom := none }) s)
    | some .verifying =>
      resumeVerifying b (updateBay b (fun y => { y with state := .verifying, pausedFrom := none }) s)
    | some .wiping => enterWiping b s
    | none => s
  else s

/-- The state becomes NORMAL (R97, R100). -/
def becomeNormal (s : State) : State :=
  markChanged .supplyLow <| bayIds.foldl resumeBay { s with supply := .normal, supplyCount := 0, lowTimer := 0 }

/-- The state of the supply changes (R97). -/
def changeSupply (s : State) : State :=
  match s.supply with
  | .normal => becomeLow s
  | .low => becomeNormal s

/-- One sample of the supply comparator (R97): a sample against the threshold raises the count, and the second in a row changes the
state; any other sample sets the count to 0 (log 11). -/
def sampleSupply (millivolts : Nat) (s : State) : State :=
  if against s millivolts then
    if 1 ≤ s.supplyCount then changeSupply s else { s with supplyCount := s.supplyCount + 1 }
  else { s with supplyCount := 0 }

/-- The sample is the second in a row against the threshold of this state of the supply (R97). -/
def secondAgainst (from_ : Supply) (millivolts : Nat) (s : State) : Bool :=
  s.supply == from_ && against s millivolts && decide (1 ≤ s.supplyCount)

/-- A PAUSED bay with a job (R101). -/
def abandonable (s : State) (b : BayId) : Bool := (getBay s b).state == .paused && (getBay s b).job.isSome

/-- A bay gives up its job in a long LOW period (R101). -/
def abandonBay (s : State) (b : BayId) : State :=
  giveBack b <| updateBay b (fun x => { x.stopped with checkList := [], pausedFrom := some .wiping }) <|
    setEntry b .fouled s

/-- The low-duration timer reaches 300 s (R101). -/
def lowTooLong (s : State) : State :=
  if s.supply = .low ∧ s.abandoned = false then
    (bayIds.filter (abandonable s)).foldl abandonBay { s with abandoned := true, lowTimer := lowTime }
  else s

/-- SUPPLY LEVEL SET (R97). -/
def supplyLevelRule (level : Nat) (s : State) : Answer :=
  okWith [] { s with supplyLevel := min 7 level, supplyCount := 0 }

/-- SUPPLY_LEVEL_SET. -/
def execSupplyLevelSet (tag : Byte) (body : List Byte) (s : State) : Host.Outcome State Fault Refusal :=
  serve (.supplyLevelSet tag body) ⟨0x04, tag, body⟩ (supplyLevelRule (field body 0 1)) s

/-- SUPPLY_SAMPLE. -/
def execSupplySample (millivolts : Nat) (s : State) : Host.Outcome State Fault Refusal :=
  event (sampleSupply millivolts) s

/-- SUPPLY_LOW: the sample that makes the supply LOW. -/
def execSupplyLow (millivolts : Nat) (s : State) : Host.Outcome State Fault Refusal :=
  event (fun t => if secondAgainst .normal millivolts t then becomeLow t else t) s

/-- SUPPLY_NORMAL: the sample that makes the supply NORMAL. -/
def execSupplyNormal (millivolts : Nat) (s : State) : Host.Outcome State Fault Refusal :=
  event (fun t => if secondAgainst .low millivolts t then becomeNormal t else t) s

/-- LOW_DURATION_TIMEOUT. -/
def execLowDurationTimeout (s : State) : Host.Outcome State Fault Refusal := event lowTooLong s

end Sys2Proof.Machine
end

