-- ==== Sys2Proof/Machine/Titles.lean ====
section
/-! DEFINITION. Chapter 1, the title table: TITLE ENTER, TITLE REMOVE, TITLE QUERY. -/

namespace Sys2Proof.Machine

/-- Strictly increasing (R3, check 3). -/
def strictlyRising : List Nat → Bool
  | a :: b :: rest => decide (a < b) && strictlyRising (b :: rest)
  | _ => true

/-- The breaks of a TITLE ENTER body: as many as its count, two bytes each from offset 11 (10.5). -/
def bodyBreaks (body : List Byte) : List Nat :=
  (List.range (field body 10 1)).map fun i => field body (11 + 2 * i) 2

/-- The fields of a TITLE ENTER (10.5). -/
structure TitleRequest where
  title      : Nat
  medium     : Nat
  edition    : Nat
  size       : Nat
  indexBlock : Nat
  breaks     : List Nat
deriving DecidableEq, Repr

def titleRequest (body : List Byte) : TitleRequest where
  title := field body 0 3
  medium := field body 3 1
  edition := field body 4 1
  size := field body 5 2
  indexBlock := field body 7 3
  breaks := bodyBreaks body

/-- AUDIO or EBRAILLE, the media of a title entry (R1). -/
def titleMedium (code : Nat) : Option Medium := if code = 3 then none else mediumOf code

/-- Checks 1 to 5 of R3: every field in range, the breaks strictly increasing inside the title, no volume above 32,752 blocks. -/
def titleFieldsOk (r : TitleRequest) : Bool :=
  decide (1 ≤ r.title ∧ r.title ≤ maxNumber) && (titleMedium r.medium).isSome && decide (1 ≤ r.edition)
    && decide (1 ≤ r.size ∧ r.size ≤ 65520)
    && decide (r.breaks.length ≤ 15) && r.breaks.all (fun b => decide (1 ≤ b ∧ b ≤ r.size - 1)) && strictlyRising r.breaks
    && (volumes r.size r.breaks).all (fun v => decide (v.2 ≤ 32752))
    && decide (r.indexBlock ≤ maxMaster)

/-- A new entry (R4). -/
def newTitle (k : TitleKey) (r : TitleRequest) (seq : Nat) : TitleEntry where
  key := k
  size := r.size
  breaks := r.breaks
  indexBlock := r.indexBlock
  state := .surveying
  extents := []
  occupied := []
  occCount := 0
  volOcc := List.replicate (r.breaks.length + 1) 0
  excess := false
  fault := none
  refs := 0
  progress := 0
  seq := seq

/-- R4: the new entry, its place at the tail of the survey queue, and the retirement of the READY entry of its title and medium. -/
def enterTitle (k : TitleKey) (r : TitleRequest) (s : State) : State :=
  let t := retireReady k.title k.medium k.edition s
  { t with
    titles := t.titles ++ [newTitle k r s.entrySeq]
    entrySeq := numberAfter max32 s.entrySeq
    surveyQueue := t.surveyQueue ++ [k] }

/-- TITLE ENTER (R3, R4). -/
def titleEnterRule (r : TitleRequest) (s : State) : Answer :=
  if !titleFieldsOk r then statusOnly .range s
  else
    let k : TitleKey := ⟨r.title, (titleMedium r.medium).getD .audio, r.edition⟩
    if (findTitle s k).isSome then statusOnly .duplicate s
    else if titleCapacity ≤ s.titles.length then statusOnly .full s
    else if surveyCapacity ≤ s.surveyQueue.length then statusOnly .full s
    else okWith (leBytes 4 s.entrySeq) (enterTitle k r s)

/-- The survey of an entry ends without an outcome (R17): the entry leaves the survey queue, and a read of its survey still
outstanding is discarded when it completes. -/
def endSurvey (k : TitleKey) (s : State) : State :=
  let t := { s with surveyQueue := s.surveyQueue.filter (· != k) }
  match t.grant with
  | some g => if g.requester = .survey ∧ g.key = k then { t with grant := some { g with discarded := true } } else t
  | none => t

/-- TITLE REMOVE (R7). A medium code outside the list is answered RANGE (R192, log 17). -/
def titleRemoveRule (title medium edition : Nat) (s : State) : Answer :=
  match mediumOf medium with
  | none => statusOnly .range s
  | some m =>
    let k : TitleKey := ⟨title, m, edition⟩
    match findTitle s k with
    | none => statusOnly .notFound s
    | some e =>
      match e.state with
      | .surveying => okWith [] (dropTitle k (endSurvey k s))
      | .retiring => statusOnly .deferred s
      | _ =>
        if e.refs = 0 then okWith [] (dropTitle k s)
        else statusOnly .deferred (updateTitle k (fun x => { x with state := .retiring }) s)

/-- The fill map marks TITLE QUERY reports: from the start block, up to 4,096 blocks or up to the end of the title (R8). -/
def marksReported (e : TitleEntry) (start : Nat) : Nat := min 4096 (e.size - start)

/-- The data of a TITLE QUERY reply: the fields of R1 in order, the extent list as its number of extents, then the marks (R8, R193,
log 12). -/
def titleData (e : TitleEntry) (start : Nat) : List Byte :=
  leBytes 3 e.key.title ++ leBytes 1 (mediumCode e.key.medium) ++ leBytes 1 e.key.edition ++ leBytes 2 e.size
    ++ listField (leBytes 2) e.breaks ++ leBytes 3 e.indexBlock ++ leBytes 1 (titleStateCode e.state)
    ++ leBytes 1 e.extents.length ++ leBytes 2 e.occCount ++ listField (leBytes 2) e.volOcc
    ++ leBytes 1 (bit e.excess) ++ optField 1 (e.fault.map titleFaultCode) ++ leBytes 2 e.refs
    ++ leBytes 2 e.progress ++ leBytes 4 e.seq
    ++ leBytes 2 (marksReported e start) ++ packMarks e.occupied start (marksReported e start)

/-- TITLE QUERY (R8): edition 0 asks for the READY entry. -/
def titleQueryRule (title medium edition start : Nat) (s : State) : Answer :=
  match mediumOf medium with
  | none => statusOnly .range s
  | some m =>
    match if edition = 0 then readyEntry s title m else findTitle s ⟨title, m, edition⟩ with
    | none => statusOnly .notFound s
    | some e => if e.size ≤ start then statusOnly .range s else okWith (titleData e start) s

/-- TITLE_ENTER. -/
def execTitleEnter (tag : Byte) (body : List Byte) (s : State) : Host.Outcome State Fault Refusal :=
  serve (.titleEnter tag body) ⟨0x10, tag, body⟩ (titleEnterRule (titleRequest body)) s

/-- TITLE_REMOVE. -/
def execTitleRemove (tag : Byte) (body : List Byte) (s : State) : Host.Outcome State Fault Refusal :=
  serve (.titleRemove tag body) ⟨0x11, tag, body⟩
    (titleRemoveRule (field body 0 3) (field body 3 1) (field body 4 1)) s

/-- TITLE_QUERY. -/
def execTitleQuery (tag : Byte) (body : List Byte) (s : State) : Host.Outcome State Fault Refusal :=
  serve (.titleQuery tag body) ⟨0x12, tag, body⟩
    (titleQueryRule (field body 0 3) (field body 3 1) (field body 4 1) (field body 5 2)) s

end Sys2Proof.Machine
end

