-- ==== Sys2Proof/Machine/Resets.lean ====
section
/-! DEFINITION. The two resets, loss of main power, and RECORDS CLEAR: LI's own part and every block's reset action (R18, R19, R35, R68,
R96, R97, R116, R128, R132, R149, R165, R172, R178, R189-R191). -/

namespace Sys2Proof.Machine

/-! ## Each block's reset action -/

/-- LI at either reset (R189, steps 1 to 3): the link is emptied, every flag, mark and count is cleared, and RESET is announced by an
ATTENTION frame. -/
def resetLink (cause : ResetCause) (s : State) : State :=
  { s with
    rx := .hunting
    intake := []
    tx := [attentionFrame]
    resetStage := .none
    events := { Events.clear with reset := true }
    resetCause := cause
    changed := Conditions.clear
    bayMask := 0
    linkErrors := 0
    latch := true }

/-- A bay at either reset (R70, R96): every bay that is not ABSENT is EMPTY; the cartridge present sense is kept, and the
number of the write last begun (log 34). -/
def resetBay (x : Bay) : Bay :=
  if x.state = .absent then x else { Bay.reset with present := x.present, writes := x.writes }

def resetBays (s : State) : State := { s with bays := mapVector resetBay s.bays }

/-- A job at either reset (R68): ASSIGNED becomes QUEUED with its requeued flag set. -/
def resetJob (j : Job) : Job :=
  if j.state = .assigned then { j with state := .queued, bay := none, requeued := true } else j

def resetJobs (s : State) : State := { s with jobs := s.jobs.map resetJob }

/-- The conversion of the registry (R116): every IN BAY record takes its entry state. -/
def convertCart (c : Cartridge) : Cartridge := if c.state = .inBay then leaveCart c else c

def convertCarts (s : State) : State := { s with cartridges := s.cartridges.map convertCart }

/-- The shipments that the conversion has made READY (R64). -/
def readyShipments (s : State) : State := (s.shipments.map (·.number)).foldl (fun t n => readyCheck n t) s

/-- The copy is ALLOCATED to this shipment. A shipment still PACKING keeps the line of a copy already released, which may come back and be
ALLOCATED to another (R158). -/
def allocatedTo (s : State) (shipment id : Nat) : Bool :=
  match findCopy s id with
  | some c => c.state == .allocated && c.shipment == some shipment
  | none => false

/-- The pick list rebuilt (R128): the ALLOCATED copies by the creation order of their shipments, then by copy line order, each at the place
of the shipment it is ALLOCATED to. -/
def rebuildPickList (s : State) : State :=
  { s with pickList := s.shipments.flatMap fun sh => sh.copyLines.filter (allocatedTo s sh.number) }

/-- A SURVEYING entry set back to the state of a new entry (R18). -/
def restartEntry (e : TitleEntry) : TitleEntry :=
  if e.state = .surveying then
    { e with
      extents := []
      occupied := []
      occCount := 0
      volOcc := List.replicate (e.breaks.length + 1) 0
      excess := false
      progress := 0 }
  else e

/-- Surveys start again (R18): the survey queue is rebuilt from the SURVEYING entries in ascending sequence number. -/
def restartSurveys (s : State) : State :=
  { s with
    titles := s.titles.map restartEntry
    surveyQueue := (sortBy (fun a b => decide (a.seq < b.seq)) (s.titles.filter (·.state == .surveying))).map (·.key) }

/-- MPA at either reset (R19). -/
def resetPort (s : State) : State := { s with rotation := 23, nextWindow := 0, grant := none }

/-- The item gives its patron a place in the rebuilt eligibility queue (R35): RESERVED, or WAITING with headroom in the matching
allowance. -/
def wantsSelection (p : Patron) (i : ListItem) : Bool :=
  i.state == .reserved ||
    (i.state == .waiting &&
      (match i.medium with
       | .embossed => decide (0 < embHeadroom p)
       | _ => decide (0 < cartHeadroom p)))

/-- R35, for one patron. -/
def requeued (p : Patron) : Bool :=
  p.state == .active && p.mode == .auto && p.shipment.isNone && p.list.any (wantsSelection p)

/-- The eligibility queue rebuilt, in ascending patron number (R35). -/
def rebuildEligibility (s : State) : State := { s with eligibility := (s.patrons.filter requeued).map (·.number) }

/-- SU, RSM and RI at either reset (R39, R97, R172, R178): selection HELD, the supply NORMAL with its timer stopped, the counters and the
match counts 0. -/
def resetUnits (s : State) : State :=
  { clearCounters s with
    selection := .held
    supply := .normal
    supplyCount := 0
    lowTimer := 0
    abandoned := false }

/-- The bays identify the cartridges still present (R96). -/
def identifyPresent (s : State) : State :=
  { s with bays := mapVector (fun x => if x.state = .empty ∧ x.present then beginIdentify x else x) s.bays }

/-- Last, the changed mark of every condition flag is set (R189). -/
def markAll (s : State) : State := { s with changed := Conditions.all }

/-- The reset actions of the blocks, after LI's (log 30): bays, jobs, registry, shipments, containers, pick list, titles, master port,
eligibility, settings, identification. -/
def resetBlocks (s : State) : State :=
  identifyPresent <| resetUnits <| rebuildEligibility <| resetPort <| restartSurveys <| rebuildPickList <| dissolveAll <|
    readyShipments <| convertCarts <| resetJobs <| resetBays s

/-- The controller reset (R189). -/
def controllerReset (s : State) : State := markAll (resetBlocks (resetLink .controller s))

/-! ## Record memory (R190, R191) -/

/-- Every retained table emptied, every setting at its default, every number counter 1 (R190). -/
def emptyRecords (s : State) : State :=
  { s with
    titles := []
    entrySeq := 1
    patrons := []
    shipments := []
    shipmentCounter := 1
    jobs := []
    jobCounter := 1
    supplyLevel := 2
    cartridges := []
    copies := []
    holds := []
    containers := []
    containerCounter := 1
    sealCounter := 1
    cutoffs := []
    batches := []
    batchCounter := 1
    loans := []
    cartridgePeriod := 42
    copyPeriod := 56
    slots := Vector.replicate 16 RecallSlot.empty }

/-- RM at power-up (R190) recomputes the check word and compares it with the one held: `found` is the word a failed battery or a
disturbance has left, and with none the word is as the part left it (log 9). Where they agree, everything is kept and RECORDS LOST is
clear; where they differ, everything is emptied and RECORDS LOST is set. -/
def checkRecords (found : Option Nat) (s : State) : State :=
  if recomputed s = found.getD s.checkWord then { s with recordsLost := false } else { emptyRecords s with recordsLost := true }

/-- A bay as module sensing at power-up leaves it (R70, R96): EMPTY where a writer module is sensed, ABSENT where none is; the cartridge
present sense is what its line shows. -/
def senseBay (modules sensed : BitVec 24) (i : Nat) : Bay :=
  if modules.getLsbD i then { Bay.reset with present := sensed.getLsbD i } else { Bay.reset with state := .absent }

def senseModules (modules sensed : BitVec 24) (s : State) : State :=
  { s with bays := Vector.ofFn fun i => senseBay modules sensed i.val }

/-- The clock at power-up (R150, R165). -/
def stopClock (s : State) : State := { s with clock := ⟨0, 0, false⟩ }

/-- Main power is applied (R190, R189): record memory is checked, modules are sensed, and every block takes its power-up actions. The check
word is that of what they leave. -/
def powerUp (found : Option Nat) (modules sensed : BitVec 24) (s : State) : State :=
  State.stamped <| markAll <| resetBlocks <| stopClock <| senseModules modules sensed <| resetLink .power <|
    checkRecords found { s with power := true }

/-- Main power falls (R190): the change in progress is complete, as every command is a whole step, and nothing runs until power-up. -/
def powerFall (s : State) : State := { s with power := false }

/-- Every bay is EMPTY, ABSENT or OUT OF SERVICE (R191). -/
def baysIdle (s : State) : Bool :=
  bayIds.all fun b =>
    (getBay s b).state == .empty || (getBay s b).state == .absent || (getBay s b).state == .outOfService

/-- A read outstanding at the master port will be dropped when it completes (R17, R191). The entry it names is gone: the number 0, which no
entry ever has, stands for it (log 20). -/
def orphanGrant (s : State) : State :=
  { s with grant := s.grant.map fun g => { g with discarded := true, seq := 0 } }

/-- A RECORDS CLEAR that is taken (R191). The Rack Supply Monitor's count of samples is kept with its state, though the supply level takes its
default: R191 names the state alone (DESIGN CHOICE, log 42). -/
def clearRecords (s : State) : State :=
  let t := orphanGrant (emptyRecords s)
  clearRecordsLost
    { t with surveyQueue := [], eligibility := [], pickList := [], counters := Counters.zero }

/-- RECORDS CLEAR (R191). -/
def recordsClearRule (s : State) : Answer :=
  if baysIdle s then okWith [] (clearRecords s) else statusOnly .busy s

/-- CONTROLLER RESET is answered OK; the reset takes place when the reply has been sent (R189). -/
def controllerResetRule (s : State) : Answer := okWith [] { s with resetStage := .replying }

/-- The controller reset that is due takes place (R189). -/
def takeReset (s : State) : State := if s.resetStage = .due then controllerReset s else s

/-- CONTROLLER_RESET. -/
def execControllerReset (tag : Byte) (body : List Byte) (s : State) : Host.Outcome State Fault Refusal :=
  serve (.controllerReset tag body) ⟨0x61, tag, body⟩ controllerResetRule s

/-- RECORDS_CLEAR. -/
def execRecordsClear (tag : Byte) (body : List Byte) (s : State) : Host.Outcome State Fault Refusal :=
  serve (.recordsClear tag body) ⟨0x62, tag, body⟩ recordsClearRule s

/-- CONTROLLER_RESET_TAKEN. -/
def execControllerResetTaken (s : State) : Host.Outcome State Fault Refusal := event takeReset s

/-- RESET_LINE. -/
def execResetLine (s : State) : Host.Outcome State Fault Refusal := event controllerReset s

/-- POWER_UP. -/
def execPowerUp (found : Option Nat) (modules sensed : BitVec 24) (s : State) : Host.Outcome State Fault Refusal :=
  .next (powerUp found modules sensed s)

/-- MAIN_POWER_FALL. -/
def execMainPowerFall (s : State) : Host.Outcome State Fault Refusal := .next (powerFall s)

end Sys2Proof.Machine
end

