-- ==== Sys2Proof/Machine/Returns.lean ====
section
/-! DEFINITION. Chapter 9, the return desk: RETURN SCAN (R166-R171, R174, R178). -/

namespace Sys2Proof.Machine

/-- Return classes, in the order of R167. -/
inductive ReturnClass where
  | unknown
  | notOut
  | recalled
  | damaged
  | worn
  | late
  | onTime
deriving DecidableEq, Repr

/-- R192. -/
def returnCode : ReturnClass → Nat
  | .unknown => 1
  | .notOut => 2
  | .recalled => 3
  | .damaged => 4
  | .worn => 5
  | .late => 6
  | .onTime => 7

/-- A counter raised, saturating (R178). -/
def raised (by_ n : Nat) : Nat := min max32 (n + by_)

/-- The classification counter of a class rises by 1 (R178). -/
def countClass (k : ReturnClass) (c : Counters) : Counters :=
  match k with
  | .unknown => { c with unknown := raised 1 c.unknown }
  | .notOut => { c with notOut := raised 1 c.notOut }
  | .recalled => { c with recalled := raised 1 c.recalled }
  | .damaged => { c with damaged := raised 1 c.damaged }
  | .worn => { c with worn := raised 1 c.worn }
  | .late => { c with late := raised 1 c.late }
  | .onTime => { c with onTime := raised 1 c.onTime }

/-- The day sums of a scan that closes a loan (R178): late days for class LATE, loan days for LATE and ON TIME. -/
def countDays (k : ReturnClass) (day : Nat) (l : Loan) (c : Counters) : Counters :=
  match k with
  | .late => { c with lateDays := raised (day - l.due) c.lateDays, loanDays := raised (day - l.dayOut) c.loanDays }
  | .onTime => { c with loanDays := raised (day - l.dayOut) c.loanDays }
  | _ => c

/-- The class of a cartridge with an open loan (R167). -/
def cartClass (s : State) (damaged : Bool) (c : Cartridge) (l : Loan) : ReturnClass :=
  if (recallState s c).isSome then .recalled
  else if damaged then .damaged
  else if wornAt ≤ c.wear then .worn
  else if l.due < today s then .late
  else .onTime

/-- The class of a copy with an open loan (R167). -/
def copyClass (s : State) (damaged : Bool) (l : Loan) : ReturnClass :=
  if damaged then .damaged else if l.due < today s then .late else .onTime

/-- The state a returned cartridge takes (R168). -/
def returnedState (s : State) (c : Cartridge) : ReturnClass → CartState
  | .recalled => (recallState s c).getD .quarantined
  | .damaged => .withdrawn
  | .worn => .withdrawn
  | _ => .returned

/-- A record leaves OUT (R104, R108, R168). -/
def leaveOut (st : CartState) (c : Cartridge) : Cartridge := { c with state := st, shipment := none, job := none }

/-- The scan is counted (R178). -/
def countScan (k : ReturnClass) (s : State) : State := { s with counters := countClass k s.counters }

/-- The scan is counted, with its day sums (R178). -/
def countClosed (k : ReturnClass) (l : Loan) (s : State) : State :=
  { s with counters := countDays k (today s) l (countClass k s.counters) }

/-- A returned cartridge with an open loan (R169, R174): the matching slots count it, the record leaves OUT, the loan closes, the patron is
appended. -/
def returnCart (k : ReturnClass) (c : Cartridge) (l : Loan) (s : State) : State :=
  countClosed k l <| appendEligible l.patron <| closeLoan l <|
    updateCart c.serial (leaveOut (returnedState s c k)) (countMatches c s)

/-- A returned copy with an open loan (R169, R170): the loan closes, the copy enters SHELF with hold service, or becomes WITHDRAWN when it
is damaged, and the patron is appended. -/
def returnCopy (k : ReturnClass) (id : Nat) (l : Loan) (s : State) : State :=
  let closed := closeLoan l s
  let moved :=
    if k = .damaged then
      updateCopy id (fun c => { c with state := .withdrawn, patron := none, shipment := none }) closed
    else toShelf id closed
  countClosed k l (appendEligible l.patron moved)

/-- The reply to a scan that names no loan: the class, and the item's state, 0 for UNKNOWN (R171, 10.5). -/
def unlentReply (k : ReturnClass) (itemState : Nat) : List Byte :=
  leBytes 1 (returnCode k) ++ leBytes 1 itemState ++ leBytes 3 0 ++ leBytes 2 0 ++ leBytes 3 0 ++ leBytes 2 0
    ++ leBytes 2 0 ++ leBytes 2 0 ++ leBytes 1 0 ++ leBytes 2 0 ++ leBytes 1 0 ++ leBytes 1 255 ++ leBytes 1 255

/-- What a reply says of a closed loan (R171, 10.5): patron, shipment, day out, due day, overdue, days late. -/
def loanReply (s : State) (k : ReturnClass) (l : Loan) : List Byte :=
  leBytes 3 l.patron ++ leBytes 2 l.shipment ++ leBytes 2 l.dayOut ++ leBytes 2 l.due ++ leBytes 1 (bit l.overdue)
    ++ leBytes 2 (if k = .late then today s - l.due else 0)

/-- What a reply says of the recall filters (R171, 10.5): the action taken, the slot that gave it, the lowest slot where COUNT alone
matched. -/
def filterReply (s : State) (c : Cartridge) : List Byte :=
  match strongestAction s c with
  | some .count => leBytes 1 0 ++ leBytes 1 255 ++ leBytes 1 (lowestSlot s c .count)
  | some a => leBytes 1 (actionCode a) ++ leBytes 1 (lowestSlot s c a) ++ leBytes 1 255
  | none => leBytes 1 0 ++ leBytes 1 255 ++ leBytes 1 255

/-- A scan of a cartridge (R167-R171). -/
def returnCartRule (serial : Nat) (damaged : Bool) (s : State) : Answer :=
  match findCart s serial with
  | none => okWith (unlentReply .unknown 0) (countScan .unknown s)
  | some c =>
    match findLoan s (.cartridge serial) with
    | none => okWith (unlentReply .notOut (cartStateCode c.state)) (countScan .notOut s)
    | some l =>
      let k := cartClass s damaged c l
      okWith (leBytes 1 (returnCode k) ++ leBytes 1 (cartStateCode (returnedState s c k)) ++ leBytes 3 0 ++ leBytes 2 0
        ++ loanReply s k l ++ filterReply s c) (returnCart k c l s)

/-- What a reply says of a returned copy (R170, R171): its state, and the patron and shipment that hold service has named. -/
def copyReply (s : State) (id : Nat) : List Byte :=
  match findCopy s id with
  | some c =>
    leBytes 1 (copyStateCode c.state) ++ leBytes 3 (c.patron.getD 0) ++ leBytes 2 (c.shipment.getD 0)
  | none => leBytes 6 0

/-- A scan of a copy (R167-R171). -/
def returnCopyRule (id : Nat) (damaged : Bool) (s : State) : Answer :=
  match findCopy s id with
  | none => okWith (unlentReply .unknown 0) (countScan .unknown s)
  | some c =>
    match findLoan s (.copy id) with
    | none => okWith (unlentReply .notOut (copyStateCode c.state)) (countScan .notOut s)
    | some l =>
      let k := copyClass s damaged l
      let t := returnCopy k id l s
      okWith (leBytes 1 (returnCode k) ++ copyReply t id ++ loanReply s k l ++ leBytes 1 0 ++ leBytes 1 255
        ++ leBytes 1 255) t

/-- RETURN SCAN (R166). -/
def returnScanRule (form item damaged : Nat) (s : State) : Answer :=
  if !s.clock.set then statusOnly .clockUnset s
  else
    match flagOf damaged with
    | none => statusOnly .range s
    | some d =>
      match form with
      | 1 => if item = 0 then statusOnly .range s else returnCartRule item d s
      | 2 => if item < 1 ∨ maxCopy < item then statusOnly .range s else returnCopyRule item d s
      | _ => statusOnly .range s

/-- RETURN_SCAN. -/
def execReturnScan (tag : Byte) (body : List Byte) (s : State) : Host.Outcome State Fault Refusal :=
  serve (.returnScan tag body) ⟨0x58, tag, body⟩
    (returnScanRule (field body 0 1) (field body 1 4) (field body 5 1)) s

end Sys2Proof.Machine
end

