-- ==== Sys2Proof/Machine/Plan.lean ====
section
/-! DEFINITION. The cartridge plan: placement of candidate titles, the estimate and the target cut-off (chapter 3, R52-R58). -/

namespace Sys2Proof.Machine

/-- A cartridge of the working plan (R52): its free space and its parts, in the order they are placed. Its entry count is the number
of its parts. -/
structure PlanCart where
  free  : Nat
  parts : List Part
deriving DecidableEq, Repr

/-- The working plan (R52): the cartridges opened, the current one first, and the candidates placed, the last one first. -/
structure Working where
  carts  : List PlanCart
  placed : List TitleKey
deriving DecidableEq, Repr

/-- A volume of a title as the Planner sees it: first block, size, occupied count (R2, R52). -/
structure Volume where
  first : Nat
  size  : Nat
  occ   : Nat
deriving DecidableEq, Repr

/-- The volumes of a title entry with their occupancy counts (R2, R52). -/
def entryVolumes (e : TitleEntry) : List Volume :=
  ((volumes e.size e.breaks).zip e.volOcc).map fun ((first, size), occ) => ⟨first, size, occ⟩

/-- A cartridge with one more part. -/
def PlanCart.place (c : PlanCart) (p : Part) : PlanCart := ⟨c.free - p.count, c.parts ++ [p]⟩

/-- A newly opened cartridge of a kind (R52). -/
def newCart (k : Kind) : PlanCart := ⟨usable k, []⟩

/-- R53: a candidate no larger than U is placed whole on the current cartridge, or on a new one, or deferred. -/
def placeWhole (k : Kind) (cap : Nat) (e : TitleEntry) (carts : List PlanCart) : Option (List PlanCart) :=
  let part : Part := ⟨e.key, 0, e.size, e.occCount⟩
  match carts with
  | c :: rest =>
    if e.size ≤ c.free ∧ c.parts.length < partCapacity then some (c.place part :: rest)
    else if carts.length < cap then some ((newCart k).place part :: carts)
    else none
  | [] => none

/-- R54: the longest run of volumes from the first whose total size is at most `free`, and the volumes behind it. -/
def takeRun (free : Nat) : List Volume → List Volume × List Volume
  | [] => ([], [])
  | v :: vs =>
    if v.size ≤ free then
      let (run, rest) := takeRun (free - v.size) vs
      (v :: run, rest)
    else ([], v :: vs)

/-- A run of volumes as one part (R54, R56). -/
def runPart (k : TitleKey) (run : List Volume) : Part :=
  ⟨k, (run.head?.map (·.first)).getD 0, (run.map (·.size)).sum, (run.map (·.occ)).sum⟩

/-- R54, a new cartridge: opened if the number opened is below the cap, and the run is formed there. -/
def openStage (k : Kind) (cap : Nat) (key : TitleKey) (vols : List Volume) (carts : List PlanCart) :
    Option (List Volume × List PlanCart) :=
  if carts.length < cap then
    match takeRun (usable k) vols with
    | ([], _) => none
    | (run, behind) => some (behind, (newCart k).place (runPart key run) :: carts)
  else none

/-- R54, one stage: the longest run that fits the current cartridge is placed there, if it holds a volume and the entry count is below
12; otherwise a new cartridge is opened. None when the cap is reached, which rolls the title back (R55). -/
def splitStage (k : Kind) (cap : Nat) (key : TitleKey) (vols : List Volume) (carts : List PlanCart) :
    Option (List Volume × List PlanCart) :=
  match carts with
  | [] => none
  | c :: rest =>
    match takeRun c.free vols with
    | ([], _) => openStage k cap key vols carts
    | (run, behind) =>
      if c.parts.length < partCapacity then some (behind, c.place (runPart key run) :: rest)
      else openStage k cap key vols carts

/-- R54: the stages repeat until every volume is placed. Each takes at least one volume, so as many stages as volumes are enough. -/
def placeSplit (k : Kind) (cap : Nat) (key : TitleKey) : Nat → List Volume → List PlanCart → Option (List PlanCart)
  | 0, vols, carts => if vols.isEmpty then some carts else none
  | fuel + 1, vols, carts =>
    if vols.isEmpty then some carts
    else
      match splitStage k cap key vols carts with
      | some (behind, carts') => placeSplit k cap key fuel behind carts'
      | none => none

/-- One candidate is placed (R53, R54) or deferred: the working plan is then as it was before it (R55). -/
def placeCandidate (k : Kind) (cap : Nat) (w : Working) (e : TitleEntry) : Working :=
  let tried :=
    if e.size ≤ usable k then placeWhole k cap e w.carts
    else placeSplit k cap e.key (entryVolumes e).length (entryVolumes e) w.carts
  match tried with
  | some carts => ⟨carts, e.key :: w.placed⟩
  | none => w

/-- What the Planner makes of a step's candidates (R56): the cartridges' parts, cartridge 1 first, and the entries placed. -/
structure Plan where
  carts  : List (List Part)
  placed : List TitleKey
deriving DecidableEq, Repr

/-- R52, R56: the walk over the candidates in list order under the cap K. A cartridge 1 left without a part is discarded. -/
def makePlan (k : Kind) (cap : Nat) (candidates : List TitleEntry) : Plan :=
  if cap = 0 ∨ candidates.isEmpty then ⟨[], []⟩
  else
    let w := candidates.foldl (placeCandidate k cap) ⟨[newCart k], []⟩
    ⟨(w.carts.reverse.map (·.parts)).filter (!·.isEmpty), w.placed.reverse⟩

/-- The estimate of a cartridge in seconds (R57): 4,000 ms, 15 ms for each occupied block and 1 ms for each fill block, rounded
up. -/
def estimate (parts : List Part) : Nat :=
  (4000 + (parts.map fun p => 15 * p.occ + (p.count - p.occ)).sum + 999) / 1000

/-- E, the largest estimate of the plan's cartridges; 0 with none (R57). -/
def shipmentEstimate (p : Plan) : Nat := (p.carts.map estimate).foldl max 0

/-- The earliest cut-off whose absolute minute is F or later, among today's, the next day's and the day after's, taking no day after
day 65,535; none for NONE (R58). -/
def cutoffAtOrAfter (s : State) (f : Nat) : Option Nat :=
  ([0, 1, 2].flatMap fun d =>
      if s.clock.day + d ≤ maxDay then s.cutoffs.map fun m => (s.clock.day + d) * 1440 + m else []).find?
    fun t => decide (f ≤ t)

/-- The target cut-off of a shipment whose estimate is E seconds (R58). -/
def targetCutoff (s : State) (e : Nat) : Option Nat := cutoffAtOrAfter s (now s + (e + 59) / 60 + 15)

end Sys2Proof.Machine
end

