-- ==== Sys2Proof/Machine/Selection.lean ====
section
/-! DEFINITION. Chapter 2, selection, and chapter 3's commit: SELECTION HOLD, SELECTION RELEASE and the selection step (R39-R44, R59). -/

namespace Sys2Proof.Machine

/-! ## The gate (R39) -/

/-- A selection step can be taken (R39). -/
def gateOpen (s : State) : Bool :=
  s.selection == .released && s.clock.set && decide ((s.jobs.filter (·.state == .queued)).length < queuedGate)
    && !s.eligibility.isEmpty && decide (s.shipments.length < shipmentCapacity)

/-- The patron taken from the head is dropped at once (R40). -/
def dropsAtOnce (p : Patron) : Bool :=
  p.state != .active || p.shipment.isSome
    || (cartHeadroom p == 0 && embHeadroom p == 0 && !p.list.any (·.state == .reserved))

/-! ## Stages 1 and 2 (R41, R42) -/

/-- What the first stages of a step have gathered: the state, the copy lines, the candidates in list order. -/
structure Walk where
  state      : State
  copies     : List Nat
  candidates : List TitleEntry

/-- R41: one item of the list: a RESERVED item's copy becomes ALLOCATED for the step's shipment. -/
def takeReserved (n shipment : Nat) (w : Walk) (i : ListItem) : Walk :=
  if i.state == .reserved then
    match w.state.copies.find? (fun c => c.state == .reserved && c.patron == some n && c.title == i.title) with
    | some c =>
      { w with
        state := updatePatron n (setItem i.title i.medium .inShipment) (allocateCopy c.id n shipment w.state)
        copies := w.copies ++ [c.id] }
    | none => w
  else w

/-- The lowest-numbered SHELF copy of a title (R42, R127). -/
def shelfCopy (s : State) (title : Nat) : Option Copy :=
  s.copies.find? fun c => c.title == title && c.state == .shelf

/-- The patron's embossed headroom as the walk reaches an item (R42). -/
def headroomNow (s : State) (n : Nat) : Nat :=
  match findPatron s n with
  | some p => embHeadroom p
  | none => 0

/-- R42, an EMBOSSED item WAITING or ON HOLD with headroom. -/
def walkEmbossed (n shipment : Nat) (w : Walk) (i : ListItem) : Walk :=
  match shelfCopy w.state i.title with
  | some c =>
    { w with
      state :=
        updatePatron n (fun p => setItem i.title .embossed .inShipment { p with commCopies := p.commCopies + 1 }) <|
          dropHold i.title n (allocateCopy c.id n shipment w.state)
      copies := w.copies ++ [c.id] }
  | none =>
    if i.state == .waiting && decide (w.state.holds.length < holdPool) then
      { w with
        state := updatePatron n (setItem i.title .embossed .onHold)
          { w.state with holds := w.state.holds ++ [⟨i.title, n, today w.state⟩] } }
    else w

/-- R42: one item of the list. -/
def walkItem (n shipment : Nat) (w : Walk) (i : ListItem) : Walk :=
  match i.medium with
  | .embossed =>
    if (i.state == .waiting || i.state == .onHold) && decide (0 < headroomNow w.state n) then
      walkEmbossed n shipment w i
    else w
  | m =>
    if i.state == .waiting then
      match readyEntry w.state i.title m with
      | some e => { w with candidates := w.candidates ++ [e] }
      | none => { w with state := updatePatron n (setItem i.title m .awaitingMaster) w.state }
    else w

/-- The items of a patron's list as they stand. -/
def listOf (s : State) (n : Nat) : List ListItem :=
  match findPatron s n with
  | some p => p.list
  | none => []

/-- Stages 1 and 2: the list from position 1 to the end, first for reserved copies, then for the rest (R41, R42). -/
def firstStages (n shipment : Nat) (s : State) : Walk :=
  let w := (listOf s n).foldl (takeReserved n shipment) ⟨s, [], []⟩
  (listOf w.state n).foldl (walkItem n shipment) w

/-! ## Stage 3 (R43) -/

/-- The cartridge cap K (R43). -/
def cartridgeCap (s : State) (p : Patron) : Nat :=
  min (cartHeadroom p) (min (jobCapacity - s.jobs.length) (spareCount s p.kind))

/-! ## Stage 4: commit (R44, R59) -/

/-- The job table is ordered by job number. -/
def jobBefore (a b : Job) : Bool := decide (a.number < b.number)

/-- One cartridge of a plan becomes a QUEUED job and a job line (R59); the job number counter moves past the number taken (R60). -/
def createJob (shipment : Nat) (k : Kind) (target : Option Nat) (s : State) (cart : Nat × List Part) : State :=
  let n := takeNumber 65535 (s.jobs.map (·.number)) s.jobCounter
  let t := updateShipment shipment (fun x => { x with jobLines := x.jobLines ++ [⟨n, cart.1, none⟩] })
    { s with
      jobs := insertBy jobBefore
        ⟨n, shipment, cart.1, k, cart.2, estimate cart.2, target, false, .queued, none, none⟩ s.jobs
      jobCounter := numberAfter 65535 n }
  cart.2.foldl (fun u p => raiseRef p.key u) t

/-- The volumes of copies, together. -/
def volumesOf (s : State) (ids : List Nat) : Nat :=
  (ids.map fun id => ((findCopy s id).map (·.volumes)).getD 0).sum

/-- The cartridges of a plan with their indexes, from 1. -/
def indexed (carts : List (List Part)) : List (Nat × List Part) := (List.range carts.length).map (· + 1) |>.zip carts

/-- The shipment number the step's shipment takes (R45). -/
def newShipmentNumber (s : State) : Nat := takeNumber 65535 (s.shipments.map (·.number)) s.shipmentCounter

/-- The jobs of a shipment that are QUEUED, in cartridge index order: those to be offered to the bays (R62). -/
def jobsOfShipment (s : State) (n : Nat) : List Nat :=
  match findShipment s n with
  | some sh => sh.jobLines.map (·.job)
  | none => []

/-- R44, R59: a shipment is created with its copy lines, its jobs, its target; the placed items become IN SHIPMENT and committed cartridges
rises by the number of jobs; the jobs are offered to the bays in cartridge index order (R62). -/
def commit (n : Nat) (number : Nat) (k : Kind) (copies : List Nat) (plan : Plan) (s : State) : State :=
  let target := targetCutoff s (shipmentEstimate plan)
  let st : ShipmentState := if plan.carts.isEmpty then .ready else .assembling
  let opened : State :=
    { s with
      shipments := s.shipments ++
        [⟨number, n, st, [], copies, target, [], plan.carts.length + volumesOf s copies⟩]
      shipmentCounter := numberAfter 65535 number }
  let joined := updatePatron n (fun p =>
      plan.placed.foldl (fun q key => setItem key.title key.medium .inShipment q)
        { p with shipment := some number, commCarts := p.commCarts + plan.carts.length }) opened
  let planned := (indexed plan.carts).foldl (createJob number k target) joined
  let flagged := if plan.carts.isEmpty then setEvent .shipmentReady planned else planned
  (jobsOfShipment flagged number).foldl (fun t j => offerJob j t) flagged

/-- The step for a patron that is not dropped at once (R41-R44). -/
def servePatron (n : Nat) (s : State) : State :=
  let number := newShipmentNumber s
  let w := firstStages n number s
  match findPatron w.state n with
  | some p =>
    let plan := makePlan p.kind (cartridgeCap w.state p) w.candidates
    if plan.carts.isEmpty && w.copies.isEmpty then w.state
    else commit n number p.kind w.copies plan w.state
  | none => w.state

/-- The selection step (R39, R40): with the gate open, the patron at the head leaves the queue, and is dropped or served. With the gate
shut no step is taken. -/
def selectionStep (s : State) : State :=
  if gateOpen s then
    match s.eligibility with
    | n :: rest =>
      let t := { s with eligibility := rest }
      match findPatron t n with
      | some p => if dropsAtOnce p then t else servePatron n t
      | none => t
    | [] => s
  else s

/-- SELECTION_STEP. -/
def execSelectionStep (s : State) : Host.Outcome State Fault Refusal := event selectionStep s

/-- SELECTION_HOLD (R39). -/
def execSelectionHold (tag : Byte) (body : List Byte) (s : State) : Host.Outcome State Fault Refusal :=
  serve (.selectionHold tag body) ⟨0x05, tag, body⟩ (fun t => okWith [] (setSelection .held t)) s

/-- SELECTION_RELEASE (R39). -/
def execSelectionRelease (tag : Byte) (body : List Byte) (s : State) : Host.Outcome State Fault Refusal :=
  serve (.selectionRelease tag body) ⟨0x06, tag, body⟩ (fun t => okWith [] (setSelection .released t)) s

end Sys2Proof.Machine
end

