-- ==== Sys2Proof/Machine/Stock.lean ====
section
/-! DEFINITION. Chapter 6, embossed stock: COPY ENTER, COPY WITHDRAW, HOLD QUERY, PICK LIST (R120, R121, R129-R131). -/

namespace Sys2Proof.Machine

/-- The copy table is ordered by copy id (R118). -/
def copyBefore (a b : Copy) : Bool := decide (a.id < b.id)

/-- A copy as COPY ENTER leaves it (R120): on SHELF, nothing scanned, no patron and no shipment. -/
def enteredCopy (id title volumes : Nat) : Copy where
  id := id
  title := title
  volumes := volumes
  state := .shelf
  patron := none
  shipment := none
  marks := noMarks volumes

/-- COPY ENTER (R120). -/
def copyEnterRule (id title volumes : Nat) (s : State) : Answer :=
  if id < 1 ∨ maxCopy < id ∨ title < 1 ∨ maxNumber < title ∨ volumes < 1 ∨ 12 < volumes then statusOnly .range s
  else
    match findCopy s id with
    | some c =>
      if c.state = .withdrawn then okWith [] (holdService id (updateCopy id (fun _ => enteredCopy id title volumes) s))
      else statusOnly .duplicate s
    | none =>
      if copyCapacity ≤ s.copies.length then statusOnly .full s
      else okWith [] (holdService id { s with copies := insertBy copyBefore (enteredCopy id title volumes) s.copies })

/-- COPY WITHDRAW (R121). -/
def copyWithdrawRule (id : Nat) (s : State) : Answer :=
  if id < 1 ∨ maxCopy < id then statusOnly .range s
  else
    match findCopy s id with
    | none => statusOnly .notFound s
    | some c =>
      if c.state = .shelf then okWith [] (updateCopy id (fun x => { x with state := .withdrawn }) s)
      else statusOnly .busy s

/-- The six states, in the order of R118. -/
def copyStates : List CopyState := [.shelf, .reserved, .allocated, .packed, .out, .withdrawn]

/-- One entry of a HOLD QUERY reply (R130): patron, day placed, the patron's state and embossed headroom. -/
def holdData (s : State) (h : Hold) : List Byte :=
  let p := findPatron s h.patron
  leBytes 3 h.patron ++ leBytes 2 h.day ++ leBytes 1 ((p.map fun x => patronStateCode x.state).getD 0)
    ++ leBytes 1 ((p.map embHeadroom).getD 0)

/-- HOLD QUERY in form 0; a form byte that names no form is answered RANGE (R130, R184). -/
def holdQueueRule (form title start : Nat) (s : State) : Answer :=
  if form ≠ 0 ∨ title < 1 ∨ maxNumber < title then statusOnly .range s
  else
    okWith
      (copyStates.flatMap (fun st => leBytes 2 (s.copies.filter fun c => c.title == title && c.state == st).length)
        ++ leBytes 2 (holdQueue s title).length ++ leBytes 2 (holdPool - s.holds.length)
        ++ listField (holdData s) (page start 48 (holdQueue s title))) s

/-- One copy of a HOLD QUERY reply (R131). -/
def heldCopyData (c : Copy) : List Byte :=
  leBytes 3 c.id ++ leBytes 1 c.volumes ++ leBytes 1 (copyStateCode c.state) ++ leBytes 1 (volumesScanned c)
    ++ optField 3 c.patron ++ optField 2 c.shipment

/-- The copies of a title from a start copy id, in ascending copy id (R131). -/
def copiesFrom (title start : Nat) (s : State) : List Copy :=
  s.copies.filter fun c => c.title == title && decide (start ≤ c.id)

/-- HOLD QUERY in form 1 (R131). The copy id at which the next query should start is that of the 33rd copy itself (DESIGN CHOICE,
log 40). -/
def holdCopiesRule (title start : Nat) (s : State) : Answer :=
  if title < 1 ∨ maxNumber < title ∨ maxCopy < start then statusOnly .range s
  else
    let found := copiesFrom title start s
    okWith (listField heldCopyData (found.take 32)
      ++ leBytes 3 (((found.drop 32).head?.map (·.id)).getD 0)) s

/-- One copy of a PICK LIST reply (R129). The patron and the shipment, optional in the copy record (R118) but always there in an ALLOCATED copy,
are sent without presence bytes (DESIGN CHOICE, log 12). -/
def pickData (s : State) (id : Nat) : List Byte :=
  match findCopy s id with
  | some c =>
    leBytes 3 c.id ++ leBytes 3 c.title ++ leBytes 1 c.volumes ++ leBytes 3 (c.patron.getD 0)
      ++ leBytes 2 (c.shipment.getD 0) ++ minuteField ((c.shipment.bind (findShipment s)).bind (·.target))
  | none => leBytes 3 id ++ leBytes 9 0 ++ minuteField none

/-- PICK LIST (R129). -/
def pickListRule (start : Nat) (s : State) : Answer :=
  okWith (leBytes 2 s.pickList.length ++ listField (pickData s) (page start 40 s.pickList)) s

/-- COPY_ENTER. -/
def execCopyEnter (tag : Byte) (body : List Byte) (s : State) : Host.Outcome State Fault Refusal :=
  serve (.copyEnter tag body) ⟨0x28, tag, body⟩
    (copyEnterRule (field body 0 3) (field body 3 3) (field body 6 1)) s

/-- COPY_WITHDRAW. -/
def execCopyWithdraw (tag : Byte) (body : List Byte) (s : State) : Host.Outcome State Fault Refusal :=
  serve (.copyWithdraw tag body) ⟨0x29, tag, body⟩ (copyWithdrawRule (field body 0 3)) s

/-- HOLD_QUERY_QUEUE. -/
def execHoldQueryQueue (tag : Byte) (body : List Byte) (s : State) : Host.Outcome State Fault Refusal :=
  serve (.holdQueryQueue tag body) ⟨0x2A, tag, body⟩
    (holdQueueRule (field body 0 1) (field body 1 3) (field body 4 2)) s

/-- HOLD_QUERY_COPIES. -/
def execHoldQueryCopies (tag : Byte) (body : List Byte) (s : State) : Host.Outcome State Fault Refusal :=
  serve (.holdQueryCopies tag body) ⟨0x2A, tag, body⟩ (holdCopiesRule (field body 1 3) (field body 4 3)) s

/-- PICK_LIST. -/
def execPickList (tag : Byte) (body : List Byte) (s : State) : Host.Outcome State Fault Refusal :=
  serve (.pickList tag body) ⟨0x2B, tag, body⟩ (pickListRule (field body 0 2)) s

end Sys2Proof.Machine
end

