-- ==== Sys2Proof/Machine/Survey.lean ====
section
/-! DEFINITION. Chapter 1, the survey: completion of its index block read and of its title block reads (R10-R17). -/

namespace Sys2Proof.Machine

/-- How the descriptor walk ends (R10). -/
inductive WalkEnd where
  | found
  | badExtent
  | noEnd
deriving DecidableEq, Repr

/-- R10: walk the descriptors from byte `offset` of an index block, at most `fuel` of them, appending the good ones to `got`. Each is 8
bytes: first master block in 4, count in 3, END in bit 0 of the last (1.2.2). -/
def walkDescriptors (data : List Byte) : Nat → Nat → List Extent → List Extent × WalkEnd
  | 0, _, got => (got, .noEnd)
  | fuel + 1, offset, got =>
    let first := field data offset 4
    let count := field data (offset + 4) 3
    if count = 0 ∨ 4194304 < first + count then (got, .badExtent)
    else if field data (offset + 7) 1 % 2 = 1 then (got ++ [⟨first, count⟩], .found)
    else walkDescriptors data fuel (offset + 8) (got ++ [⟨first, count⟩])

/-- The survey of the entry at the head ends with an outcome (R15): the entry leaves the survey queue and SURVEY is set. -/
def surveyOver (k : TitleKey) (s : State) : State :=
  setEvent .survey { s with surveyQueue := s.surveyQueue.filter (· != k) }

/-- The entry becomes FAULTED with a reason (R10, R13, R14). -/
def faultTitle (k : TitleKey) (why : TitleFault) (s : State) : State :=
  surveyOver k (updateTitle k (fun e => { e with state := .faulted, fault := some why }) s)

/-- A patron's AWAITING MASTER item of a title number and medium (R16). -/
def awaits (title : Nat) (medium : Medium) (p : Patron) : Bool :=
  p.list.any fun i => isItem title medium i && i.state == .awaitingMaster

/-- That item returns to WAITING (R16). -/
def wakeItem (title : Nat) (medium : Medium) (p : Patron) : Patron :=
  let hit := fun i : ListItem => isItem title medium i && i.state == .awaitingMaster
  { p with list := replace hit (fun i => { i with state := .waiting }) p.list }

/-- R16: the Selection Unit is handed a title number and medium that has become READY: the items awaiting it return to WAITING, and
their patrons are appended in ascending number, each if the conditions hold at that moment. -/
def wakePatrons (title : Nat) (medium : Medium) (s : State) : State :=
  ((s.patrons.filter (awaits title medium)).map (·.number)).foldl (fun t n => appendEligible n t)
    { s with patrons := s.patrons.map (wakeItem title medium) }

/-- An entry becomes READY (R13, R15, R16). -/
def titleReady (k : TitleKey) (excess : Bool) (s : State) : State :=
  wakePatrons k.title k.medium <| retireReady k.title k.medium k.edition <|
    surveyOver k (updateTitle k (fun e => { e with state := .ready, excess := excess }) s)

/-- R13: what the survey of an entry has come to when its next title block is looked for. -/
def surveyNext (e : TitleEntry) (s : State) : State :=
  if e.size ≤ e.progress then titleReady e.key (mapBlock e.extents e.size).isSome s
  else if (mapBlock e.extents e.progress).isNone then faultTitle e.key .shortMaster s
  else s

/-- The entry after the survey has read an index block whose walk gave these extents (R10). -/
def indexRead (e : TitleEntry) (walk : List Extent × WalkEnd) (s : State) : State :=
  let t := updateTitle e.key (fun x => { x with extents := walk.1 }) s
  match walk.2 with
  | .found => surveyNext { e with extents := walk.1 } t
  | .badExtent => faultTitle e.key .badExtent t
  | .noEnd => faultTitle e.key .noEnd t

/-- The entry after one title block has been surveyed (R12). -/
def blockSurveyed (data : List Byte) (e : TitleEntry) : TitleEntry :=
  if data.all (· == 0xFF) then { e with progress := e.progress + 1 }
  else
    { e with
      occupied := e.occupied ++ [e.progress]
      occCount := e.occCount + 1
      volOcc := e.volOcc.modify (volumeOf e.breaks e.progress) (· + 1)
      progress := e.progress + 1 }

/-- The completed read that TS takes: of the survey, not discarded, its entry still the head of the survey queue (R17, R23). -/
def surveyedEntry (s : State) (g : Grant) : Option TitleEntry :=
  if g.discarded ∨ s.surveyQueue.head? ≠ some g.key then none
  else (findTitle s g.key).filter (·.seq == g.seq)

/-- Completion of a survey's index block read (R10, R23). It completes only the grant of an index block. -/
def indexBlockDone (r : ReadResult) (s : State) : State :=
  match s.grant with
  | some g =>
    if g.requester = .survey ∧ g.block = none then
      let t := { s with grant := none }
      match surveyedEntry s g with
      | some e =>
        match r with
        | .data block => indexRead e (walkDescriptors block 64 0 []) t
        | .mediaError => faultTitle e.key .media t
      | none => t
    else s
  | none => s

/-- Completion of a survey's title block read (R12, R13, R14, R23). It completes only the grant of a title block to the survey. -/
def titleBlockDone (r : ReadResult) (s : State) : State :=
  match s.grant with
  | some g =>
    if g.requester = .survey ∧ g.block ≠ none then
      let t := { s with grant := none }
      match surveyedEntry s g with
      | some e =>
        match r with
        | .data block => surveyNext (blockSurveyed block e) (updateTitle e.key (blockSurveyed block) t)
        | .mediaError => faultTitle e.key .media t
      | none => t
    else s
  | none => s

/-- INDEX_BLOCK_READ. -/
def execIndexBlockRead (result : ReadResult) (s : State) : Host.Outcome State Fault Refusal :=
  event (indexBlockDone result) s

/-- TITLE_BLOCK_READ. -/
def execTitleBlockRead (result : ReadResult) (s : State) : Host.Outcome State Fault Refusal :=
  event (titleBlockDone result) s

end Sys2Proof.Machine
end

