-- ==== Sys2Proof/Machine/Dispatch.lean ====
section
/-! DEFINITION. Which meaning each command has: one arm for each constructor of `Instr`. -/

namespace Sys2Proof.Machine

/-- The effect of a command on everything but the queue of waiting commands. -/
def exec (i : Instr) (s : State) : Host.Outcome State Fault Refusal :=
  match i with
  | .clockSet tag body => Sys2Proof.Machine.execClockSet tag body s
  | .cutoffSet tag body => Sys2Proof.Machine.execCutoffSet tag body s
  | .loanPeriodSet tag body => Sys2Proof.Machine.execLoanPeriodSet tag body s
  | .supplyLevelSet tag body => Sys2Proof.Machine.execSupplyLevelSet tag body s
  | .selectionHold tag body => Sys2Proof.Machine.execSelectionHold tag body s
  | .selectionRelease tag body => Sys2Proof.Machine.execSelectionRelease tag body s
  | .titleEnter tag body => Sys2Proof.Machine.execTitleEnter tag body s
  | .titleRemove tag body => Sys2Proof.Machine.execTitleRemove tag body s
  | .titleQuery tag body => Sys2Proof.Machine.execTitleQuery tag body s
  | .patronEnter tag body => Sys2Proof.Machine.execPatronEnter tag body s
  | .patronRemove tag body => Sys2Proof.Machine.execPatronRemove tag body s
  | .patronSuspend tag body => Sys2Proof.Machine.execPatronSuspend tag body s
  | .patronResume tag body => Sys2Proof.Machine.execPatronResume tag body s
  | .patronQuery tag body => Sys2Proof.Machine.execPatronQuery tag body s
  | .shipNow tag body => Sys2Proof.Machine.execShipNow tag body s
  | .listAdd tag body => Sys2Proof.Machine.execListAdd tag body s
  | .listDrop tag body => Sys2Proof.Machine.execListDrop tag body s
  | .listQuery tag body => Sys2Proof.Machine.execListQuery tag body s
  | .copyEnter tag body => Sys2Proof.Machine.execCopyEnter tag body s
  | .copyWithdraw tag body => Sys2Proof.Machine.execCopyWithdraw tag body s
  | .holdQueryQueue tag body => Sys2Proof.Machine.execHoldQueryQueue tag body s
  | .holdQueryCopies tag body => Sys2Proof.Machine.execHoldQueryCopies tag body s
  | .pickList tag body => Sys2Proof.Machine.execPickList tag body s
  | .shipmentQuery tag body => Sys2Proof.Machine.execShipmentQuery tag body s
  | .shipmentCancel tag body => Sys2Proof.Machine.execShipmentCancel tag body s
  | .jobQuery tag body => Sys2Proof.Machine.execJobQuery tag body s
  | .jobQueryQueue tag body => Sys2Proof.Machine.execJobQueryQueue tag body s
  | .bayQuery tag body => Sys2Proof.Machine.execBayQuery tag body s
  | .bayQueryRack tag body => Sys2Proof.Machine.execBayQueryRack tag body s
  | .bayServiceOut tag body => Sys2Proof.Machine.execBayServiceOut tag body s
  | .bayServiceIn tag body => Sys2Proof.Machine.execBayServiceIn tag body s
  | .cartridgeQueryRecord tag body => Sys2Proof.Machine.execCartridgeQueryRecord tag body s
  | .cartridgeQuerySummary tag body => Sys2Proof.Machine.execCartridgeQuerySummary tag body s
  | .cartridgeQuerySearch tag body => Sys2Proof.Machine.execCartridgeQuerySearch tag body s
  | .cartridgeWithdraw tag body => Sys2Proof.Machine.execCartridgeWithdraw tag body s
  | .packScan tag body => Sys2Proof.Machine.execPackScan tag body s
  | .containerQuery tag body => Sys2Proof.Machine.execContainerQuery tag body s
  | .containerQueryShipment tag body => Sys2Proof.Machine.execContainerQueryShipment tag body s
  | .batchQuery tag body => Sys2Proof.Machine.execBatchQuery tag body s
  | .batchQueryTable tag body => Sys2Proof.Machine.execBatchQueryTable tag body s
  | .batchRelease tag body => Sys2Proof.Machine.execBatchRelease tag body s
  | .loanQueryItem tag body => Sys2Proof.Machine.execLoanQueryItem tag body s
  | .loanQueryPatron tag body => Sys2Proof.Machine.execLoanQueryPatron tag body s
  | .loanWriteOff tag body => Sys2Proof.Machine.execLoanWriteOff tag body s
  | .returnScan tag body => Sys2Proof.Machine.execReturnScan tag body s
  | .recallSet tag body => Sys2Proof.Machine.execRecallSet tag body s
  | .recallClear tag body => Sys2Proof.Machine.execRecallClear tag body s
  | .countersRead tag body => Sys2Proof.Machine.execCountersRead tag body s
  | .countersClear tag body => Sys2Proof.Machine.execCountersClear tag body s
  | .summaryRead tag body => Sys2Proof.Machine.execSummaryRead tag body s
  | .controllerReset tag body => Sys2Proof.Machine.execControllerReset tag body s
  | .recordsClear tag body => Sys2Proof.Machine.execRecordsClear tag body s
  | .unknownKind kind tag body => Sys2Proof.Machine.execUnknownKind kind tag body s
  | .goodFrame kind tag body check => Sys2Proof.Machine.execGoodFrame kind tag body check s
  | .frameLengthDiscard length => Sys2Proof.Machine.execFrameLengthDiscard length s
  | .frameGapTimeout => Sys2Proof.Machine.execFrameGapTimeout s
  | .frameSent => Sys2Proof.Machine.execFrameSent s
  | .controllerResetTaken => Sys2Proof.Machine.execControllerResetTaken s
  | .resetLine => Sys2Proof.Machine.execResetLine s
  | .powerUp found modules sensed => Sys2Proof.Machine.execPowerUp found modules sensed s
  | .mainPowerFall => Sys2Proof.Machine.execMainPowerFall s
  | .windowStart => Sys2Proof.Machine.execWindowStart s
  | .indexBlockRead result => Sys2Proof.Machine.execIndexBlockRead result s
  | .titleBlockRead result => Sys2Proof.Machine.execTitleBlockRead result s
  | .feedReadData data => Sys2Proof.Machine.execFeedReadData data s
  | .feedMediaError => Sys2Proof.Machine.execFeedMediaError s
  | .cartridgeInserted bay => Sys2Proof.Machine.execCartridgeInserted bay s
  | .identityReadDone bay serial kind => Sys2Proof.Machine.execIdentityReadDone bay serial kind s
  | .identificationTimeout bay => Sys2Proof.Machine.execIdentificationTimeout bay s
  | .cartridgeRemoved bay => Sys2Proof.Machine.execCartridgeRemoved bay s
  | .wipeComplete bay => Sys2Proof.Machine.execWipeComplete bay s
  | .wipeFailure bay => Sys2Proof.Machine.execWipeFailure bay s
  | .wipeTimeout bay => Sys2Proof.Machine.execWipeTimeout bay s
  | .fillBlockPassed bay => Sys2Proof.Machine.execFillBlockPassed bay s
  | .writeAcknowledged answered => Sys2Proof.Machine.execWriteAcknowledged answered s
  | .ackTimeout bay => Sys2Proof.Machine.execAckTimeout bay s
  | .readBackDone bay data => Sys2Proof.Machine.execReadBackDone bay data s
  | .readBackTimeout bay => Sys2Proof.Machine.execReadBackTimeout bay s
  | .supplyLow millivolts => Sys2Proof.Machine.execSupplyLow millivolts s
  | .supplyNormal millivolts => Sys2Proof.Machine.execSupplyNormal millivolts s
  | .lowDurationTimeout => Sys2Proof.Machine.execLowDurationTimeout s
  | .minuteAdvance => Sys2Proof.Machine.execMinuteAdvance s
  | .batchCutoff => Sys2Proof.Machine.execBatchCutoff s
  | .packTimeout container => Sys2Proof.Machine.execPackTimeout container s
  | .selectionStep => Sys2Proof.Machine.execSelectionStep s
  | .supplySample millivolts => Sys2Proof.Machine.execSupplySample millivolts s
  | .byteReceived byte => Sys2Proof.Machine.execByteReceived byte s

end Sys2Proof.Machine
end

