-- ==== Sys2Proof/Safety.lean ====
section
/-! DEFINITION. The terms the statements use: a request answered, a run of commands, the bounds and counts that every step keeps. -/

namespace Sys2Proof.Machine

/-- `s` when the request at the head of the intake queue has been served: it has left the queue, a reply with this kind, tag and body has
been made ready behind the frames made ready before it (R181, R183), and the check word is that of the records held (R190). -/
def State.replied (s : State) (kind tag : Byte) (body : List Byte) : State :=
  { s.stamped with intake := s.intake.tail, tx := s.tx ++ [⟨kind, tag, body⟩] }

/-- `s` with an event flag set, the attention latch set, and an ATTENTION frame made ready if the latch was clear (R185, R187). -/
def State.flagged (s : State) (f : EventFlag) : State :=
  { s with
    events := s.events.set f
    latch := true
    tx := if s.latch then s.tx else s.tx ++ [⟨0x7F, 0, []⟩] }

/-- `s` with the BAY event flag set and the bay's mark in the bay mask (R185). -/
def State.bayFlagged (s : State) (b : BayId) : State :=
  { s with bayMask := s.bayMask ||| ((1 : BitVec 24) <<< b.val) }.flagged .bay

/-- `s` with the changed mark of a condition flag set, and ATTENTION as for an event flag (R186, R187). -/
def State.noted (s : State) (c : Condition) : State :=
  { s with
    changed := s.changed.set c
    latch := true
    tx := if s.latch then s.tx else s.tx ++ [⟨0x7F, 0, []⟩] }

/-- `s` with a bay's record replaced. -/
def State.withBay (s : State) (b : BayId) (x : Bay) : State := { s with bays := s.bays.set b.val x }

/-- `s` with the registry record of a serial changed; with no serial, `s`. -/
def State.withCart (s : State) (serial : Option Nat) (f : Cartridge → Cartridge) : State :=
  { s with cartridges := s.cartridges.map fun c => if serial = some c.serial then f c else c }

/-- `s` with a patron's record changed. -/
def State.withPatron (s : State) (n : Nat) (f : Patron → Patron) : State :=
  { s with patrons := s.patrons.map fun p => if p.number = n then f p else p }

/-- `s` with a copy's record changed. -/
def State.withCopy (s : State) (id : Nat) (f : Copy → Copy) : State :=
  { s with copies := s.copies.map fun c => if c.id = id then f c else c }

/-- `s` with a shipment's record changed. -/
def State.withShipment (s : State) (n : Nat) (f : Shipment → Shipment) : State :=
  { s with shipments := s.shipments.map fun x => if x.number = n then f x else x }

/-- `s` with the outstanding grant discarded, if it is a bay's (R81). -/
def State.withoutFeed (s : State) (b : BayId) : State :=
  { s with grant := s.grant.map fun g => if g.requester = .bay b then { g with discarded := true } else g }

/-- `s` with a job ASSIGNED to a bay (R78). -/
def State.assigned (s : State) (n : Nat) (b : BayId) : State :=
  { s with jobs := s.jobs.map fun j => if j.number = n then { j with state := .assigned, bay := some b } else j }

/-- `s` with a job requeued: QUEUED, in no bay, its requeued flag set (R63). -/
def State.requeued (s : State) (n : Nat) : State :=
  { s with jobs := s.jobs.map fun j =>
      if j.number = n then { j with state := .queued, bay := none, requeued := true } else j }

/-- `x` with no operation under way: nothing in its feed buffer, no write, read or wipe awaited, nothing to rewrite, no directory (R69, R90). The retry count is
0 (DEDUCED, log 16), and an absent wipe timer is 0 (DEDUCED, log 41). -/
def Bay.quiet (x : Bay) : Bay :=
  { x with
    buffer := []
    retry := 0
    phase := none
    readBack := none
    rewriteMark := none
    directory := none
    ackTimer := none
    identTimer := none
    wipeTimer := 0 }

/-- The state that commands lead to, run one after another; none if one of them does not answer a next state. -/
def after : List Instr → State → Option State
  | [], s => some s
  | c :: cs, s =>
    match exec c s with
    | .next t => after cs t
    | .fault _ => none
    | .refused _ => none

/-- A descriptor that R10 takes: its count is above 0, and it ends at or before the end of the master store (1.2.2). -/
def Extent.good (x : Extent) : Prop := 0 < x.count ∧ x.first + x.count ≤ 4194304

/-- The 8 bytes of a descriptor in an index block (1.2.2): its first master block, its count, and the byte that holds END in bit 0. -/
def descriptorBytes (x : Extent) (last : Byte) : List Byte := leBytes 4 x.first ++ leBytes 3 x.count ++ [last]

/-- Of two jobs with the same target, the second comes first in the job queue (R61): requeued before not, then the earlier shipment, then the
lower cartridge index. `place` is a shipment's place in the order of creation. -/
def tieLater (place : Job → Nat) (a b : Job) : Prop :=
  (a.requeued = false ∧ b.requeued = true) ∨
    (a.requeued = b.requeued ∧ (place b < place a ∨ (place a = place b ∧ b.index < a.index)))

/-- The clock holds a day and a minute in range, and reads day 0, minute 0 while it is unset (R150). -/
def Clock.legal (c : Clock) : Prop := c.day ≤ maxDay ∧ c.minute ≤ 1439 ∧ (c.set = false → c.day = 0 ∧ c.minute = 0)

/-- The link's own bounds: at most 4 frames in the intake queue (R183), a link error count of at most 255 (R182), and the attention latch
set while the summary has something unread (R187). -/
def State.linkLegal (s : State) : Prop :=
  s.intake.length ≤ intakeCapacity ∧ s.linkErrors ≤ 255 ∧ (unread s = true → s.latch = true)

/-- The settings' bounds: at most 4 cut-offs, strictly rising, each a minute of the day (R152); loan periods of 7 to 120 days (R161); a
supply level of at most 7 (R97). -/
def State.settingsLegal (s : State) : Prop :=
  s.cutoffs.length ≤ 4 ∧ s.cutoffs.Pairwise (· < ·) ∧ (∀ m ∈ s.cutoffs, m < 1440)
    ∧ 7 ≤ s.cartridgePeriod ∧ s.cartridgePeriod ≤ 120 ∧ 7 ≤ s.copyPeriod ∧ s.copyPeriod ≤ 120 ∧ s.supplyLevel ≤ 7

/-- What every step keeps: the clock, the link, the settings, the window number and the supply's sample count in their bounds. -/
structure State.Legal (s : State) : Prop where
  clock    : s.clock.legal
  link     : s.linkLegal
  settings : s.settingsLegal
  window   : s.nextWindow < 16
  samples  : s.supplyCount ≤ 2
  lowTimer : s.lowTimer ≤ lowTime

/-- The counts of a title entry agree with its fill map: the blocks marked occupied are listed once each in ascending order, all of them
surveyed; there are as many as the occupied count says, one occupancy count for each volume, and the volumes' counts together are the
occupied count (R1, R2, R12). -/
def TitleEntry.countsAgree (e : TitleEntry) : Prop :=
  e.occupied.length = e.occCount ∧ e.volOcc.length = e.breaks.length + 1 ∧ e.volOcc.sum = e.occCount
    ∧ e.occupied.Pairwise (· < ·) ∧ ∀ i ∈ e.occupied, i < e.progress

/-- The counts of every title entry agree. -/
def State.titlesAgree (s : State) : Prop := ∀ e ∈ s.titles, e.countsAgree

/-- No table holds more than the spec gives it room for: titles (R1), patrons (R25), shipments (R45), cartridges (R102), copies (R118),
hold entries (R122), containers (R133), batches (R153), jobs (R60), loans (R160), the items of one list and of all lists together
(R33). -/
structure State.WithinCapacity (s : State) : Prop where
  titles     : s.titles.length ≤ titleCapacity
  patrons    : s.patrons.length ≤ patronCapacity
  shipments  : s.shipments.length ≤ shipmentCapacity
  cartridges : s.cartridges.length ≤ cartridgeCapacity
  copies     : s.copies.length ≤ copyCapacity
  holds      : s.holds.length ≤ holdPool
  containers : s.containers.length ≤ containerCapacity
  batches    : s.batches.length ≤ batchCapacity
  jobs       : s.jobs.length ≤ jobCapacity
  loans      : s.loans.length ≤ loanCapacity
  lists      : ∀ p ∈ s.patrons, p.list.length ≤ listCapacity
  items      : itemsUsed s ≤ itemPool

/-- The queues of title keys and of patron numbers are in order: no two entries have one key, no two patrons one number; the eligibility
queue holds patrons, none of them twice (R34); the survey queue holds the keys of the SURVEYING entries, each once, and at most 16
(R9). -/
structure Orderly (titles : List TitleEntry) (patrons : List Patron) (eligibility : List Nat) (surveyQueue : List TitleKey) : Prop where
  keys     : (titles.map (·.key)).Nodup
  numbers  : (patrons.map (·.number)).Nodup
  once     : eligibility.Nodup
  eligible : ∀ n ∈ eligibility, n ∈ patrons.map (·.number)
  surveys  : surveyQueue.Perm ((titles.filter (·.state == .surveying)).map (·.key))
  room     : surveyQueue.length ≤ surveyCapacity

/-- The queues of a state are in order. -/
def State.Orderly (s : State) : Prop := Machine.Orderly s.titles s.patrons s.eligibility s.surveyQueue

/-- No two batches have one number, and at most one is OPEN (R153). -/
structure BatchesOrderly (batches : List Batch) : Prop where
  numbers : (batches.map (·.number)).Nodup
  oneOpen : (batches.filter (·.state == .open)).length ≤ 1

/-- The batch table of a state is in order. -/
def State.BatchesOrderly (s : State) : Prop := Machine.BatchesOrderly s.batches

/-- The units used of a container are those of its items, and no more than its kind holds (R134). -/
def Container.fits (c : Container) : Prop := c.units = (c.items.map itemUnits).sum ∧ c.units ≤ capacityOf c.kind

/-- Every container fits. -/
def State.ContainersFit (s : State) : Prop := ∀ c ∈ s.containers, c.fits

/-- The check word held is that of the records held (R190). -/
def State.checked (s : State) : Prop := s.checkWord = Config.checkWord s.records

/-! ## Resets -/

/-- What either reset leaves of LI, MPA, SU, RSM and RI, whatever the state before it (R189, R187, R19, R39, R97, R178). -/
structure State.UnitsReset (cause : ResetCause) (t : State) : Prop where
  link      : t.rx = .hunting ∧ t.intake = [] ∧ t.tx = [⟨0x7F, 0, []⟩] ∧ t.resetStage = .none ∧ t.linkErrors = 0
  /-- RESET is set, and every other event flag is clear, but for SHIPMENT READY (R149): `KeptThroughReset` says when it is set. -/
  summary   : t.events = ⟨false, false, false, t.events.shipmentReady, false, false, false, false, false, true⟩ ∧ t.resetCause = cause ∧ t.changed = ⟨true, true, true, true⟩ ∧ t.bayMask = 0 ∧ t.latch = true
  port      : t.rotation = 23 ∧ t.nextWindow = 0 ∧ t.grant = none
  selection : t.selection = .held
  supply    : t.supply = .normal ∧ t.supplyCount = 0 ∧ t.lowTimer = 0 ∧ t.abandoned = false
  counters  : t.counters = ⟨0, 0, 0, 0, 0, 0, 0, 0, 0⟩
  power     : t.power = true
  checked   : t.checked

/-- The job table and the registry after a reset: an ASSIGNED job is QUEUED and requeued (R68), an IN BAY record has its entry state (R116). -/
def State.converted (s : State) : State :=
  { s with
    jobs := s.jobs.map fun j => if j.state = .assigned then { j with state := .queued, bay := none, requeued := true } else j
    cartridges := s.cartridges.map fun c =>
      if c.state = .inBay then { c with state := c.entry.getD .fouled, bay := none, entry := none } else c }

/-- The shipments that this has made READY (R64), and then every OPEN container dissolved, in table order (R149). -/
def State.unpacked (s : State) : State :=
  (s.containers.filter fun c => c.state = .open).foldl (fun t c => dissolve c t)
    ((s.shipments.map (·.number)).foldl (fun t n => readyCheck n t) s.converted)

/-- What a reset makes of the tables that record memory retains, `s` before it and `t` after it: what is kept, what each block's reset
action changes, and the queues and lists built again from them. -/
structure KeptThroughReset (s t : State) : Prop where
  /-- Kept as they are: patrons with their lists, loans, holds, batches, the settings (R190). -/
  tables      : t.patrons = s.patrons ∧ t.loans = s.loans ∧ t.holds = s.holds ∧ t.batches = s.batches
  settings    : t.cutoffs = s.cutoffs ∧ t.cartridgePeriod = s.cartridgePeriod ∧ t.copyPeriod = s.copyPeriod
    ∧ t.supplyLevel = s.supplyLevel
  numbers     : t.entrySeq = s.entrySeq ∧ t.shipmentCounter = s.shipmentCounter ∧ t.jobCounter = s.jobCounter
    ∧ t.containerCounter = s.containerCounter ∧ t.sealCounter = s.sealCounter ∧ t.batchCounter = s.batchCounter
  /-- A SURVEYING entry is set back to a new one, and every other entry is kept (R18). -/
  titles      : t.titles = s.titles.map fun e =>
    if e.state = .surveying then
      { e with
        extents := []
        occupied := []
        occCount := 0
        volOcc := List.replicate (e.breaks.length + 1) 0
        excess := false
        progress := 0 }
    else e
  /-- The survey queue holds the SURVEYING entries in ascending entry sequence number (R18). -/
  surveys     : ∃ es : List TitleEntry, es.Perm (s.titles.filter fun e => e.state = .surveying)
    ∧ es.Pairwise (fun a b => a.seq ≤ b.seq) ∧ t.surveyQueue = es.map (·.key)
  /-- The eligibility queue is built again, in the order of the patron table (R35). -/
  eligibility : t.eligibility = (s.patrons.filter fun p =>
    p.state = .active ∧ p.mode = .auto ∧ p.shipment = none ∧ ∃ i ∈ p.list, i.state = .reserved
      ∨ (i.state = .waiting ∧ if i.medium = .embossed then p.commCopies < p.embAllow else p.commCarts < p.cartAllow)).map (·.number)
  /-- Every job is kept; an ASSIGNED one is QUEUED with its requeued flag set (R68). -/
  jobs        : t.jobs = s.converted.jobs
  /-- The registry is converted, shipments become READY, and every OPEN container is dissolved (R116, R64, R149). -/
  registry    : t.cartridges = s.unpacked.cartridges
  copies      : t.copies = s.unpacked.copies
  shipments   : t.shipments = s.unpacked.shipments
  containers  : t.containers = s.unpacked.containers
  /-- The event flags are cleared first (R189); SHIPMENT READY is then set by the shipments that this makes READY (R64, R146, R149). -/
  events      : t.events =
    (State.unpacked { s with events := ⟨false, false, false, false, false, false, false, false, false, true⟩ }).events
  noneOpen    : ∀ c ∈ t.containers, c.state ≠ .open
  /-- The pick list is built again from the ALLOCATED copies, by the shipment each is ALLOCATED to and by copy line (R128). -/
  pickList    : t.pickList = t.shipments.flatMap fun sh => sh.copyLines.filter fun id =>
    (findCopy t id).map (fun c => (c.state, c.shipment)) = some (.allocated, some sh.number)
  /-- The recall slots are kept, but for their match counts (R172). -/
  slots       : ∀ i : Fin 16, t.slots[i] = { s.slots[i] with hits := 0 }

end Sys2Proof.Machine
end

