-- ==== Sys2Proof/Certificates/Slice0/Obligations.lean ====
section
/-! DEFINITION. The statements for the provers: what the rules R1 to R193 of spec/ say the commands do, over the model's own state. A
request's operands are its tag and a body built field by field with `bodyOf` (width in bytes, value); `State.replied` says that it
has left the intake queue and what its reply is. Both it and `State.stamped`, after an event that the part senses, give the check word
of the records held (R190). -/

open Sys2Proof Sys2Proof.Machine

/-! ## The machine -/

/-- A step of a block takes the command at the front of the queue and runs it with the queue's rest. -/
def Obligations.StepRunsTheFrontCommand : Prop :=
  ∀ (s : State) (c : Instr) (rest : List Instr), s.pending = c :: rest → step s = exec c { s with pending := rest }

/-- MODEL'S CHOICE (log 3): a step with no command waiting is one millisecond of the running timers (R69, R97, R182), each up to its limit,
and changes nothing else; without main power it changes nothing. -/
def Obligations.IdleStepRunsTimers : Prop :=
  ∀ s : State, s.pending = [] →
    (s.power = false → step s = .next s) ∧
    (s.power = true → ∃ t, step s = .next t ∧
      { t with bays := s.bays, lowTimer := s.lowTimer, rx := s.rx } = s ∧
      t.lowTimer = (if s.supply = .low then min 300000 (s.lowTimer + 1) else s.lowTimer) ∧
      (s.rx = .hunting → t.rx = .hunting) ∧
      (∀ bytes gap, s.rx = .inFrame bytes gap → t.rx = .inFrame bytes (min 10 (gap + 1))) ∧
      ∀ b, getBay t b =
        { getBay s b with
          ackTimer := (getBay s b).ackTimer.map fun n => min 250 (n + 1)
          identTimer := (getBay s b).identTimer.map fun n => min 2000 (n + 1)
          wipeTimer :=
            if (getBay s b).state = .wiping then
              min (if (occupantOf s b).map (·.kind) = some .l then 420000 else 240000) ((getBay s b).wipeTimer + 1)
            else (getBay s b).wipeTimer })

/-- Every command answers a next state (no command of this part faults or is refused), and leaves the queue of waiting commands as it is. -/
def Obligations.EveryCommandCompletesAndKeepsTheQueue : Prop :=
  ∀ (c : Instr) (s : State), ∃ t, exec c s = .next t ∧ t.pending = s.pending

/-- The reset state meets every invariant that the next statements keep: the bounds of `State.Legal`, the title counts, the capacities, the order of
the queues, the batch table, the containers, the check word. -/
def Obligations.ResetIsLegal : Prop :=
  State.reset.Legal ∧ State.reset.titlesAgree ∧ State.reset.WithinCapacity ∧ State.reset.Orderly ∧ State.reset.BatchesOrderly ∧
    State.reset.ContainersFit ∧ State.reset.checked

/-- Every step keeps the bounds of `State.Legal`: clock (R150), intake queue (R183), link error count (R182), attention latch (R187), cut-off
list (R152), loan periods (R161), supply level and sample count (R97), window number (R19). -/
def Obligations.EveryStepKeepsLegal : Prop := ∀ s t : State, s.Legal → step s = .next t → t.Legal

/-- Every step keeps every title entry's counts in agreement with its fill map and its volumes (R1, R2, R12): the fill map lists only surveyed blocks, each
once in ascending order. -/
def Obligations.EveryStepKeepsTitleCounts : Prop := ∀ s t : State, s.titlesAgree → step s = .next t → t.titlesAgree

/-- With its queues in order, every step keeps every table and queue within the room the spec gives it: titles (R1), patrons (R25), reading lists, one by
one and together (R33), shipments (R45), jobs (R60), cartridges (R102), copies (R118), hold entries (R122), containers (R133), batches (R153), loans (R160), the survey queue
(R9) and the eligibility queue (R34). -/
def Obligations.EveryStepKeepsCapacities : Prop :=
  ∀ s t : State, s.Orderly → s.WithinCapacity → step s = .next t →
    t.WithinCapacity ∧ t.surveyQueue.length ≤ 16 ∧ t.eligibility.length ≤ 8192

/-- Every step keeps the survey queue made of the SURVEYING entries, each once (R9, R18), and the eligibility queue of patrons of the table, each at most
once (R34), while no two title entries have one key and no two patrons one number (R1, R25). -/
def Obligations.EveryStepKeepsQueuesOrderly : Prop := ∀ s t : State, s.Orderly → step s = .next t → t.Orderly

/-- Every step keeps at most one batch OPEN, and no two batches of one number (R153). -/
def Obligations.EveryStepKeepsOneOpenBatch : Prop := ∀ s t : State, s.BatchesOrderly → step s = .next t → t.BatchesOrderly

/-- Every step keeps the units used of every container those of its items, and within what its kind holds (R134, R139). -/
def Obligations.EveryStepKeepsContainersFit : Prop := ∀ s t : State, s.ContainersFit → step s = .next t → t.ContainersFit

/-- Every step keeps the check word that of the records held (R190): a loss of main power alone, after whatever step, leaves a check word that agrees.
Nothing is said of the check word's own value, which is free (log 9). -/
def Obligations.EveryStepKeepsTheCheckWord : Prop := ∀ s t : State, s.checked → step s = .next t → t.checked

/-! ## Resets, power and record memory (R189-R191) -/

/-- A power-up (R189, R190, R70, R96). The check word found is the one left in record memory, or another. Where it is that of the records, they are kept, with what each
block's reset action makes of them (`KeptThroughReset`), RECORDS LOST is clear and RESET has cause POWER; where it differs, the state is the reset state but for the bays.
Either way the clock is unset at day 0, minute 0 (R150), and each bay is ABSENT without a module, else EMPTY or, with a cartridge sensed, IDENTIFYING. The commands
waiting and the count of free choices (log 35) are the model's own and are kept.
MODEL'S CHOICE: a bay's positions are part 1, block 0 and its retry count 0 (log 6), and the number of the write last begun, its own, is 0 (log 34). -/
def Obligations.PowerUpChecksTheRecords : Prop :=
  ∀ (s : State) (found : Option Nat) (modules sensed : BitVec 24), ∃ t, exec (.powerUp found modules sensed) s = .next t ∧
    t.UnitsReset .power ∧ t.clock = ⟨0, 0, false⟩ ∧
    (found.getD s.checkWord = recomputed s → t.recordsLost = false ∧ KeptThroughReset s t) ∧
    (found.getD s.checkWord ≠ recomputed s →
      { t with bays := State.reset.bays } = { State.reset with pending := s.pending, choices := s.choices }) ∧
    ∀ b : BayId,
      (modules.getLsbD b.val = false → getBay t b = { Bay.reset with state := .absent }) ∧
      (modules.getLsbD b.val = true → sensed.getLsbD b.val = true →
        getBay t b = { Bay.reset with state := .identifying, present := true, identTimer := some 0 }) ∧
      (modules.getLsbD b.val = true → sensed.getLsbD b.val = false → getBay t b = Bay.reset)

/-- The reset line, and the controller reset that is due, do the same (R189): the link is emptied, RESET is announced with cause CONTROLLER, the units
start again (`State.UnitsReset`), and every table is kept with what its block's reset action makes of it (`KeptThroughReset`). Bays that are not ABSENT are EMPTY or identify the
cartridge they sense (R96). MODEL'S CHOICE: a bay's positions are part 1, block 0 and its retry count 0 (log 6), and the number of the write
last begun, its own, is kept (log 34). The clock is kept. A CONTROLLER_RESET_TAKEN with no reset due changes nothing. -/
def Obligations.ControllerResetActions : Prop :=
  ∀ s : State, s.power = true →
    (s.resetStage ≠ .due → exec .controllerResetTaken s = .next s.stamped) ∧
    ∃ t, exec .resetLine s = .next t ∧ (s.resetStage = .due → exec .controllerResetTaken s = .next t) ∧
      t.UnitsReset .controller ∧ KeptThroughReset s t ∧ t.clock = s.clock ∧ t.recordsLost = s.recordsLost ∧
      ∀ b : BayId,
        let emptied := { Bay.reset with writes := (getBay s b).writes }
        ((getBay s b).state = .absent → getBay t b = getBay s b) ∧
        ((getBay s b).state ≠ .absent → (getBay s b).present = true →
          getBay t b = { emptied with state := .identifying, present := true, identTimer := some 0 }) ∧
        ((getBay s b).state ≠ .absent → (getBay s b).present = false → getBay t b = emptied)

/-- When the part serves nothing. CONTROLLER RESET is answered OK, and from then on no request is served until the reset has taken place (R189): a request
command changes nothing. When main power falls, the change in progress is complete (R190), and without main power no command but POWER_UP and MAIN_POWER_FALL changes
anything: MODEL'S CHOICE in its form (log 8). -/
def Obligations.ServiceStopsForAResetAndWithoutPower : Prop :=
  (∀ (s : State) (tag : Byte), canServe ⟨0x61, tag, []⟩ s = true →
    exec (.controllerReset tag []) s = .next ({ s with resetStage := .replying }.replied 0xE1 tag [0x00])) ∧
  (∀ (c : Instr) (f : Frame) (s : State), c.frame? = some f → s.resetStage ≠ .none → exec c s = .next s) ∧
  (∀ s : State, exec .mainPowerFall s = .next { s with power := false }) ∧
  ∀ (c : Instr) (s : State), s.power = false → (∀ found modules sensed, c ≠ .powerUp found modules sensed) → c ≠ .mainPowerFall →
    exec c s = .next s

/-- RECORDS CLEAR (R191): with every bay EMPTY, ABSENT or OUT OF SERVICE, every retained table and queue is emptied, every setting takes its
default, the number counters and the counters restart and RECORDS LOST is cleared, with its changed mark if it was set; otherwise the reply is BUSY and
nothing changes. A read outstanding at the master port will be dropped when it completes (R17, R191): MODEL'S CHOICE in its form (log 20), its grant is marked
discarded and carries sequence number 0, which no entry has. Everything else is kept; MODEL'S CHOICE (log 42): the
Rack Supply Monitor's count of samples too. -/
def Obligations.RecordsClearEmptiesTheTables : Prop :=
  ∀ (s : State) (tag : Byte), canServe ⟨0x62, tag, []⟩ s = true →
    ((∃ b, (getBay s b).state ≠ .empty ∧ (getBay s b).state ≠ .absent ∧ (getBay s b).state ≠ .outOfService) →
      exec (.recordsClear tag []) s = .next (s.replied 0xE2 tag [0x04])) ∧
    ((∀ b, (getBay s b).state = .empty ∨ (getBay s b).state = .absent ∨ (getBay s b).state = .outOfService) →
      ∃ t u : State, exec (.recordsClear tag []) s = .next (u.replied 0xE2 tag [0x00]) ∧
        u = (if s.recordsLost then { t with recordsLost := false }.noted .recordsLost else t) ∧
        t.titles = [] ∧ t.surveyQueue = [] ∧ t.patrons = [] ∧ t.eligibility = [] ∧ t.shipments = [] ∧ t.jobs = [] ∧ t.cartridges = [] ∧
        t.copies = [] ∧ t.holds = [] ∧ t.pickList = [] ∧ t.containers = [] ∧ t.batches = [] ∧ t.loans = [] ∧ t.cutoffs = [] ∧
        t.cartridgePeriod = 42 ∧ t.copyPeriod = 56 ∧ t.supplyLevel = 2 ∧ t.entrySeq = 1 ∧ t.shipmentCounter = 1 ∧ t.jobCounter = 1 ∧
        t.containerCounter = 1 ∧ t.sealCounter = 1 ∧ t.batchCounter = 1 ∧ t.counters = ⟨0, 0, 0, 0, 0, 0, 0, 0, 0⟩ ∧
        (∀ f ∈ slotList t, f = ⟨false, 0, 0, 0, 0, .count, 0⟩) ∧
        t.grant = (s.grant.map fun g => { g with discarded := true, seq := 0 }) ∧
        { t with
          titles := s.titles
          entrySeq := s.entrySeq
          surveyQueue := s.surveyQueue
          grant := s.grant
          patrons := s.patrons
          eligibility := s.eligibility
          shipments := s.shipments
          shipmentCounter := s.shipmentCounter
          jobs := s.jobs
          jobCounter := s.jobCounter
          supplyLevel := s.supplyLevel
          cartridges := s.cartridges
          copies := s.copies
          holds := s.holds
          pickList := s.pickList
          containers := s.containers
          containerCounter := s.containerCounter
          sealCounter := s.sealCounter
          cutoffs := s.cutoffs
          batches := s.batches
          batchCounter := s.batchCounter
          loans := s.loans
          cartridgePeriod := s.cartridgePeriod
          copyPeriod := s.copyPeriod
          slots := s.slots
          counters := s.counters } = s)

/-! ## The link (R181-R188) -/

/-- The link byte by byte and frame by frame. The receiver (R182): while hunting, C3h starts a frame and any other byte is passed over; within a frame
a byte is taken and the gap starts again from 0, as long as the frame is not whole and its LENGTH, once both its bytes are there, is at most 1,020. A good frame
(R183) joins the tail of the intake queue, or with 4 frames there a FULL reply is made ready at once. The three discards (R182): a gap of more than 10 ms, a LENGTH
above 1,020 (as a row of its own, and by the second LENGTH byte), a CHECK that differs: the receiver hunts, the link error count rises by 1, at most to 255, LINK
ERROR is set, and nothing else changes. When the last byte of a frame has gone (R181), the next ready frame is sent; with the OK reply to CONTROLLER RESET gone, the
reset is due (R189). -/
def Obligations.FramesInAndOut : Prop :=
  (∀ (s : State) (byte : Byte), s.power = true →
     (s.rx = .hunting → byte = 0xC3 → exec (.byteReceived byte) s = .next { s with rx := .inFrame [] 0 }.stamped) ∧
     (s.rx = .hunting → byte ≠ 0xC3 → exec (.byteReceived byte) s = .next s.stamped) ∧
     (∀ bytes gap, s.rx = .inFrame bytes gap →
       bytes = [] ∨ (leNat ((bytes ++ [byte]).take 2) ≤ 1020 ∧ bytes.length + 1 < 6 + leNat ((bytes ++ [byte]).take 2)) →
       exec (.byteReceived byte) s = .next { s with rx := .inFrame (bytes ++ [byte]) 0 }.stamped)) ∧
  (∀ (s : State) (kind tag : Byte) (body : List Byte), s.power = true → body.length ≤ 1020 →
     (s.intake.length < 4 →
       exec (.goodFrame kind tag body (crc16 (leBytes 2 body.length ++ kind :: tag :: body))) s =
         .next (State.stamped { s with rx := .hunting, intake := s.intake ++ [⟨kind, tag, body⟩] })) ∧
     (4 ≤ s.intake.length →
       exec (.goodFrame kind tag body (crc16 (leBytes 2 body.length ++ kind :: tag :: body))) s =
         .next (State.stamped { s with
           rx := .hunting
           tx := s.tx ++ [⟨if kind.toNat < 0x7F then kind + 0x80 else 0xFF, tag, [0x03]⟩] }))) ∧
  (∀ s : State, s.power = true →
     let discarded := ({ s with rx := .hunting, linkErrors := min 255 (s.linkErrors + 1) }.flagged .linkError).stamped
     (∀ bytes gap, s.rx = .inFrame bytes gap → exec .frameGapTimeout s = .next discarded) ∧
     (∀ length : BitVec 16, 1020 < length.toNat → exec (.frameLengthDiscard length) s = .next discarded) ∧
     (∀ (low high : Byte) (gap : Nat), s.rx = .inFrame [low] gap → 1020 < low.toNat + 256 * high.toNat →
       exec (.byteReceived high) s = .next discarded) ∧
     (∀ (kind tag : Byte) (body : List Byte) (check : Check),
       check ≠ crc16 (leBytes 2 body.length ++ kind :: tag :: body) → exec (.goodFrame kind tag body check) s = .next discarded)) ∧
  (∀ (s : State) (f : Frame) (rest : List Frame), s.power = true → s.tx = f :: rest →
     exec .frameSent s = .next (State.stamped { s with
       tx := rest
       resetStage := if s.resetStage = .replying ∧ f.kind = 0xE1 ∧ f.body = [0x00] then .due else s.resetStage }))

/-- A frame sent byte by byte is received (R181-R183): SYNC, LENGTH, KIND, TAG, BODY and a CHECK, sent to a hunting receiver, put the frame at the
tail of the intake queue if the CHECK is the CRC-16 of what went before it and the queue has room, answer it FULL if there is no room, and discard it if the CHECK
differs. -/
def Obligations.FrameIsReceivedFromItsBytes : Prop :=
  ∀ (s : State) (f : Frame) (check : Check), s.power = true → s.rx = .hunting → f.body.length ≤ 1020 →
    after ((0xC3 :: (leBytes 2 f.body.length ++ f.kind :: f.tag :: f.body) ++ leBytes 2 check.toNat).map Instr.byteReceived) s =
      some (State.stamped (if check = crc16 (leBytes 2 f.body.length ++ f.kind :: f.tag :: f.body) then
          if s.intake.length < 4 then { s with intake := s.intake ++ [f] }
          else { s with tx := s.tx ++ [⟨if f.kind.toNat < 0x7F then f.kind + 0x80 else 0xFF, f.tag, [0x03]⟩] }
        else { s with linkErrors := min 255 (s.linkErrors + 1) }.flagged .linkError))

/-- The first two checks of a request (R184): a kind the kind table does not list is answered UNKNOWN KIND, whatever its body (R181 for the reply's kind); a
wrong body length (the kind table's lengths are `bodyLengthOk`) is answered LENGTH; neither changes anything else. -/
def Obligations.KindAndLengthChecks : Prop :=
  (∀ (s : State) (kind tag : Byte) (body : List Byte), kind ∉ requestKinds → canServe ⟨kind, tag, body⟩ s = true →
     exec (.unknownKind kind tag body) s =
       .next (s.replied (if kind.toNat < 0x7F then kind + 0x80 else 0xFF) tag [0x08])) ∧
  (∀ (c : Instr) (f : Frame) (s : State), c.frame? = some f → headCommand f = c → f.kind ∈ requestKinds → canServe f s = true →
     bodyLengthOk f = false → exec c s = .next (s.replied (f.kind + 0x80) f.tag [0x07]))

/-- SUMMARY READ (R188, with the layout of 10.5): it reports the event flags, the reset cause, the condition flags as they stand, the changed
marks, the bay mask and the link error count, and clears all of them but the conditions themselves, with the attention latch. -/
def Obligations.SummaryReadReportsAndClears : Prop :=
  ∀ (s : State) (tag : Byte), canServe ⟨0x60, tag, []⟩ s = true →
    exec (.summaryRead tag []) s = .next (
      { s with
        events := ⟨false, false, false, false, false, false, false, false, false, false⟩
        resetCause := .none
        changed := ⟨false, false, false, false⟩
        bayMask := 0
        linkErrors := 0
        latch := false }.replied 0xE0 tag
      (0x00 :: leBytes 2 (eventBits s.events)
        ++ leBytes 1 (match s.resetCause with
          | .none => 0
          | .power => 1
          | .controller => 2)
        ++ leBytes 1 (conditionBits ⟨s.supply == Supply.low, !s.clock.set, s.recordsLost, s.selection == Selection.held⟩)
        ++ leBytes 1 (conditionBits s.changed) ++ leBytes 3 s.bayMask.toNat ++ leBytes 1 s.linkErrors))

/-! ## Titles and the survey (R1-R18) -/

/-- TITLE ENTER (R3, R4): a field out of range is answered RANGE, a key already in the table DUPLICATE, a full table or survey queue
FULL, each with nothing changed; otherwise the entry is created, joins the survey queue, and the READY entry of its title and medium is retired. -/
def Obligations.TitleEnterChecksAndCreates : Prop :=
  ∀ (s : State) (tag : Byte) (title medium edition size index : Nat) (breaks : List Nat),
    title < 16777216 → medium < 256 → edition < 256 → size < 65536 → index < 16777216 → breaks.length < 256 → (∀ b ∈ breaks, b < 65536) →
    let body := bodyOf ([(3, title), (1, medium), (1, edition), (2, size), (3, index), (1, breaks.length)] ++ breaks.map fun b => (2, b))
    let inRange := 1 ≤ title ∧ title ≤ 999999 ∧ (medium = 1 ∨ medium = 2) ∧ 1 ≤ edition ∧ 1 ≤ size ∧ size ≤ 65520 ∧ breaks.length ≤ 15
      ∧ (∀ b ∈ breaks, 1 ≤ b ∧ b < size) ∧ breaks.Pairwise (· < ·) ∧ (∀ v ∈ volumes size breaks, v.2 ≤ 32752) ∧ index ≤ 4194303
    canServe ⟨0x10, tag, body⟩ s = true →
    (¬inRange → exec (.titleEnter tag body) s = .next (s.replied 0x90 tag [0x05])) ∧
    (inRange → ∀ m : Medium, mediumCode m = medium →
      let k : TitleKey := ⟨title, m, edition⟩
      ((∃ e ∈ s.titles, e.key = k) → exec (.titleEnter tag body) s = .next (s.replied 0x90 tag [0x06])) ∧
      ((∀ e ∈ s.titles, e.key ≠ k) → 4096 ≤ s.titles.length ∨ 16 ≤ s.surveyQueue.length →
        exec (.titleEnter tag body) s = .next (s.replied 0x90 tag [0x03])) ∧
      ((∀ e ∈ s.titles, e.key ≠ k) → s.titles.length < 4096 → s.surveyQueue.length < 16 →
        exec (.titleEnter tag body) s = .next (
          { s with
            titles := (s.titles.filterMap fun e : TitleEntry =>
                if e.key.title = title ∧ e.key.medium = m ∧ e.state = TitleState.ready then
                  if e.refs = 0 then none else some { e with state := .retiring }
                else some e) ++
              [(⟨k, size, breaks, index, .surveying, [], [], 0, List.replicate (breaks.length + 1) 0, false, none, 0, 0, s.entrySeq⟩ : TitleEntry)]
            entrySeq := if s.entrySeq < 4294967295 then s.entrySeq + 1 else 1
            surveyQueue := s.surveyQueue ++ [k] }.replied 0x90 tag (0x00 :: leBytes 4 s.entrySeq))))

/-- TITLE REMOVE (R7, R17): each outcome by the state of the entry named. A medium code that the list does not name is answered RANGE (MODEL'S
CHOICE, log 17). -/
def Obligations.TitleRemoveOutcomes : Prop :=
  ∀ (s : State) (tag : Byte) (title medium edition : Nat), title < 16777216 → medium < 256 → edition < 256 →
    let body := bodyOf [(3, title), (1, medium), (1, edition)]
    let reply := fun (t : State) (status : Byte) => exec (.titleRemove tag body) s = .next (t.replied 0x91 tag [status])
    canServe ⟨0x11, tag, body⟩ s = true →
    (medium = 0 ∨ 3 < medium → reply s 0x05) ∧
    ∀ m : Medium, mediumCode m = medium →
      let k : TitleKey := ⟨title, m, edition⟩
      let gone := { s with titles := s.titles.filter fun x => x.key ≠ k }
      (findTitle s k = none → reply s 0x02) ∧
      ∀ e, findTitle s k = some e →
        (e.state = .surveying →
          reply { gone with
            surveyQueue := s.surveyQueue.filter (· ≠ k)
            grant := s.grant.map fun g => if g.requester = .survey ∧ g.key = k then { g with discarded := true } else g } 0x00) ∧
        (e.state = .retiring → reply s 0x01) ∧
        (e.state = .ready ∨ e.state = .suspect ∨ e.state = .faulted → e.refs = 0 → reply gone 0x00) ∧
        (e.state = .ready ∨ e.state = .suspect → 0 < e.refs →
          reply { s with titles := s.titles.map fun x => if x.key = k then { x with state := .retiring } else x } 0x01)

/-- The survey's index block read (R10, R15, R17): the descriptors are walked in stored order. A good one joins the extent list; the one with END
ends the walk and the survey goes on; a bad one makes the entry FAULTED with BAD EXTENT, the 64th without END with NO END, a media error
with MEDIA. A discarded read changes nothing but the grant. -/
def Obligations.IndexBlockWalk : Prop :=
  ∀ (s : State) (g : Grant) (e : TitleEntry), s.power = true → s.grant = some g → g.requester = .survey → g.block = none →
    let t : State := { s with grant := none }
    (g.discarded = true → ∀ r, exec (.indexBlockRead r) s = .next t.stamped) ∧
    (g.discarded = false → s.surveyQueue.head? = some g.key → findTitle s g.key = some e → e.seq = g.seq →
      let put := fun (f : TitleEntry → TitleEntry) => { t with titles := t.titles.map fun x : TitleEntry => if x.key = g.key then f x else x }
      let faulted := fun (why : TitleFault) (f : TitleEntry → TitleEntry) =>
        State.flagged { put fun x => { f x with state := .faulted, fault := some why } with
          surveyQueue := s.surveyQueue.filter (· ≠ g.key) } .survey
      exec (.indexBlockRead .mediaError) s = .next (faulted .media id).stamped ∧
      ∀ (xs : List (Extent × Byte)) (tail : List Byte), (∀ d ∈ xs, d.1.good ∧ d.2.toNat % 2 = 0) →
        let got := xs.map (·.1)
        let front := xs.flatMap fun d => descriptorBytes d.1 d.2
        (∀ (x : Extent) (last : Byte), xs.length < 64 → x.good → last.toNat % 2 = 1 → 0 < e.size → e.progress = 0 →
          exec (.indexBlockRead (.data (front ++ descriptorBytes x last ++ tail))) s =
            .next (put fun y => { y with extents := got ++ [x] }).stamped) ∧
        (∀ (x : Extent) (last : Byte), xs.length < 64 → x.first < 4294967296 → x.count < 16777216 → ¬x.good →
          exec (.indexBlockRead (.data (front ++ descriptorBytes x last ++ tail))) s =
            .next (faulted .badExtent fun y => { y with extents := got }).stamped) ∧
        (xs.length = 64 → exec (.indexBlockRead (.data (front ++ tail))) s = .next (faulted .noEnd fun y => { y with extents := got }).stamped))

/-- The survey's title block reads (R12, R13, R14, R16): the fill test counts the block; then the survey goes on, or the entry becomes FAULTED with
SHORT MASTER, or READY with the excess flag, other READY entries of its title and medium retired and the items awaiting it woken. A
media error makes the entry FAULTED with MEDIA, the block not counted. -/
def Obligations.TitleBlockSurvey : Prop :=
  ∀ (s : State) (g : Grant) (e : TitleEntry), s.power = true → s.grant = some g → g.requester = .survey → g.block ≠ none →
    let t : State := { s with grant := none }
    (g.discarded = true → ∀ r, exec (.titleBlockRead r) s = .next t.stamped) ∧
    (g.discarded = false → s.surveyQueue.head? = some g.key → findTitle s g.key = some e → e.seq = g.seq →
      let put := fun (f : TitleEntry → TitleEntry) => { t with titles := t.titles.map fun x : TitleEntry => if x.key = g.key then f x else x }
      let ended := fun (u : State) => State.flagged { u with surveyQueue := s.surveyQueue.filter (· ≠ g.key) } .survey
      exec (.titleBlockRead .mediaError) s = .next (ended (put fun x => { x with state := .faulted, fault := some .media })).stamped ∧
      ∀ data : List Byte,
        let counted := fun (x : TitleEntry) =>
          if ∀ b ∈ data, b = 0xFF then { x with progress := x.progress + 1 }
          else
            { x with
              occupied := x.occupied ++ [x.progress]
              occCount := x.occCount + 1
              volOcc := x.volOcc.modify (volumeOf x.breaks x.progress) (· + 1)
              progress := x.progress + 1 }
        (e.progress + 1 < e.size → mapBlock e.extents (e.progress + 1) ≠ none →
          exec (.titleBlockRead (.data data)) s = .next (put counted).stamped) ∧
        (e.progress + 1 < e.size → mapBlock e.extents (e.progress + 1) = none →
          exec (.titleBlockRead (.data data)) s =
            .next (ended (put fun x => { counted x with state := .faulted, fault := some .shortMaster })).stamped) ∧
        (e.progress + 1 = e.size →
          let ready := ended (put fun x => { counted x with state := .ready, excess := (mapBlock e.extents e.size).isSome })
          let retired := { ready with
            titles := ready.titles.filterMap fun x : TitleEntry =>
              if x.key.title = g.key.title ∧ x.key.medium = g.key.medium ∧ x.key.edition ≠ g.key.edition ∧ x.state = TitleState.ready then
                if x.refs = 0 then none else some { x with state := .retiring }
              else some x }
          exec (.titleBlockRead (.data data)) s =
            .next (State.stamped (((s.patrons.filter fun p : Patron =>
                  p.list.any fun i : ListItem => i.title = g.key.title ∧ i.medium = g.key.medium ∧ i.state = ItemState.awaitingMaster).map
                (·.number)).foldl (fun u n => appendEligible n u)
              { retired with
                patrons := s.patrons.map fun p : Patron => { p with
                  list := p.list.map fun i : ListItem =>
                    if i.title = g.key.title ∧ i.medium = g.key.medium ∧ i.state = ItemState.awaitingMaster then { i with state := .waiting }
                    else i } }))))

/-! ## The master port (R19-R24, R80, R81) -/

/-- A window (R20, R21, R22): in the last two of each sixteen the pending survey comes first; otherwise the window goes to the first requesting bay
after the rotation pointer, then to the pending survey, then stays idle. A bay's grant moves the pointer, takes a place in its feed buffer and, in
WRITING, moves its fetch position on. What a bay asks for, and when (R22, R80, R85): the next occupied block from its fetch position, or the data block marked for
rewrite. `mapBlock` is the mapping of R11. MODEL'S CHOICE: no window starts while a grant is outstanding (log 19), and a fetch position
past the last occupied block is the part after the last, block 0 (log 6). -/
def Obligations.WindowGoesToItsReader : Prop :=
  ∀ s : State, s.power = true →
    (s.grant ≠ none → exec .windowStart s = .next s.stamped) ∧
    (s.grant = none →
      let moved := { s with nextWindow := (s.nextWindow + 1) % 16 }
      (∀ r, surveyRead s = some r → 14 ≤ s.nextWindow ∨ (∀ b, feedRequest s b = none) →
        exec .windowStart s = .next { moved with grant := some r }.stamped) ∧
      (surveyRead s = none → (∀ b, feedRequest s b = none) → exec .windowStart s = .next moved.stamped) ∧
      ∀ (b : BayId) (k : TitleKey) (i : Nat) (p : Pos) (e : TitleEntry) (master : Nat),
        surveyRead s = none ∨ s.nextWindow < 14 → feedRequest s b = some (k, i, p) →
        (∀ c : BayId, (c - s.rotation - 1).val < (b - s.rotation - 1).val → feedRequest s c = none) →
        findTitle s k = some e → mapBlock e.extents i = some master →
        exec .windowStart s = .next (State.stamped { moved with
          rotation := b
          grant := some ⟨.bay b, k, e.seq, some i, master, false⟩
          bays := s.bays.set b.val { getBay s b with
            buffer := (getBay s b).buffer ++ [⟨p, none⟩]
            fetchPos := if (getBay s b).state = .writing then fetchAfter s (jobParts s b) p else (getBay s b).fetchPos } })) ∧
    (∀ k rest e, s.surveyQueue = k :: rest → findTitle s k = some e →
      surveyRead s = some (if e.extents = [] then ⟨.survey, k, e.seq, none, e.indexBlock, false⟩
        else ⟨.survey, k, e.seq, some e.progress, (mapBlock e.extents e.progress).getD 0, false⟩)) ∧
    (∀ (b : BayId) (p : Pos) (q : Part), s.supply = .normal → partAt (jobParts s b) p = some q →
      ((getBay s b).state = .writing → (getBay s b).buffer.length < 2 → nextOccupied s (jobParts s b) (getBay s b).fetchPos = some p →
        feedRequest s b = some (q.key, q.first + p.block, p)) ∧
      ∀ n, (getBay s b).state = .verifying → (getBay s b).phase = some .data → (getBay s b).buffer = [] → (getBay s b).rewriteMark = some n →
        p.block < q.count → cartBlock (jobParts s b) p = n → feedRequest s b = some (q.key, q.first + p.block, p)) ∧
    (∀ (parts : List Part) (p : Pos), s.titlesAgree → 1 ≤ p.part →
      let occupied := fun r : Pos => ∃ q e, partAt parts r = some q ∧ r.block < q.count ∧ findTitle s q.key = some e ∧ q.first + r.block ∈ e.occupied
      let upTo := fun r r' : Pos => r.part < r'.part ∨ (r.part = r'.part ∧ r.block ≤ r'.block)
      (∀ r, nextOccupied s parts p = some r → occupied r ∧ upTo p r ∧ ∀ r', occupied r' → upTo p r' → upTo r r') ∧
      (nextOccupied s parts p = none → ∀ r, occupied r → ¬upTo p r) ∧
      fetchAfter s parts p = match nextOccupied s parts (nextPos parts p) with
        | some r => r
        | none => ⟨parts.length + 1, 0⟩) ∧
    (∀ (before : List Extent) (x : Extent) (behind : List Extent) (i : Nat), i < x.count →
      mapBlock (before ++ x :: behind) ((before.map (·.count)).sum + i) = some (x.first + i)) ∧
    (∀ (xs : List Extent) (i : Nat), (xs.map (·.count)).sum ≤ i → mapBlock xs i = none) ∧
    (∀ b r, feedRequest s b = some r → s.supply = .normal ∧
      (((getBay s b).state = .writing ∧ (getBay s b).buffer.length < 2 ∧ nextOccupied s (jobParts s b) (getBay s b).fetchPos = some r.2.2) ∨
        ((getBay s b).state = .verifying ∧ (getBay s b).phase = some .data ∧ (getBay s b).buffer = [] ∧ (getBay s b).rewriteMark ≠ none)))

/-- A feed read completes with data (R23, R81, R82, R85): a discarded grant's result is dropped; otherwise the block is held in its place, and is written
at once if it is the block at the write position, or the block marked for rewrite, and no write is under way. The number that each write takes is the model's
own (DESIGN CHOICE, log 34). -/
def Obligations.FeedDataIsHeldOrWritten : Prop :=
  ∀ (s : State) (g : Grant) (b : BayId) (data : List Byte), s.power = true → s.grant = some g → g.requester = .bay b →
    let x := getBay s b
    let held := { x with buffer := x.buffer.map fun f => if f.data = none then { f with data := some data } else f }
    let becomes := fun (y : Bay) => exec (.feedReadData data) s = .next { s with grant := none, bays := s.bays.set b.val y }.stamped
    (g.discarded = true → exec (.feedReadData data) s = .next { s with grant := none }.stamped) ∧
    (g.discarded = false → x.ackTimer ≠ none → becomes held) ∧
    (g.discarded = false → x.ackTimer = none → x.state = .writing → x.writePos.part ≤ (jobParts s b).length → ∀ p q rest,
      x.buffer = ⟨p, q⟩ :: rest →
      (p ≠ x.writePos → becomes held) ∧
      (p = x.writePos → becomes { held with
        checkList := recordWrite (cartBlock (jobParts s b) p) (crc16 (q.getD data)) x.checkList
        ackTimer := some 0
        writes := x.writes + 1 })) ∧
    (g.discarded = false → x.ackTimer = none → x.state = .verifying → x.phase = some .data → ∀ p block, x.buffer = [⟨p, none⟩] →
      x.rewriteMark = some block →
      becomes { held with checkList := recordWrite block (crc16 data) x.checkList, ackTimer := some 0, writes := x.writes + 1 })

/-- A feed read completes with a media error (R24, R48, R66, R92, R93). A READY entry becomes SUSPECT, a RETIRING one stays, SUSPECT is set, and every job that names the
entry is looked at, in the order of the job table (R60: ascending job number): a DONE one is left, any other is deleted, the bay that holds it aborts, and its line
leaves its shipment (`dropLine`, with `deleteJob`, as another statement gives them); no job but a DONE one names the entry afterwards. A bay that aborts in WRITING or VERIFYING wipes its cartridge, or pauses before the wipe while
the supply is LOW; a PAUSED one will wipe it. DEDUCED: its retry count is 0 (log 16), an absent wipe timer is 0 (log 41). Then WAITING items of the title and medium await a master, if no READY entry is left. An entry SUSPECT already, or gone,
changes nothing. -/
def Obligations.MediaErrorCancelsJobs : Prop :=
  (∀ (s : State) (g : Grant) (b : BayId), s.power = true → s.grant = some g → g.requester = .bay b →
    ((∀ e, findTitle s g.key = some e → e.seq = g.seq → e.state ≠ .ready ∧ e.state ≠ .retiring) →
      exec .feedMediaError s = .next { s with grant := none }.stamped) ∧
    ∀ e, findTitle s g.key = some e → e.seq = g.seq → e.state = .ready ∨ e.state = .retiring →
      let named := (s.jobs.filter fun j => ∃ p ∈ j.parts, p.key = g.key).map (·.number)
      let marked := { s with
        grant := none
        titles := if e.state = .ready then s.titles.map fun x => if x.key = g.key then { x with state := .suspect } else x else s.titles }
      let u := named.foldl (fun t n => cancelJob n t) (State.flagged marked .suspect)
      let t : State := { u with
        patrons := if readyEntry u g.key.title g.key.medium = none then
            u.patrons.map fun p => { p with
              list := p.list.map fun i =>
                if i.title = g.key.title ∧ i.medium = g.key.medium ∧ i.state = .waiting then { i with state := .awaitingMaster } else i }
          else u.patrons }
      exec .feedMediaError s = .next t.stamped ∧ t.grant = none ∧ t.events.suspect = true ∧ t.latch = true ∧
      (e.state = .ready → ∀ f ∈ t.titles, f.key = g.key → f.state = .suspect) ∧
      (e.state = .retiring → ∀ f ∈ t.titles, f.key = g.key → ∃ f' ∈ s.titles, f'.key = g.key ∧ f'.state = f.state) ∧
      (∀ n j, findJob t n = some j → j.state = .done ∨ ∀ p ∈ j.parts, p.key ≠ g.key) ∧
      (∀ n, findJob t n = none ∨ findJob t n = findJob s n) ∧
      { t with
        titles := s.titles
        patrons := s.patrons
        eligibility := s.eligibility
        shipments := s.shipments
        jobs := s.jobs
        bays := s.bays
        cartridges := s.cartridges
        containers := s.containers
        sealCounter := s.sealCounter
        batches := s.batches
        grant := s.grant
        events := s.events
        latch := s.latch
        tx := s.tx } = s) ∧
  (∀ (s : State) (n : Nat), findJob s n = none → cancelJob n s = s) ∧
  (∀ (s : State) (j : Job), findJob s j.number = some j →
    (j.state = .done → cancelJob j.number s = s) ∧
    (j.state ≠ .done →
      (j.bay = none → cancelJob j.number s = dropLine j (deleteJob j.number s)) ∧
      ∀ c, j.bay = some c → cancelJob j.number s = dropLine j (abortBay c (deleteJob j.number s)))) ∧
  ∀ (s : State) (c : BayId),
    let x := getBay s c
    let aborted := ((s.withoutFeed c).withCart x.occupant fun r => { r with entry := some .fouled })
    let y := { x.quiet with job := none, checkList := [] }
    (x.state = .writing ∨ x.state = .verifying → abortBay c s = aborted.withBay c { y with
      state := if s.supply = .low then .paused else .wiping
      pausedFrom := if s.supply = .low then some .wiping else none
      wipeTimer := 0 }) ∧
    (x.state = .paused → abortBay c s = aborted.withBay c { y with pausedFrom := some .wiping }) ∧
    ∀ n j, findJob s n = some j → j.state = .assigned → j.bay = some c → x.state = .writing ∨ x.state = .verifying →
      findJob (cancelJob n s) n = none ∧
      getBay (cancelJob n s) c =
        { x with
          state := if s.supply = .low then .paused else .wiping
          pausedFrom := if s.supply = .low then some .wiping else none
          job := none
          checkList := []
          buffer := []
          retry := 0
          phase := none
          readBack := none
          rewriteMark := none
          directory := none
          ackTimer := none
          identTimer := none
          wipeTimer := 0 }

/-- A job line that leaves its shipment without SHIPMENT CANCEL (R47, R143), and the operations that every loss of a line or a job cites. A deleted job lowers the
reference count of each part's entry, and takes a RETIRING entry that falls to 0 with it (R5, R6, R65). The line's loss takes 1 from committed cartridges and from the items to
scan, and the items its job carried return to the list. A shipment with no line left is freed, with the append of R34 (R49). An ASSEMBLING one is looked at for READY (R64). A PACKING one with
nothing left to scan seals its OPEN container as FINAL, or marks its last unreleased container FINAL, or, all released, loses its jobs and is freed; with
something left to scan, its pack deadline follows whether it is ready to pack (R144, R145). DEDUCED (log 23): in the last of these outcomes, all released, SHIPMENT SEALED is set as
in the others, from R46 and R185; R143's own row does not repeat it. DEDUCED (log 38): an item makes its line ready only while its record names the line's shipment (R108, R118). -/
def Obligations.DroppedLinesLeaveTheirShipment : Prop :=
  (∀ (s : State) (j : Job), findJob s j.number = some j → deleteJob j.number s = { s with
    jobs := s.jobs.filter fun k => k.number ≠ j.number
    titles := j.parts.foldl (fun l p => l.filterMap fun e : TitleEntry =>
      if e.key = p.key then if e.state = .retiring ∧ e.refs ≤ 1 then none else some { e with refs := e.refs - 1 } else some e) s.titles }) ∧
  (∀ (s : State) (j : Job) (sh : Shipment), sh.number = j.shipment → findShipment s sh.number = some sh →
    dropLine j s = afterDrop j.shipment ((s.withShipment j.shipment fun x =>
        { x with jobLines := x.jobLines.filter fun l => l.job ≠ j.number, toScan := x.toScan - 1 }).withPatron sh.patron fun p =>
      { p with
        commCarts := p.commCarts - 1
        list := p.list.map fun i =>
          if i.state = .inShipment ∧ ∃ q ∈ j.parts, i.title = q.key.title ∧ i.medium = q.key.medium then
            { i with state := if readyEntry s i.title i.medium = none then .awaitingMaster else .waiting }
          else i })) ∧
  (∀ (s : State) (sh : Shipment), findShipment s sh.number = some sh →
    let freed := fun t : State => appendEligible sh.patron (State.withPatron { t with
      shipments := s.shipments.filter fun x => x.number ≠ sh.number } sh.patron fun p => { p with shipment := none })
    let done := fun t : State => (t.withShipment sh.number fun x => { x with state := .sealed }).flagged .shipmentSealed
    let after := afterDrop sh.number s
    (sh.jobLines = [] → sh.copyLines = [] → after = freed s) ∧
    (sh.jobLines ≠ [] ∨ sh.copyLines ≠ [] →
      (sh.state = .ready ∨ sh.state = .sealed → after = s) ∧
      (sh.state = .assembling → after = readyCheck sh.number s) ∧
      (sh.state = .packing → 0 < sh.toScan → after = refreshDeadline sh.number s) ∧
      (sh.state = .packing → sh.toScan = 0 →
        let opened := s.containers.find? fun c => c.shipment = sh.number ∧ c.state = .open
        (∀ c, opened = some c → after = done (sealContainer c.number true s)) ∧
        (opened = none →
          (∀ e, (sh.containers.filter fun e => e.released = false).getLast? = some e →
            after = done { s with containers := s.containers.map fun c => if c.number = e.number then { c with final := true } else c }) ∧
          ((∀ e ∈ sh.containers, e.released = true) →
            after = freed (done (sh.jobLines.foldl (fun t l => deleteJob l.job t) s))))))) ∧
  (∀ (s : State) (sh : Shipment), findShipment s sh.number = some sh →
    let line := fun (l : JobLine) (ok : Cartridge → Prop) => ∃ j serial c, findJob s l.job = some j ∧ j.state = .done ∧ j.serial = some serial ∧
      findCart s serial = some c ∧ ok c
    let written := ∀ l ∈ sh.jobLines, line l fun c => c.state = .written
    let whole := (∀ l ∈ sh.jobLines, line l fun c => c.shipment = some sh.number ∧ (c.state = .written ∨ c.state = .packed)) ∧
      ∀ id ∈ sh.copyLines, ∃ c, findCopy s id = some c ∧ c.shipment = some sh.number ∧ (c.state = .allocated ∨ c.state = .packed)
    let now := s.clock.day * 1440 + s.clock.minute
    let opened := s.containers.find? fun c => c.shipment = sh.number ∧ c.state = .open
    let deadline := fun (c : Container) (d : Option Nat) => { s with
      containers := s.containers.map fun x => if x.number = c.number then { x with deadline := d } else x }
    (sh.state = .assembling → written →
      readyCheck sh.number s = (s.withShipment sh.number fun x => { x with state := .ready }).flagged .shipmentReady) ∧
    (sh.state ≠ .assembling ∨ ¬written → readyCheck sh.number s = s) ∧
    (readyToPack s sh = true ↔ whole) ∧
    (sh.state ≠ .packing ∨ opened = none → refreshDeadline sh.number s = s) ∧
    ∀ c, sh.state = .packing → opened = some c →
      (whole → refreshDeadline sh.number s = deadline c (some (c.deadline.getD (now + 30)))) ∧
      (¬whole → refreshDeadline sh.number s = deadline c none)) ∧
  ∀ (s : State) (serial : Nat),
    (∀ c n, findCart s serial = some c → c.shipment = some n → c.state = .written →
      cartWritten serial s = refreshDeadline n (readyCheck n s)) ∧
    ((∀ c, findCart s serial = some c → c.shipment = none ∨ c.state ≠ .written) → cartWritten serial s = s)

/-! ## Patrons and reading lists (R25-R38) -/

/-- PATRON ENTER (R26): a number, kind or mode outside its values is answered RANGE and changes nothing; otherwise a record is created in its place by
number, if there is room, or has the fields given replaced, allowances clamped, and the patron is appended under R34. -/
def Obligations.PatronEnterCreatesOrUpdates : Prop :=
  ∀ (s : State) (tag : Byte) (n kind cart emb mode card : Nat), n < 16777216 → kind < 256 → cart < 256 → emb < 256 → mode < 256 → card < 65536 →
    let body := bodyOf [(3, n), (1, kind), (1, cart), (1, emb), (1, mode), (2, card)]
    canServe ⟨0x18, tag, body⟩ s = true →
    (n < 1 ∨ 999999 < n ∨ (kind ≠ 1 ∧ kind ≠ 2) ∨ (mode ≠ 1 ∧ mode ≠ 2) →
      exec (.patronEnter tag body) s = .next (s.replied 0x98 tag [0x05])) ∧
    (1 ≤ n → n ≤ 999999 → ∀ (k : Kind) (m : Mode), kindCode k = kind → modeCode m = mode →
      let cart' := if cart = 0 then 1 else if 6 < cart then 6 else cart
      let emb' := if 3 < emb then 3 else emb
      (findPatron s n = none → 8192 ≤ s.patrons.length → exec (.patronEnter tag body) s = .next (s.replied 0x98 tag [0x03])) ∧
      (findPatron s n = none → s.patrons.length < 8192 → ∃ before behind, s.patrons = before ++ behind ∧
        (∀ p ∈ before, p.number ≤ n) ∧ (∀ p, behind.head? = some p → n < p.number) ∧
        exec (.patronEnter tag body) s = .next ((appendEligible n { s with
          patrons := before ++ ⟨n, k, cart', emb', m, .active, 0, 0, 0, none, card, []⟩ :: behind }).replied 0x98 tag [0x00])) ∧
      (findPatron s n ≠ none →
        exec (.patronEnter tag body) s = .next ((appendEligible n { s with
          patrons := s.patrons.map fun p =>
            if p.number = n then { p with kind := k, cartAllow := cart', embAllow := emb', mode := m, card := card } else p }).replied
          0x98 tag [0x00])))

/-- PATRON SUSPEND (R29, R126): the patron becomes SUSPENDED, its RESERVED items return to WAITING, committed copies falls by their number, and the copies
reserved for it go to SHELF in ascending copy id, each with hold service (`toShelf`). PATRON REMOVE (R31): refused BUSY while the patron has a loan, an open shipment or a reserved
copy; otherwise its record with its list, its hold entries and its place in the eligibility queue go. -/
def Obligations.PatronSuspendAndRemove : Prop :=
  ∀ (s : State) (tag : Byte) (n : Nat), n < 16777216 →
    (canServe ⟨0x1A, tag, bodyOf [(3, n)]⟩ s = true →
      (findPatron s n = none → exec (.patronSuspend tag (bodyOf [(3, n)])) s = .next (s.replied 0x9A tag [0x02])) ∧
      (findPatron s n ≠ none →
        exec (.patronSuspend tag (bodyOf [(3, n)])) s = .next (State.replied
          (((s.copies.filter fun c => c.state = .reserved ∧ c.patron = some n).map (·.id)).foldl (fun t id => toShelf id t)
            { s with patrons := s.patrons.map fun p =>
                if p.number = n then
                  { p with
                    state := .suspended
                    commCopies := p.commCopies - (p.list.filter fun i => i.state = .reserved).length
                    list := p.list.map fun i => if i.state = .reserved then { i with state := .waiting } else i }
                else p })
          0x9A tag [0x00]))) ∧
    (canServe ⟨0x19, tag, bodyOf [(3, n)]⟩ s = true →
      (findPatron s n = none → exec (.patronRemove tag (bodyOf [(3, n)])) s = .next (s.replied 0x99 tag [0x02])) ∧
      ∀ p, findPatron s n = some p →
        ((∃ l ∈ s.loans, l.patron = n) ∨ p.shipment ≠ none ∨ (∃ c ∈ s.copies, c.state = .reserved ∧ c.patron = some n) →
          exec (.patronRemove tag (bodyOf [(3, n)])) s = .next (s.replied 0x99 tag [0x04])) ∧
        ((∀ l ∈ s.loans, l.patron ≠ n) → p.shipment = none → (∀ c ∈ s.copies, ¬(c.state = .reserved ∧ c.patron = some n)) →
          exec (.patronRemove tag (bodyOf [(3, n)])) s = .next ({ s with
            holds := s.holds.filter fun h => h.patron ≠ n
            eligibility := s.eligibility.filter fun m => m ≠ n
            patrons := s.patrons.filter fun q => q.number ≠ n }.replied 0x99 tag [0x00])))

/-- PATRON RESUME (R30): ACTIVE below three overdue loans, OVERDUE HOLD from three on, whatever the state was; the append asks for ACTIVE. SHIP NOW (R36): BUSY unless the
patron is ACTIVE without an open shipment; otherwise it is appended whatever its mode, or keeps its place. The append that every other command cites: at the tail of
the eligibility queue, if the patron is ACTIVE, has no open shipment, is not already there and is in mode AUTO; otherwise nothing. -/
def Obligations.PatronResumeAndShipNow : Prop :=
  (∀ (s : State) (tag : Byte) (n : Nat), n < 16777216 →
    (canServe ⟨0x1B, tag, bodyOf [(3, n)]⟩ s = true →
      (findPatron s n = none → exec (.patronResume tag (bodyOf [(3, n)])) s = .next (s.replied 0x9B tag [0x02])) ∧
      (findPatron s n ≠ none →
        exec (.patronResume tag (bodyOf [(3, n)])) s = .next ((appendEligible n { s with
          patrons := s.patrons.map fun p =>
            if p.number = n then { p with state := if p.overdue < 3 then .active else .overdueHold } else p }).replied 0x9B tag [0x00]))) ∧
    (canServe ⟨0x1D, tag, bodyOf [(3, n)]⟩ s = true →
      (findPatron s n = none → exec (.shipNow tag (bodyOf [(3, n)])) s = .next (s.replied 0x9D tag [0x02])) ∧
      ∀ p, findPatron s n = some p →
        (p.state ≠ .active ∨ p.shipment ≠ none → exec (.shipNow tag (bodyOf [(3, n)])) s = .next (s.replied 0x9D tag [0x04])) ∧
        (p.state = .active → p.shipment = none →
          exec (.shipNow tag (bodyOf [(3, n)])) s =
            .next ({ s with eligibility := if n ∈ s.eligibility then s.eligibility else s.eligibility ++ [n] }.replied 0x9D tag [0x00])))) ∧
  ∀ (s : State) (n : Nat),
    (∀ p, findPatron s n = some p → p.state = .active → p.shipment = none → p.mode = .auto → n ∉ s.eligibility →
      appendEligible n s = { s with eligibility := s.eligibility ++ [n] }) ∧
    ((∀ p, findPatron s n = some p → p.state ≠ .active ∨ p.shipment ≠ none ∨ p.mode ≠ .auto ∨ n ∈ s.eligibility) →
      appendEligible n s = s)

/-- LIST ADD (R37) in the order of its checks, and LIST DROP (R38): an item IN SHIPMENT or RESERVED is BUSY; an item ON HOLD goes with its hold entry;
the items behind a position move down or up. LIST DROP's RANGE for a medium code the list does not name is the MODEL'S CHOICE (log 17). -/
def Obligations.ListAddAndDrop : Prop :=
  ∀ (s : State) (tag : Byte) (n title medium position : Nat), n < 16777216 → title < 16777216 → medium < 256 → position < 256 →
    (let body := bodyOf [(3, n), (3, title), (1, medium), (1, position)]
      let reply := fun (t : State) (data : List Byte) => exec (.listAdd tag body) s = .next (t.replied 0xA0 tag data)
      canServe ⟨0x20, tag, body⟩ s = true →
      (findPatron s n = none → reply s [0x02]) ∧
      ∀ p, findPatron s n = some p →
        (medium = 0 ∨ 3 < medium ∨ title < 1 ∨ 999999 < title → reply s [0x05]) ∧
        ∀ m : Medium, mediumCode m = medium → 1 ≤ title → title ≤ 999999 →
          ((∃ i ∈ p.list, i.title = title ∧ i.medium = m) → reply s [0x06]) ∧
          ((∀ i ∈ p.list, ¬(i.title = title ∧ i.medium = m)) →
            (30 ≤ p.list.length ∨ 65536 ≤ (s.patrons.map (·.list.length)).sum → reply s [0x03]) ∧
            (p.list.length < 30 → (s.patrons.map (·.list.length)).sum < 65536 →
              let place := if position = 0 ∨ p.list.length < position then p.list.length + 1 else position
              reply (appendEligible n { s with patrons := s.patrons.map fun q =>
                  if q.number = n then
                    { q with list := q.list.take (place - 1) ++ ⟨title, m, .waiting, s.clock.day⟩ :: q.list.drop (place - 1) }
                  else q }) (0x00 :: leBytes 1 place)))) ∧
    (let body := bodyOf [(3, n), (3, title), (1, medium)]
      let reply := fun (t : State) (status : Byte) => exec (.listDrop tag body) s = .next (t.replied 0xA1 tag [status])
      canServe ⟨0x21, tag, body⟩ s = true →
      (medium = 0 ∨ 3 < medium → reply s 0x05) ∧
      ∀ m : Medium, mediumCode m = medium →
        (findPatron s n = none → reply s 0x02) ∧
        ∀ p, findPatron s n = some p →
          ((∀ i ∈ p.list, ¬(i.title = title ∧ i.medium = m)) → reply s 0x02) ∧
          ∀ i, p.list.find? (fun j => j.title = title ∧ j.medium = m) = some i →
            let dropped := { s with patrons := s.patrons.map fun q =>
              if q.number = n then { q with list := q.list.filter fun j => ¬(j.title = title ∧ j.medium = m) } else q }
            (i.state = .inShipment ∨ i.state = .reserved → reply s 0x04) ∧
            (i.state = .waiting ∨ i.state = .awaitingMaster → reply dropped 0x00) ∧
            (i.state = .onHold →
              reply { dropped with holds := s.holds.filter fun h => ¬(h.title = title ∧ h.patron = n) } 0x00))

/-! ## Selection, the plan, shipments and jobs (R39-R68) -/

/-- The gate and the first test of a selection step (R39, R40): with the gate shut no step is taken; with it open the patron at the head leaves the
queue, and one that is not ACTIVE, has an open shipment, or has no headroom and no RESERVED item is dropped with no other effect. -/
def Obligations.SelectionGateAndDrop : Prop :=
  ∀ s : State, s.power = true →
    (s.selection = .held ∨ s.clock.set = false ∨ 80 ≤ (s.jobs.filter fun j => j.state = .queued).length ∨ s.eligibility = [] ∨
        1024 ≤ s.shipments.length → exec .selectionStep s = .next s.stamped) ∧
    (s.selection = .released → s.clock.set = true → (s.jobs.filter fun j => j.state = .queued).length < 80 → s.shipments.length < 1024 →
      ∀ n rest, s.eligibility = n :: rest →
        (∀ p, findPatron s n = some p → p.state ≠ .active ∨ p.shipment ≠ none ∨
          (p.cartAllow ≤ p.commCarts ∧ p.embAllow ≤ p.commCopies ∧ ∀ i ∈ p.list, i.state ≠ .reserved)) →
        exec .selectionStep s = .next { s with eligibility := rest }.stamped)

/-- The first two stages of a step, item by item (R41, R42), from what they have gathered so far: the whole list for RESERVED items first, then the list as that
leaves it, from position 1 to the end, for the rest. -/
def Obligations.SelectionWalkTakesEachItem : Prop :=
  (∀ (s : State) (n number : Nat) (p : Patron), findPatron s n = some p →
    let reserved : Walk := p.list.foldl (takeReserved n number) ⟨s, [], []⟩
    ∃ q, findPatron reserved.state n = some q ∧ firstStages n number s = q.list.foldl (walkItem n number) reserved) ∧
  ∀ (s : State) (copies : List Nat) (found : List TitleEntry) (n number : Nat) (i : ListItem) (p : Patron), findPatron s n = some p →
    let w : Walk := ⟨s, copies, found⟩
    let give := fun (u : State) (id : Nat) => { u with
      copies := u.copies.map fun c => if c.id = id then { c with state := .allocated, patron := some n, shipment := some number } else c
      pickList := u.pickList ++ [id] }
    let item := fun (u : State) (st : ItemState) (more : Nat) => { u with
      patrons := u.patrons.map fun q =>
        if q.number = n then
          { q with
            commCopies := q.commCopies + more
            list := q.list.map fun j => if j.title = i.title ∧ j.medium = i.medium then { j with state := st } else j }
        else q }
    (∀ c, i.state = .reserved → s.copies.find? (fun c => c.state = .reserved ∧ c.patron = some n ∧ c.title = i.title) = some c →
      takeReserved n number w i = ⟨item (give s c.id) .inShipment 0, copies ++ [c.id], found⟩) ∧
    (i.state ≠ .reserved → takeReserved n number w i = w) ∧
    (i.medium ≠ .embossed → i.state = .waiting →
      (∀ e, readyEntry s i.title i.medium = some e → walkItem n number w i = ⟨s, copies, found ++ [e]⟩) ∧
      (readyEntry s i.title i.medium = none → walkItem n number w i = ⟨item s .awaitingMaster 0, copies, found⟩)) ∧
    (i.medium = .embossed → i.state = .waiting ∨ i.state = .onHold → p.commCopies < p.embAllow →
      (∀ c, s.copies.find? (fun c => c.title = i.title ∧ c.state = .shelf) = some c →
        walkItem n number w i =
          ⟨item { give s c.id with holds := s.holds.filter fun h => ¬(h.title = i.title ∧ h.patron = n) } .inShipment 1, copies ++ [c.id], found⟩) ∧
      ((∀ c ∈ s.copies, ¬(c.title = i.title ∧ c.state = .shelf)) →
        (i.state = .waiting → s.holds.length < 4096 →
          walkItem n number w i = ⟨item { s with holds := s.holds ++ [⟨i.title, n, s.clock.day⟩] } .onHold 0, copies, found⟩) ∧
        (i.state = .onHold ∨ 4096 ≤ s.holds.length → walkItem n number w i = w))) ∧
    (i.medium = .embossed → p.embAllow ≤ p.commCopies → walkItem n number w i = w) ∧
    (i.state = .awaitingMaster ∨ i.state = .reserved ∨ i.state = .inShipment → walkItem n number w i = w)

/-- The end of a step for a patron that is not dropped at once (R43, R44, R45, R59): with nothing gathered and nothing planned no shipment is created;
otherwise one is created at the end of the table under a free number, with a job of the patron's kind for each cartridge of the plan, each in the order of the
plan, and the patron's counts and placed items follow. Its target is that of the largest estimate of its cartridges (R57, R58), and its items to scan are its cartridges and the
volumes of its copies (R45). The reference count of a title entry rises by the parts of the plan that name it (R5); a shipment of
copies alone is READY, and SHIPMENT READY is set. Nothing else of what the first two stages leave is changed (every other patron, copies, holds, pick list, the jobs held before), but by
the offer of the new jobs to the LOADED bays, in cartridge index order (R59, R62). -/
def Obligations.SelectionStepCommits : Prop :=
  (∀ (s : State) (c : Copy) (ids : List Nat), volumesOf s [] = 0 ∧ (findCopy s c.id = some c → volumesOf s (c.id :: ids) = c.volumes + volumesOf s ids)) ∧
  (∀ plan : Plan, (plan.carts = [] → shipmentEstimate plan = 0) ∧ (plan.carts ≠ [] → shipmentEstimate plan ∈ plan.carts.map estimate) ∧
    ∀ parts ∈ plan.carts, estimate parts ≤ shipmentEstimate plan) ∧
  ∀ (s : State) (n : Nat) (rest : List Nat) (p : Patron), s.power = true → s.selection = .released → s.clock.set = true →
    (s.jobs.filter fun j => j.state = .queued).length < 80 → s.shipments.length < 1024 → s.eligibility = n :: rest →
    findPatron s n = some p → p.state = .active → p.shipment = none →
    p.commCarts < p.cartAllow ∨ p.commCopies < p.embAllow ∨ (∃ i ∈ p.list, i.state = .reserved) →
    let u := { s with eligibility := rest }
    let number := newShipmentNumber u
    let w := firstStages n number u
    ∃ q, findPatron w.state n = some q ∧ q.kind = p.kind ∧
      let cap := min (q.cartAllow - q.commCarts) (min (96 - s.jobs.length) (spareCount w.state p.kind))
      let plan := makePlan p.kind cap w.candidates
      let target := targetCutoff w.state (shipmentEstimate plan)
      (plan.carts = [] → w.copies = [] → exec .selectionStep s = .next w.state.stamped) ∧
      (plan.carts ≠ [] ∨ w.copies ≠ [] → ∃ (t : State) (numbers : List Nat) (jobs : List Job) (counter : Nat), exec .selectionStep s = .next t ∧
        let shipments := s.shipments ++ [⟨number, n, if plan.carts = [] then .ready else .assembling,
          (numbers.zipIdx 1).map fun x => ⟨x.1, x.2, none⟩, w.copies, target, [], plan.carts.length + volumesOf w.state w.copies⟩]
        let titles := w.state.titles.map fun e => { e with refs := e.refs + (plan.carts.flatten.filter fun q => q.key = e.key).length }
        let placed := fun i : ListItem =>
          if plan.placed.any (fun k => k.title = i.title ∧ k.medium = i.medium) then { i with state := .inShipment } else i
        let made := { w.state with
          patrons := w.state.patrons.map fun x =>
            if x.number = n then
              { x with shipment := some number, commCarts := x.commCarts + plan.carts.length, list := x.list.map placed }
            else x
          shipments := shipments
          shipmentCounter := if number < 65535 then number + 1 else 1
          titles := titles
          jobs := jobs
          jobCounter := counter }
        t = (numbers.foldl (fun v m => offerJob m v) (if plan.carts = [] then made.flagged .shipmentReady else made)).stamped ∧
        jobs.Perm ((numbers.zip (plan.carts.zipIdx 1)).map (fun x =>
          ⟨x.1, number, x.2.2, p.kind, x.2.1, estimate x.2.1, target, false, .queued, none, none⟩) ++ s.jobs) ∧
        (s.jobs.Pairwise (fun j k => j.number ≤ k.number) → jobs.Pairwise fun j k => j.number ≤ k.number) ∧
        numbers.Nodup ∧ ((∀ j ∈ s.jobs, j.number ≠ w.state.jobCounter) → ∀ m, numbers.head? = some m → m = w.state.jobCounter) ∧
        counter = (match numbers.getLast? with
          | some m => if m < 65535 then m + 1 else 1
          | none => w.state.jobCounter) ∧
        (∀ x ∈ s.shipments, x.number ≠ number) ∧ numbers.length = plan.carts.length ∧ t.eligibility = rest ∧
        t.shipments = shipments ∧ t.titles = titles ∧
        t.events = (if plan.carts = [] then { w.state.events with shipmentReady := true } else w.state.events) ∧
        t.shipmentCounter = (if number < 65535 then number + 1 else 1) ∧
        (∀ x ∈ numbers.zip (plan.carts.zipIdx 1), (∀ j ∈ s.jobs, j.number ≠ x.1) ∧ ∃ j, findJob t x.1 = some j ∧ j.shipment = number ∧
          j.index = x.2.2 ∧ j.kind = p.kind ∧ j.parts = x.2.1 ∧ j.estimate = estimate x.2.1 ∧ j.target = target ∧ j.requeued = false ∧
          j.state ≠ .done) ∧
        ∃ p', findPatron t n = some p' ∧ p'.shipment = some number ∧ p'.commCarts = q.commCarts + plan.carts.length ∧ p'.list = q.list.map placed)

/-- The Planner's walk (R52-R56). One candidate: no larger than U, it is placed whole on the current cartridge (the first of the working list), or on a new one
under the cap, or deferred; larger than U, it is placed by stages, each the longest run of whole volumes that the current cartridge takes, or a new one, and a stage that would
pass the cap leaves the working plan as it was. The plan is the walk's cartridges in the order opened, an empty first one discarded. Its bounds, whatever the candidates:
at most K cartridges, each of 1 to 12 parts within U, every part of a candidate's title entry, the placed candidates in list order. -/
def Obligations.PlanPlacesAndDefers : Prop :=
  ∀ (k : Kind) (cap : Nat),
    let u := match k with
      | .s => 32752
      | .l => 65520
    let blocks := fun run : List Volume => (run.map (·.size)).sum
    let longest := fun (free : Nat) (vols run behind : List Volume) => vols = run ++ behind ∧ blocks run ≤ free ∧
      ∀ v, behind.head? = some v → free < blocks run + v.size
    let part := fun (key : TitleKey) (v : Volume) (vs : List Volume) => Machine.Part.mk key v.first (blocks (v :: vs)) ((v :: vs).map (·.occ)).sum
    (∀ (e : TitleEntry) (c : PlanCart) (rest : List PlanCart) (placed : List TitleKey), e.size ≤ u →
      let w : Working := ⟨c :: rest, placed⟩
      let whole : Part := ⟨e.key, 0, e.size, e.occCount⟩
      (e.size ≤ c.free → c.parts.length < 12 →
        placeCandidate k cap w e = ⟨⟨c.free - e.size, c.parts ++ [whole]⟩ :: rest, e.key :: placed⟩) ∧
      (c.free < e.size ∨ 12 ≤ c.parts.length →
        (rest.length + 1 < cap → placeCandidate k cap w e = ⟨⟨u - e.size, [whole]⟩ :: c :: rest, e.key :: placed⟩) ∧
        (cap ≤ rest.length + 1 → placeCandidate k cap w e = w))) ∧
    (∀ (key : TitleKey) (c : PlanCart) (rest : List PlanCart) (vols : List Volume),
      let stage := splitStage k cap key vols (c :: rest)
      let opened : Prop :=
        (rest.length + 1 < cap → ∀ v vs behind, longest u vols (v :: vs) behind →
          stage = some (behind, ⟨u - blocks (v :: vs), [part key v vs]⟩ :: c :: rest)) ∧
        (cap ≤ rest.length + 1 → stage = none)
      (∀ v vs behind, longest c.free vols (v :: vs) behind →
        (c.parts.length < 12 → stage = some (behind, ⟨c.free - blocks (v :: vs), c.parts ++ [part key v vs]⟩ :: rest)) ∧
        (12 ≤ c.parts.length → opened)) ∧
      (longest c.free vols [] vols → opened)) ∧
    (∀ (key : TitleKey) (n : Nat) (vols : List Volume) (carts : List PlanCart), vols ≠ [] →
      placeSplit k cap key n [] carts = some carts ∧
      (splitStage k cap key vols carts = none → placeSplit k cap key (n + 1) vols carts = none) ∧
      ∀ behind carts', splitStage k cap key vols carts = some (behind, carts') →
        placeSplit k cap key (n + 1) vols carts = placeSplit k cap key n behind carts') ∧
    (∀ (e : TitleEntry) (w : Working), u < e.size →
      let tried := placeSplit k cap e.key (entryVolumes e).length (entryVolumes e) w.carts
      (e.volOcc.length = e.breaks.length + 1 →
        (entryVolumes e).map (fun v => (v.first, v.size)) = volumes e.size e.breaks ∧ (entryVolumes e).map (·.occ) = e.volOcc) ∧
      (tried = none → placeCandidate k cap w e = w) ∧
      ∀ carts, tried = some carts → placeCandidate k cap w e = ⟨carts, e.key :: w.placed⟩ ∧
        ∃ runs : List (List Volume), runs.flatten = entryVolumes e ∧ (∀ r ∈ runs, r ≠ []) ∧
          carts.reverse.flatMap (·.parts) = w.carts.reverse.flatMap (·.parts) ++ runs.map (runPart e.key)) ∧
    ∀ candidates : List TitleEntry,
      let plan := makePlan k cap candidates
      let w := candidates.foldl (placeCandidate k cap) ⟨[⟨u, []⟩], []⟩
      (cap = 0 ∨ candidates = [] → plan = ⟨[], []⟩) ∧
      (cap ≠ 0 → candidates ≠ [] → plan = ⟨(w.carts.reverse.map (·.parts)).filter fun parts => parts ≠ [], w.placed.reverse⟩) ∧
      plan.carts.length ≤ cap ∧ plan.placed.Sublist (candidates.map (·.key)) ∧
      ∀ parts ∈ plan.carts, 1 ≤ parts.length ∧ parts.length ≤ 12 ∧ (parts.map (·.count)).sum ≤ u ∧
        ∀ q ∈ parts, ∃ e ∈ candidates, e.key = q.key

/-- The job queue (R61): every QUEUED job once, by target cut-off with NONE last, then requeued jobs first, then the shipments' order of creation, then
cartridge index. The target cut-off (R58), with F the minute asked for: an earliest cut-off of today, tomorrow or the day after at F or later, no day after day
65,535; NONE only when there is none such. The estimate (R57) is rounded up to whole seconds. -/
def Obligations.JobQueueAndTarget : Prop :=
  (∀ s : State,
    let place := fun (j : Job) => s.shipments.findIdx fun sh => sh.number = j.shipment
    let later := fun (a b : Job) =>
      match a.target, b.target with
      | none, some _ => True
      | some _, none => False
      | some x, some y => y < x ∨ (x = y ∧ tieLater place a b)
      | none, none => tieLater place a b
    (jobQueue s).Perm (s.jobs.filter fun j => j.state = .queued) ∧ (jobQueue s).Pairwise fun a b => ¬later a b) ∧
  (∀ (s : State) (e : Nat), s.cutoffs.Pairwise (· < ·) → (∀ m ∈ s.cutoffs, m < 1440) →
    let f := s.clock.day * 1440 + s.clock.minute + (e + 59) / 60 + 15
    let allowed := fun (t : Nat) => ∃ d, d < 3 ∧ s.clock.day + d ≤ 65535 ∧ ∃ m ∈ s.cutoffs, t = (s.clock.day + d) * 1440 + m
    (∀ t, targetCutoff s e = some t → allowed t ∧ f ≤ t ∧ ∀ t', allowed t' → f ≤ t' → t ≤ t') ∧
    (targetCutoff s e = none → ∀ t', allowed t' → t' < f)) ∧
  ∀ parts : List Part,
    let ms := 4000 + (parts.map fun q => 15 * q.occ + (q.count - q.occ)).sum
    ms ≤ 1000 * estimate parts ∧ 1000 * estimate parts < ms + 1000

/-- SHIPMENT CANCEL (R50): NOT FOUND; BUSY once a job is ASSIGNED or DONE or a container was opened; otherwise its jobs are deleted, its items return to the
patron's list, its counts fall, the shipment is freed without an append, and its copies go to SHELF in line order with hold service. The patron's other
fields, every other patron and the order of the table are kept. -/
def Obligations.ShipmentCancelUndoes : Prop :=
  ∀ (s : State) (tag : Byte) (n : Nat), n < 65536 → canServe ⟨0x31, tag, bodyOf [(2, n)]⟩ s = true →
    let reply := fun (t : State) (status : Byte) => exec (.shipmentCancel tag (bodyOf [(2, n)])) s = .next (t.replied 0xB1 tag [status])
    (findShipment s n = none → reply s 0x02) ∧
    ∀ sh, findShipment s n = some sh →
      (sh.containers ≠ [] ∨ (∃ l ∈ sh.jobLines, ∃ j, findJob s l.job = some j ∧ j.state ≠ .queued) → reply s 0x04) ∧
      (sh.containers = [] → (∀ l ∈ sh.jobLines, ∀ j, findJob s l.job = some j → j.state = .queued) →
        let deleted := sh.jobLines.foldl (fun t l => deleteJob l.job t) s
        let carried := fun (i : ListItem) => ∃ l ∈ sh.jobLines, ∃ j, findJob s l.job = some j ∧
          ∃ q ∈ j.parts, i.title = q.key.title ∧ i.medium = q.key.medium
        let copied := fun (i : ListItem) => i.medium = .embossed ∧ ∃ id ∈ sh.copyLines, ∃ c, findCopy s id = some c ∧ c.title = i.title
        ∃ u : State, reply (sh.copyLines.foldl (fun t id => toShelf id t) u) 0x00 ∧
          u.shipments = s.shipments.filter (fun x => x.number ≠ n) ∧
          { u with patrons := s.patrons, shipments := s.shipments } = deleted ∧
          u.patrons.length = s.patrons.length ∧ ∀ y ∈ s.patrons.zip u.patrons,
            let p := y.1
            let p' := y.2
            (p.number ≠ sh.patron → p' = p) ∧
            (p.number = sh.patron →
              p' = { p with
                shipment := none
                commCarts := p.commCarts - sh.jobLines.length
                commCopies := p.commCopies - sh.copyLines.length
                list := p'.list } ∧
              p'.list.length = p.list.length ∧ ∀ x ∈ p.list.zip p'.list,
              (copied x.1 → x.2 = { x.1 with state := .waiting }) ∧
              (¬copied x.1 → x.1.state = .inShipment → carried x.1 →
                x.2 = { x.1 with state := if readyEntry deleted x.1.title x.1.medium = none then .awaitingMaster else .waiting }) ∧
              (¬copied x.1 → ¬(x.1.state = .inShipment ∧ carried x.1) → x.2 = x.1)))

/-! ## Duplication bays (R62, R63, R69-R96) -/

/-- What R75, R78, R62 and R63 say of a bay that may take a job, over the shared operations that the bay statements below cite: `enterWiping`, `enterLoaded`,
`offerJob`. An assignment sets the entry state FOULED, empties the check list, and starts at the first part; while the supply is LOW the bay goes to
PAUSED at once (R99). A bay that enters LOADED awaits no wipe, and its wipe timer is absent, as 0 (R69; DEDUCED in that 0, log 41). -/
def Obligations.LoadedBaysTakeJobs : Prop :=
  ∀ (s : State) (b : BayId),
    let fouled := fun c : Cartridge => { c with entry := some .fouled }
    let wiped := { getBay s b with
      state := if s.supply = .low then .paused else .wiping
      pausedFrom := if s.supply = .low then some .wiping else none
      wipeTimer := 0 }
    let taken := fun (u : State) (d : BayId) (n : Nat) =>
      ((u.assigned n d).withCart (getBay u d).occupant fouled).withBay d { getBay u d with
          state := if s.supply = .low then .paused else .writing
          pausedFrom := if s.supply = .low then some .writing else none
          job := some n
          checkList := []
          retry := 0
          writePos := ⟨1, 0⟩
          fetchPos := ⟨1, 0⟩ }
    let ready := fun u : State => u.withBay b { getBay s b with state := .loaded, wipeTimer := 0 }
    enterWiping b s = (s.withCart (getBay s b).occupant fouled).withBay b wiped ∧
    (∀ c, occupantOf s b = some c →
      (∀ j, (jobQueue s).find? (fun j => j.kind = c.kind) = some j → enterLoaded b s = taken (ready s) b j.number) ∧
      ((∀ j ∈ s.jobs, j.state = .queued → j.kind ≠ c.kind) → enterLoaded b s = ready s)) ∧
    ∀ j, findJob s j.number = some j →
      let loaded := fun d : BayId => (getBay s d).state = .loaded ∧ ∃ c, occupantOf s d = some c ∧ c.kind = j.kind
      ((∀ d, ¬loaded d) → offerJob j.number s = s) ∧
      ∀ d, loaded d → (∀ e, e < d → ¬loaded e) → offerJob j.number s = taken s d j.number

/-- Insertion, the identity read and its time limit (R71), and the table of R72: the bay's next state, the record's admission or enrolment, and the reject
reasons. A read or an expiry outside IDENTIFYING changes nothing. MODEL'S CHOICE (log 43): a completion that arrives in IDENTIFYING is that of
the present read. -/
def Obligations.IdentificationFollowsTheRegistry : Prop :=
  ∀ (s : State) (b : BayId), s.power = true →
    let x := getBay s b
    let rejected := fun (reason : RejectReason) (serial : Option Nat) =>
      (s.withBay b { x with state := .reject, rejectReason := some reason, rejected := serial, identTimer := none }).bayFlagged b
    (x.state = .empty →
      exec (.cartridgeInserted b) s = .next (s.withBay b { x with state := .identifying, present := true, identTimer := some 0 }).stamped) ∧
    (x.state = .outOfService → exec (.cartridgeInserted b) s = .next (s.withBay b { x with present := true }).stamped) ∧
    (x.state = .absent → exec (.cartridgeInserted b) s = .next s.stamped) ∧
    (x.state ≠ .identifying → exec (.identificationTimeout b) s = .next s.stamped ∧ ∀ n k, exec (.identityReadDone b n k) s = .next s.stamped) ∧
    (x.state = .identifying → exec (.identificationTimeout b) s = .next (rejected .unreadable none).stamped ∧
      (∀ k, exec (.identityReadDone b 0 k) s = .next (rejected .unreadable none).stamped) ∧
      (∀ n, exec (.identityReadDone b n none) s = .next (rejected .unreadable none).stamped) ∧
      ∀ (n : BitVec 32) (k : Kind), n ≠ 0 →
        let reads := fun t : State => exec (.identityReadDone b n (some k)) s = .next t.stamped
        let serial := some n.toNat
        let admitted := fun y : Bay => (s.withCart serial fun c =>
          { c with
            state := .inBay
            bay := some b
            entry := some c.state
            kind := k
            shipment := if c.state = .returned ∨ c.state = .fouled then none else c.shipment
            job := if c.state = .returned ∨ c.state = .fouled then none else c.job }).withBay b { y with occupant := serial, identTimer := none }
        (∀ c, findCart s n.toNat = some c →
          (c.state = .blank → reads (enterLoaded b (admitted x))) ∧
          (c.state = .returned ∨ c.state = .fouled → reads (enterWiping b (admitted x))) ∧
          (c.state = .written →
            let done := (admitted { x with state := .done }).bayFlagged b
            (c.shipment = none → reads done) ∧ ∀ m, c.shipment = some m → reads (refreshDeadline m done)) ∧
          (c.state = .packed → reads (rejected .packed serial)) ∧
          (c.state = .out → reads (rejected .notReturned serial)) ∧
          (c.state = .quarantined → reads (rejected .quarantined serial)) ∧
          (c.state = .withdrawn → reads (rejected .withdrawn serial)) ∧
          (c.state = .inBay → reads (rejected .inOtherBay serial))) ∧
        (findCart s n.toNat = none →
          (32768 ≤ s.cartridges.length → reads (rejected .registryFull serial)) ∧
          (s.cartridges.length < 32768 → ∃ before behind, s.cartridges = before ++ behind ∧
            (∀ c ∈ before, c.serial ≤ n.toNat) ∧ (∀ c, behind.head? = some c → n.toNat < c.serial) ∧
            let enrolled : State := { s with
              cartridges := before ++ ⟨n.toNat, k, .inBay, some b, some .fouled, none, none, [], none, 0, 0⟩ :: behind }
            reads (enterWiping b (enrolled.withBay b { x with occupant := serial, identTimer := none })))))

/-- Removal (R63, R89, R90): the record of an admitted cartridge takes its entry state; the bay is EMPTY with nothing under way, or OUT OF SERVICE after a third
fault in a row; a job it held is queued again and offered; after DONE the shipment of a WRITTEN cartridge is looked at (R64, R144). DEDUCED: the retry count of a bay left is 0 (log 16). -/
def Obligations.RemovalVacatesTheBay : Prop :=
  ∀ (s : State) (b : BayId), s.power = true →
    let x := getBay s b
    let out := x.state = .fault ∧ 3 ≤ x.faults
    let vacated := fun j : Option Nat => ((s.withoutFeed b).withCart x.occupant fun c =>
      { c with state := c.entry.getD .fouled, bay := none, entry := none }).withBay b { x.quiet with
        state := if out then .outOfService else .empty
        occupant := none
        rejected := none
        rejectReason := none
        faultReason := none
        pausedFrom := none
        checkList := []
        wipeTimer := 0
        present := false
        job := j
        faults := if out then 0 else x.faults }
    (x.state = .absent ∨ x.state = .empty → exec (.cartridgeRemoved b) s = .next s.stamped) ∧
    (x.state = .outOfService → exec (.cartridgeRemoved b) s = .next (s.withBay b { x with present := false }).stamped) ∧
    (x.state = .done →
      (x.occupant = none → exec (.cartridgeRemoved b) s = .next (vacated x.job).stamped) ∧
      ∀ n, x.occupant = some n → exec (.cartridgeRemoved b) s = .next (cartWritten n (vacated x.job)).stamped) ∧
    (x.state ≠ .absent → x.state ≠ .empty → x.state ≠ .outOfService → x.state ≠ .done →
      (x.job = none → exec (.cartridgeRemoved b) s = .next (vacated none).stamped) ∧
      ∀ n, x.job = some n →
        (findJob s n = none → exec (.cartridgeRemoved b) s = .next (vacated none).stamped) ∧
        (findJob s n ≠ none → exec (.cartridgeRemoved b) s = .next (offerJob n ((vacated none).requeued n)).stamped))

/-- Entering FAULT (R63, R91), and the ends of a wipe (R75, R76, R77): a completion blanks the record and loads the bay, a failure or the time limit is a fault, and
outside WIPING each of them changes nothing. DEDUCED: in FAULT the retry count is 0 (log 16), and the wipe timer, absent by R69, is 0 (log 41).
MODEL'S CHOICE (log 43): a report that arrives in WIPING is that of the present wipe. -/
def Obligations.FaultsAndWipeEnds : Prop :=
  ∀ (s : State) (b : BayId), s.power = true →
    let x := getBay s b
    (∀ reason : BayFault,
      let faulted := ((s.withoutFeed b).withCart x.occupant fun c =>
        { c with
          faults := min 3 (c.faults + 1)
          entry := some (if 3 ≤ c.faults + 1 then .withdrawn else .fouled) }).withBay b { x.quiet with
            state := .fault
            faultReason := some reason
            pausedFrom := none
            job := none
            faults := min 3 (x.faults + 1) }
      ((∀ n, x.job = some n → findJob s n = none) → faultBay b reason s = faulted.bayFlagged b) ∧
      ∀ n, x.job = some n → findJob s n ≠ none → faultBay b reason s = (offerJob n (faulted.requeued n)).bayFlagged b) ∧
    (x.state = .wiping →
      exec (.wipeComplete b) s =
        .next (enterLoaded b (s.withCart x.occupant fun c => { c with entry := some .blank, content := [], dupDay := none })).stamped ∧
      exec (.wipeFailure b) s = .next (faultBay b .wipeFailure s).stamped ∧
      exec (.wipeTimeout b) s = .next (faultBay b .wipeTimeout s).stamped) ∧
    (x.state ≠ .wiping →
      exec (.wipeComplete b) s = .next s.stamped ∧ exec (.wipeFailure b) s = .next s.stamped ∧ exec (.wipeTimeout b) s = .next s.stamped)

/-- The order of a bay's writes and what a pause keeps, over the shared operations that the next statements cite: positions and cartridge blocks (R79), the check
list (R82), the start of a write or of VERIFYING (R82, R83, R84, R85), and a pause (R81, R98). A pause stops the wipe timer
where it stands (R98).
MODEL'S CHOICE: the number that each write takes is its own (log 34), and a position past the last part is the part after it, block 0 (log 6). -/
def Obligations.WriteOrderAndPause : Prop :=
  (∀ (parts : List Part) (p : Pos) (q : Part), partAt parts p = some q →
    (p.block + 1 < q.count → nextPos parts p = ⟨p.part, p.block + 1⟩) ∧ (q.count ≤ p.block + 1 → nextPos parts p = ⟨p.part + 1, 0⟩) ∧
    cartBlock parts p = 16 + ((parts.take (p.part - 1)).map (·.count)).sum + p.block) ∧
  (∀ (l : List CheckEntry) (block : Nat) (crc : Check),
    ((∀ e ∈ l, e.block ≠ block) → ∃ before behind, l = before ++ behind ∧ recordWrite block crc l = before ++ ⟨block, crc, 0, false⟩ :: behind ∧
      (∀ e ∈ before, e.block ≤ block) ∧ ∀ e, behind.head? = some e → block < e.block) ∧
    ((∃ e ∈ l, e.block = block) → recordWrite block crc l = l.map fun e => if e.block = block then { e with crc := crc } else e)) ∧
  ∀ (s : State) (b : BayId),
    let x := getBay s b
    let parts := jobParts s b
    (x.ackTimer ≠ none → startWrite b s = s) ∧
    (x.ackTimer = none → x.state = .writing →
      (x.writePos.part ≤ parts.length →
        (∀ data rest, x.buffer = ⟨x.writePos, some data⟩ :: rest → startWrite b s = s.withBay b
          { x with checkList := recordWrite (cartBlock parts x.writePos) (crc16 data) x.checkList, ackTimer := some 0, writes := x.writes + 1 }) ∧
        ((∀ f, x.buffer.head? = some f → f.pos ≠ x.writePos ∨ f.data = none) → startWrite b s = s)) ∧
      (parts.length < x.writePos.part →
        let verifying := fun r : Option Nat => s.withBay b { x with state := .verifying, buffer := [], phase := some .data, readBack := r }
        (∀ e, x.checkList.find? (fun e => 16 ≤ e.block) = some e → startWrite b s = verifying (some e.block)) ∧
        ((∀ e ∈ x.checkList, e.block < 16) → startWrite b s = enterDirectory b (verifying none)))) ∧
    (x.ackTimer = none → x.state = .verifying →
      (∀ block f data rest, x.rewriteMark = some block → x.phase = some .data → x.buffer = f :: rest → f.data = some data → startWrite b s = s.withBay b
        { x with checkList := recordWrite block (crc16 data) x.checkList, ackTimer := some 0, writes := x.writes + 1 }) ∧
      (x.rewriteMark = none ∨ x.phase ≠ some .data ∨ (∀ f, x.buffer.head? = some f → f.data = none) → startWrite b s = s)) ∧
    (x.state ≠ .writing → x.state ≠ .verifying → startWrite b s = s) ∧
    ∀ from_ : PausedFrom, pauseBay b from_ s = (s.withoutFeed b).withBay b { x with
      state := .paused
      pausedFrom := some from_
      ackTimer := none
      buffer := x.buffer.filter fun f => f.data ≠ none
      fetchPos :=
        match x.buffer.find? fun f => f.data = none with
        | some f => if from_ = .writing then f.pos else x.fetchPos
        | none => x.fetchPos }

/-- A fill block is passed over (R79). An acknowledgement settles a write: the write position advances, a rewritten block is read back again, the next directory block
is written, and after the sixteenth the read-back of block 0 begins (R82, R85, R87). The first expiry writes the block again, the second is a fault (R82). With the supply LOW the
bay pauses instead of writing on (R98); DEDUCED (log 13): after its last block it pauses from WRITING and verifies when it resumes. What is not awaited changes nothing. MODEL'S CHOICE
(log 34): an acknowledgement carries the model's own number of the write it answers, by which the late one of an expired write, which R82 discards, is told apart. -/
def Obligations.WritesAreSettled : Prop :=
  ∀ (s : State) (b : BayId), s.power = true →
    let x := getBay s b
    let acked := fun t : State => exec (.writeAcknowledged ⟨b, x.writes⟩) s = .next t.stamped
    let late := fun t : State => exec (.ackTimeout b) s = .next t.stamped
    let on := fun (y : Bay) (from_ : PausedFrom) (go : State → State) =>
      if s.supply = .low then pauseBay b from_ (s.withBay b y) else go (s.withBay b y)
    let settled := { x with ackTimer := none, retry := 0 }
    (x.ackTimer = none → acked s ∧ late s) ∧
    (∀ write : Nat, write ≠ x.writes → exec (.writeAcknowledged ⟨b, write⟩) s = .next s.stamped) ∧
    (x.ackTimer ≠ none →
      (x.state = .writing →
        acked (on { settled with buffer := x.buffer.tail, writePos := nextPos (jobParts s b) x.writePos } .writing (startWrite b)) ∧
        (x.retry = 0 → late (if s.supply = .low then pauseBay b .writing (s.withBay b { x with retry := 1 })
          else s.withBay b { x with retry := 1, ackTimer := some 0, writes := x.writes + 1 }))) ∧
      (x.state = .verifying →
        (x.rewriteMark ≠ none → acked (on { settled with rewriteMark := none, buffer := [] } .verifying id)) ∧
        (x.rewriteMark = none →
          ((x.checkList.filter fun e => e.block < 16).length < 16 → acked (on settled .verifying (writeDirectory b))) ∧
          (16 ≤ (x.checkList.filter fun e => e.block < 16).length → acked (on { settled with readBack := some 0 } .verifying id))) ∧
        (x.retry = 0 → late (if s.supply = .low then pauseBay b .verifying (s.withBay b { x with retry := 1 })
          else s.withBay b { x with retry := 1, ackTimer := some 0, writes := x.writes + 1 }))) ∧
      (x.state = .writing ∨ x.state = .verifying → x.retry ≠ 0 → late (faultBay b .ackTimeout s))) ∧
    ∀ p, partAt (jobParts s b) x.writePos = some p →
      let isFill := ∀ e, findTitle s p.key = some e → p.first + x.writePos.block ∉ e.occupied
      (x.state = .writing → x.ackTimer = none → isFill →
        exec (.fillBlockPassed b) s = .next (startWrite b (s.withBay b { x with writePos := nextPos (jobParts s b) x.writePos })).stamped) ∧
      (x.state ≠ .writing ∨ x.ackTimer ≠ none ∨ ¬isFill → exec (.fillBlockPassed b) s = .next s.stamped)

/-- Read-back (R84, R85, R87): an equal CRC passes the block and the bay goes on to the next entry, to the directory, or past directory block 15 to DONE; a
different one, or no answer in time, marks the block for rewrite until its third mismatch, which is a fault. A directory block is rewritten at once; with the supply LOW the
bay pauses first (R98). With nothing being read back nothing changes. MODEL'S CHOICE (log 43): a completion that arrives while a
block is read back is that of the present read. -/
def Obligations.ReadBackOutcomes : Prop :=
  ∀ (s : State) (b : BayId), s.power = true →
    let x := getBay s b
    (x.state ≠ .verifying ∨ x.rewriteMark ≠ none ∨ x.ackTimer ≠ none ∨ x.readBack = none →
      exec (.readBackTimeout b) s = .next s.stamped ∧ ∀ data, exec (.readBackDone b data) s = .next s.stamped) ∧
    (x.state = .verifying → x.rewriteMark = none → x.ackTimer = none → ∀ n e, x.readBack = some n → x.checkList.find? (fun e => e.block = n) = some e →
      (∀ data, crc16 data = e.crc →
        let passed := { x with checkList := x.checkList.map fun f => if f.block = e.block then { f with passed := true } else f }
        (x.phase = some .directory → e.block = 15 → exec (.readBackDone b data) s = .next (finishBay b (s.withBay b passed)).stamped) ∧
        (x.phase ≠ some .directory ∨ e.block ≠ 15 →
          (∀ f, passed.checkList.find? (fun f => e.block + 1 ≤ f.block) = some f →
            exec (.readBackDone b data) s = .next (s.withBay b { passed with readBack := some f.block }).stamped) ∧
          ((∀ f ∈ x.checkList, f.block ≤ e.block) → exec (.readBackDone b data) s = .next (enterDirectory b (s.withBay b passed)).stamped))) ∧
      let mismatch := fun t : State => exec (.readBackTimeout b) s = .next t.stamped ∧
        ∀ data, crc16 data ≠ e.crc → exec (.readBackDone b data) s = .next t.stamped
      let marked := s.withBay b { x with
        rewriteMark := some e.block
        checkList := x.checkList.map fun f => if f.block = e.block then { f with rewrites := f.rewrites + 1 } else f }
      (2 ≤ e.rewrites → mismatch (faultBay b .verify s)) ∧
      (e.rewrites < 2 →
        (s.supply = .low → mismatch (pauseBay b .verifying marked)) ∧
        (s.supply = .normal → x.phase ≠ some .directory → mismatch marked) ∧
        (s.supply = .normal → x.phase = some .directory → mismatch (writeDirectoryBlock b e.block marked))))

/-- The directory and completion (R64, R86, R87, R88, R107, R109): 16 blocks, the header with its listing, a volume table for each part, fill. A volume table lists the
breaks strictly inside its part: DEDUCED (log 29), since R86 names them without saying whether a break at the part's own start counts. When the data blocks have passed,
the bay builds it and begins with block 0, or pauses before it while the supply is LOW (R98); then it writes the block after those written, or again the one whose first write expired.
Each block is written from what the bay built, under the model's own write number (log 34). A bay that finishes is DONE with its job DONE, its line naming the serial, the record carrying the job's parts and the directory's day, and the BAY flag set; DEDUCED: its retry count is 0 (log 16), its wipe timer 0 (log 41). -/
def Obligations.DirectoryAndCompletion : Prop :=
  (∀ (s : State) (b : BayId) (j : Job) (c : Cartridge), (getBay s b).job = some j.number → findJob s j.number = some j → occupantOf s b = some c →
    j.parts.length ≤ 12 →
    (buildDirectory s b).length = 16 ∧
    (∃ listing, (buildDirectory s b)[0]? = some (DirectoryBlock.header c.serial c.kind s.clock.day listing) ∧ listing.length = j.parts.length ∧
      ∀ i p, j.parts[i]? = some p → listing[i]? = some (DirectoryPart.mk p.key p.first p.count (16 + ((j.parts.take i).map (·.count)).sum))) ∧
    (∀ i p e, j.parts[i]? = some p → findTitle s p.key = some e → (buildDirectory s b)[i + 1]? =
      some (.volumes ((e.breaks.filter fun k => p.first < k ∧ k < p.first + p.count).map (· - p.first)))) ∧
    ∀ i, j.parts.length < i → i < 16 → (buildDirectory s b)[i]? = some .fill) ∧
  (∀ (s : State) (b : BayId) (l : List DirectoryBlock) (k : Nat) (d : DirectoryBlock), (getBay s b).directory = some l → l[k]? = some d →
    writeDirectoryBlock b k s = s.withBay b { getBay s b with
      checkList := recordWrite k (crc16 (directoryBytes d)) (getBay s b).checkList
      ackTimer := some 0
      writes := (getBay s b).writes + 1 }) ∧
  directoryBytes .fill = List.replicate 65536 0xFF ∧
  (∀ (s : State) (b : BayId),
    let written := ((getBay s b).checkList.filter fun e => e.block < 16).length
    ((getBay s b).retry ≠ 1 → writeDirectory b s = writeDirectoryBlock b written s) ∧
    ((getBay s b).retry = 1 → writeDirectory b s = writeDirectoryBlock b (written - 1) s)) ∧
  (∀ (s : State) (b : BayId),
    let built := s.withBay b { getBay s b with phase := some .directory, readBack := none, directory := some (buildDirectory s b) }
    (s.supply = .low → enterDirectory b s = pauseBay b .verifying built) ∧
    (s.supply = .normal → enterDirectory b s = writeDirectory b built) ∧
    (s.supply = .normal → (getBay s b).retry = 0 → (∀ e ∈ (getBay s b).checkList, 16 ≤ e.block) → enterDirectory b s = writeDirectoryBlock b 0 built)) ∧
  ∀ (s : State) (b : BayId) (j : Job) (serial : Nat) (c : Cartridge) (day : Nat) (listing : List DirectoryPart) (rest : List DirectoryBlock),
    let x := getBay s b
    x.job = some j.number → findJob s j.number = some j → x.occupant = some serial → findCart s serial = some c →
    x.directory = some (.header serial c.kind day listing :: rest) →
    finishBay b s = State.bayFlagged (((({ s with jobs := s.jobs.map fun k =>
        if k.number = j.number then { k with state := .done, bay := none, serial := some serial } else k } : State).withCart (some serial) fun r =>
          { r with
            content := j.parts.map fun p => ⟨p.key, p.first, p.count⟩
            dupDay := some day
            wear := min 65535 (r.wear + 1)
            job := some j.number
            shipment := some j.shipment
            entry := some .written }).withShipment j.shipment fun sh =>
          { sh with jobLines := sh.jobLines.map fun l => if l.job = j.number then { l with serial := some serial } else l }).withBay b
            { x.quiet with state := .done, job := none, faults := 0 }) b

/-- BAY SERVICE (R94): codes 1 for OUT and 2 for IN (R192); an OUT OF SERVICE bay's lamp shows code 1, dark (R69, R192). -/
def Obligations.BayServiceOutcomes : Prop :=
  ∀ (s : State) (tag : Byte) (n action : Nat), n < 256 → action < 256 → canServe ⟨0x39, tag, bodyOf [(1, n), (1, action)]⟩ s = true →
    let reply := fun (t : State) (status : Byte) =>
      exec (if action = 2 then .bayServiceIn tag (bodyOf [(1, n), (1, action)]) else .bayServiceOut tag (bodyOf [(1, n), (1, action)])) s =
        .next (t.replied 0xB9 tag [status])
    (23 < n ∨ (action ≠ 1 ∧ action ≠ 2) → reply s 0x05) ∧
    ∀ b : BayId, b.val = n →
      let x := getBay s b
      (action = 1 → x.state = .empty → reply (s.withBay b { x with state := .outOfService }) 0x00 ∧ lampCode .outOfService = 1) ∧
      (action = 1 → x.state ≠ .empty → reply s 0x04) ∧
      (action = 2 → x.state = .outOfService →
        (x.present = false → reply (s.withBay b { x with state := .empty, faults := 0 }) 0x00) ∧
        (x.present = true → reply (s.withBay b { x with state := .identifying, faults := 0, identTimer := some 0 }) 0x00)) ∧
      (action = 2 → x.state ≠ .outOfService → reply s 0x04)

/-- The Rack Supply Monitor (R97, R98, R100, R101). Two samples in a row below the falling threshold make the supply LOW, two above the rising one NORMAL; SUPPLY_LOW
and SUPPLY_NORMAL are the second such sample. LOW pauses each bay as R98 gives (`lowBay`), NORMAL resumes each paused bay (`resumeBay`), and the first 300 s of a LOW period
make each bay PAUSED with a job give it back. DEDUCED (log 11): the sample count goes back to 0 at a change of state, and a SUPPLY_SAMPLE that is the second in a row changes
the state as SUPPLY_LOW and SUPPLY_NORMAL do. DEDUCED (log 14): a bay in VERIFYING with a block to rewrite and no write in progress pauses at once. DEDUCED (logs 16 and 41): a bay that gives
its job back so has retry count 0 and wipe timer 0. -/
def Obligations.SupplyFollowsItsSamples : Prop :=
  ∀ (s : State) (mv : Nat), s.power = true →
    let falling := 10800 + 200 * s.supplyLevel
    let against := (s.supply = .normal ∧ mv < falling) ∨ (s.supply = .low ∧ falling + 200 < mv)
    let low := (bayIds.foldl lowBay { s with
      supply := .low
      supplyCount := 0
      lowTimer := 0
      abandoned := false }).noted .supplyLow
    let normal := (bayIds.foldl resumeBay { s with
      supply := .normal
      supplyCount := 0
      lowTimer := 0 }).noted .supplyLow
    (¬against → exec (.supplySample mv) s = .next { s with supplyCount := 0 }.stamped) ∧
    (against → s.supplyCount = 0 → exec (.supplySample mv) s = .next { s with supplyCount := 1 }.stamped) ∧
    (against → 1 ≤ s.supplyCount → exec (.supplySample mv) s = .next (if s.supply = .normal then low else normal).stamped) ∧
    (against → 1 ≤ s.supplyCount → s.supply = .normal → exec (.supplyLow mv) s = .next low.stamped) ∧
    (against → 1 ≤ s.supplyCount → s.supply = .low → exec (.supplyNormal mv) s = .next normal.stamped) ∧
    (¬against ∨ s.supplyCount = 0 → exec (.supplyLow mv) s = .next s.stamped ∧ exec (.supplyNormal mv) s = .next s.stamped) ∧
    (s.supply = .normal ∨ s.abandoned = true → exec .lowDurationTimeout s = .next s.stamped) ∧
    (s.supply = .low → s.abandoned = false → exec .lowDurationTimeout s = .next (State.stamped
      ((bayIds.filter fun b => (getBay s b).state = .paused ∧ (getBay s b).job ≠ none).foldl (fun t b =>
        let y := getBay t b
        giveBack b ((t.withCart y.occupant fun c => { c with entry := some .fouled }).withBay b
          { y.quiet with checkList := [], pausedFrom := some .wiping }))
        { s with abandoned := true, lowTimer := 300000 }))) ∧
    ∀ b : BayId,
      let x := getBay s b
      (x.state = .wiping → lowBay s b = pauseBay b .wiping s) ∧
      (x.state = .writing → lowBay s b = if x.ackTimer = none then pauseBay b .writing s else s) ∧
      (x.state = .verifying → lowBay s b = if x.ackTimer = none ∧ x.rewriteMark ≠ none then pauseBay b .verifying s else s) ∧
      (x.state ≠ .wiping → x.state ≠ .writing → x.state ≠ .verifying → lowBay s b = s) ∧
      (x.state ≠ .paused → resumeBay s b = s) ∧
      (x.state = .paused → x.pausedFrom = some .wiping → resumeBay s b = enterWiping b s) ∧
      (x.state = .paused → x.pausedFrom = some .writing →
        resumeBay s b = startWrite b (s.withBay b { x with state := .writing, pausedFrom := none })) ∧
      (x.state = .paused → x.pausedFrom = some .verifying →
        resumeBay s b = resumeVerifying b (s.withBay b { x with state := .verifying, pausedFrom := none })) ∧
      (∀ block, x.rewriteMark = some block →
        (x.phase = some .directory → resumeVerifying b s = writeDirectoryBlock b block s) ∧
        (x.phase ≠ some .directory → resumeVerifying b s = startWrite b s)) ∧
      (x.rewriteMark = none →
        (x.phase = some .directory → x.readBack = none → resumeVerifying b s = writeDirectory b s) ∧
        (x.phase ≠ some .directory ∨ x.readBack ≠ none → resumeVerifying b s = s)) ∧
      ∀ n, x.job = some n → findJob s n ≠ none →
        giveBack b s = offerJob n ((s.withBay b { x with job := none }).requeued n)

/-! ## Settings, withdrawals, embossed stock (R39, R97, R115-R131, R161) -/

/-- SUPPLY LEVEL SET (R97), LOAN PERIOD SET (R161), SELECTION HOLD and SELECTION RELEASE (R39): the values clamped and kept, the sample count restarted, the
SELECTION HELD condition following the setting (R186). -/
def Obligations.SettingsAreKept : Prop :=
  ∀ (s : State) (tag : Byte) (m n : Nat), m < 256 → n < 256 →
    let kept := fun d : Nat => if d < 7 then 7 else if 120 < d then 120 else d
    (canServe ⟨0x04, tag, bodyOf [(1, n)]⟩ s = true → exec (.supplyLevelSet tag (bodyOf [(1, n)])) s =
      .next ({ s with supplyLevel := min 7 n, supplyCount := 0 }.replied 0x84 tag [0x00])) ∧
    (canServe ⟨0x03, tag, bodyOf [(1, m), (1, n)]⟩ s = true → exec (.loanPeriodSet tag (bodyOf [(1, m), (1, n)])) s =
      .next ({ s with cartridgePeriod := kept m, copyPeriod := kept n }.replied 0x83 tag
        [0x00, BitVec.ofNat 8 (kept m), BitVec.ofNat 8 (kept n)])) ∧
    (canServe ⟨0x05, tag, []⟩ s = true →
      (s.selection = .held → exec (.selectionHold tag []) s = .next (s.replied 0x85 tag [0x00])) ∧
      (s.selection = .released → exec (.selectionHold tag []) s =
        .next (({ s with selection := .held }.noted .selectionHeld).replied 0x85 tag [0x00]))) ∧
    (canServe ⟨0x06, tag, []⟩ s = true →
      (s.selection = .released → exec (.selectionRelease tag []) s = .next (s.replied 0x86 tag [0x00])) ∧
      (s.selection = .held → exec (.selectionRelease tag []) s =
        .next (({ s with selection := .released }.noted .selectionHeld).replied 0x86 tag [0x00])))

/-- CARTRIDGE WITHDRAW (R115) and COPY WITHDRAW (R121): only the state of the record changes. -/
def Obligations.WithdrawalsByTheHost : Prop :=
  ∀ (s : State) (tag : Byte) (n : Nat),
    (n < 4294967296 → canServe ⟨0x41, tag, bodyOf [(4, n)]⟩ s = true →
      let reply := fun (t : State) (status : Byte) => exec (.cartridgeWithdraw tag (bodyOf [(4, n)])) s = .next (t.replied 0xC1 tag [status])
      (n = 0 → reply s 0x05) ∧ (n ≠ 0 → findCart s n = none → reply s 0x02) ∧
      ∀ c, n ≠ 0 → findCart s n = some c →
        let free := c.state = .blank ∨ c.state = .returned ∨ c.state = .fouled ∨ c.state = .quarantined
        (free → reply (s.withCart (some n) fun r => { r with state := .withdrawn }) 0x00) ∧ (¬free → reply s 0x04)) ∧
    (n < 16777216 → canServe ⟨0x29, tag, bodyOf [(3, n)]⟩ s = true →
      let reply := fun (t : State) (status : Byte) => exec (.copyWithdraw tag (bodyOf [(3, n)])) s = .next (t.replied 0xA9 tag [status])
      (n = 0 → reply s 0x05) ∧ (n ≠ 0 → findCopy s n = none → reply s 0x02) ∧
      ∀ c, n ≠ 0 → findCopy s n = some c →
        (c.state = .shelf → reply (s.withCopy n fun r => { r with state := .withdrawn }) 0x00) ∧ (c.state ≠ .shelf → reply s 0x04))

/-- COPY ENTER (R120) and hold service for a copy that enters SHELF (R119, R123, R124, R125): the first entry of the title's queue whose patron is ACTIVE with
embossed headroom is chosen; its copy goes into an ASSEMBLING or READY open shipment, or is reserved with HOLD RESERVED and the append of R34; with no such entry nothing changes. -/
def Obligations.HoldServiceChoosesAHolder : Prop :=
  (∀ (s : State) (tag : Byte) (id title volumes : Nat), id < 16777216 → title < 16777216 → volumes < 256 →
    let body := bodyOf [(3, id), (3, title), (1, volumes)]
    canServe ⟨0x28, tag, body⟩ s = true →
    let reply := fun (t : State) (status : Byte) => exec (.copyEnter tag body) s = .next (t.replied 0xA8 tag [status])
    let entered : Copy := ⟨id, title, volumes, .shelf, none, none, List.replicate volumes false⟩
    (id < 1 ∨ title < 1 ∨ 999999 < title ∨ volumes < 1 ∨ 12 < volumes → reply s 0x05) ∧
    (1 ≤ id → 1 ≤ title → title ≤ 999999 → 1 ≤ volumes → volumes ≤ 12 →
      (∀ c, findCopy s id = some c →
        (c.state ≠ .withdrawn → reply s 0x06) ∧ (c.state = .withdrawn → reply (holdService id (s.withCopy id fun _ => entered)) 0x00)) ∧
      (findCopy s id = none →
        (16384 ≤ s.copies.length → reply s 0x03) ∧
        (s.copies.length < 16384 → ∃ before behind, s.copies = before ++ behind ∧
          (∀ c ∈ before, c.id ≤ id) ∧ (∀ c, behind.head? = some c → id < c.id) ∧
          reply (holdService id { s with copies := before ++ entered :: behind }) 0x00)))) ∧
  (∀ (s : State) (id : Nat), toShelf id s = holdService id { s.withCopy id fun c => { c with state := .shelf, patron := none, shipment := none } with
    pickList := s.pickList.filter fun m => m ≠ id }) ∧
  ∀ (s : State) (c : Copy), findCopy s c.id = some c →
    let able := fun h : Hold => ∃ p, findPatron s h.patron = some p ∧ p.state = .active ∧ p.commCopies < p.embAllow
    ((∀ h ∈ s.holds, h.title = c.title → ¬able h) → holdService c.id s = s) ∧
    ∀ (before behind : List Hold) (h : Hold) (p : Patron), s.holds.filter (fun g => g.title = c.title) = before ++ h :: behind →
      (∀ g ∈ before, ¬able g) → able h → findPatron s h.patron = some p →
      let given := fun (x : CopyState) (sh : Option Nat) (i : ItemState) =>
        (State.withCopy { s with holds := s.holds.filter fun g => ¬(g.title = c.title ∧ g.patron = p.number) } c.id fun d =>
          { d with state := x, patron := some p.number, shipment := sh }).withPatron p.number fun q =>
            { q with
              commCopies := q.commCopies + 1
              list := q.list.map fun j => if j.title = c.title ∧ j.medium = .embossed then { j with state := i } else j }
      (∀ sh, p.shipment = some sh.number → findShipment s sh.number = some sh → sh.state = .assembling ∨ sh.state = .ready →
        holdService c.id s = State.withShipment { given .allocated (some sh.number) .inShipment with pickList := s.pickList ++ [c.id] } sh.number fun x =>
          { x with copyLines := x.copyLines ++ [c.id], toScan := x.toScan + c.volumes }) ∧
      ((∀ n sh, p.shipment = some n → findShipment s n = some sh → sh.state = .packing ∨ sh.state = .sealed) →
        holdService c.id s = appendEligible p.number ((given .reserved none .reserved).flagged .holdReserved))

/-! ## Packing (R133-R147) -/

/-- PACK SCAN (R137, R138, R141, R142): the checks in order with their replies, the recall of a cartridge at the bench, and an accepted scan: the item is PACKED, one
fewer is left to scan, and the item is placed and its container sealed (`placeItem`, `sealAfter`), after which the reply is made (`packReply`; its bytes in the statement of the layouts). -/
def Obligations.PackScanChecksAndAccepts : Prop :=
  ∀ (s : State) (tag : Byte),
    (∀ (form item : Nat), form < 256 → item < 4294967296 → canServe ⟨0x48, tag, bodyOf [(1, form), (4, item)]⟩ s = true →
      (s.clock.set = false → exec (.packScan tag (bodyOf [(1, form), (4, item)])) s = .next (s.replied 0xC8 tag [0x0A])) ∧
      (s.clock.set = true → form ≠ 1 → form ≠ 2 → exec (.packScan tag (bodyOf [(1, form), (4, item)])) s = .next (s.replied 0xC8 tag [0x05]))) ∧
    (∀ serial : Nat, serial < 4294967296 → s.clock.set = true → canServe ⟨0x48, tag, bodyOf [(1, 1), (4, serial)]⟩ s = true →
      let reply := fun (t : State) (data : List Byte) => exec (.packScan tag (bodyOf [(1, 1), (4, serial)])) s = .next (t.replied 0xC8 tag data)
      (serial = 0 → reply s [0x05]) ∧
      (serial ≠ 0 → findCart s serial = none → reply s [0x02]) ∧
      ∀ c, serial ≠ 0 → findCart s serial = some c →
        (c.state ≠ .written → reply s [0x09, 0x01, BitVec.ofNat 8 (cartStateCode c.state)]) ∧
        (c.state = .written →
          (∀ a, strongestAction s c = some a → a ≠ .count →
            let gone := (countMatches c s).withCart (some serial) fun r =>
              { r with state := if a = .withdraw then .withdrawn else .quarantined, shipment := none, job := none }
            let data := [0x09, 0x02, BitVec.ofNat 8 (actionCode a)]
            (∀ j, c.job = some j.number → findJob s j.number = some j → reply (dropLine j (deleteJob j.number gone)) data) ∧
            ((∀ j, c.job = some j → findJob s j = none) → reply gone data)) ∧
          (strongestAction s c = none ∨ strongestAction s c = some .count → ∀ sh, c.shipment = some sh.number → findShipment s sh.number = some sh →
            (fitting s sh.number 1 = none → 2048 ≤ s.containers.length → reply s [0x03]) ∧
            (fitting s sh.number 1 ≠ none ∨ s.containers.length < 2048 →
              let packed := ((countMatches c s).withCart (some serial) fun r => { r with state := .packed }).withShipment sh.number fun x =>
                { x with toScan := x.toScan - 1 }
              let p := placeItem sh (.cartridge serial) packed
              let t := sealAfter sh.number p.container p.sealedOld p.state
              reply t (0x00 :: packReply t sh.number p.container p.sealedOld))))) ∧
    ∀ id volume : Nat, id < 16777216 → volume < 256 → s.clock.set = true → canServe ⟨0x48, tag, bodyOf [(1, 2), (3, id), (1, volume)]⟩ s = true →
      let reply := fun (t : State) (data : List Byte) => exec (.packScan tag (bodyOf [(1, 2), (3, id), (1, volume)])) s = .next (t.replied 0xC8 tag data)
      (id < 1 ∨ volume < 1 ∨ 12 < volume → reply s [0x05]) ∧
      (1 ≤ id → 1 ≤ volume → volume ≤ 12 → findCopy s id = none → reply s [0x02]) ∧
      ∀ c, 1 ≤ id → 1 ≤ volume → volume ≤ 12 → findCopy s id = some c →
        let open_ := c.state = .allocated ∨ (c.state = .packed ∧ (c.marks.filter fun m => m).length < c.volumes)
        (c.volumes < volume → reply s [0x05]) ∧
        (volume ≤ c.volumes → ¬open_ → reply s [0x09, 0x01, BitVec.ofNat 8 (copyStateCode c.state)]) ∧
        (volume ≤ c.volumes → open_ → c.marks[volume - 1]? = some true → reply s [0x06]) ∧
        (volume ≤ c.volumes → open_ → c.marks[volume - 1]? ≠ some true → ∀ sh, c.shipment = some sh.number → findShipment s sh.number = some sh →
          (fitting s sh.number 8 = none → 2048 ≤ s.containers.length → reply s [0x03]) ∧
          (fitting s sh.number 8 ≠ none ∨ s.containers.length < 2048 →
            let packed := State.withShipment { s.withCopy id fun d => { d with state := .packed, marks := d.marks.set (volume - 1) true } with
              pickList := s.pickList.filter fun m => m ≠ id } sh.number fun x => { x with toScan := x.toScan - 1 }
            let p := placeItem sh (.volume id volume) packed
            let t := sealAfter sh.number p.container p.sealedOld p.state
            reply t (0x00 :: packReply t sh.number p.container p.sealedOld)))

/-- Containers (R46, R134, R139, R140, R145, R146, R156), over the operations that PACK SCAN cites, and the pack deadline: an item joins the OPEN container it fits in, or a new one opened
after that container is sealed as it stands, under the counter's number or, where that is held, under a free one (R133: held by no container and by no released entry; the tables
hold 2,048 containers and, by R45 and R136, 42 entries for each of 1,024 shipments); the last item seals it as FINAL with its shipment, a full one is sealed; a sealed one takes a seal number and joins the OPEN batch. A container
whose deadline has come is dissolved: its items are to be scanned again, its entry and its record go, a volume's mark is cleared, a copy with no mark left is
ALLOCATED at the pick list's tail, and a shipment left without containers is READY or ASSEMBLING. When a scan seals a second container, a cut-off that is due may be taken between
the two seals (R156); whether it is, is a free value (log 35), of which nothing is said. -/
def Obligations.ContainersFillSealAndDissolve : Prop :=
  (∀ (s : State) (n units : Nat), fitting s n units = (s.containers.find? fun c => c.shipment = n ∧ c.state = .open).filter fun c =>
    c.units + units ≤ (match c.kind with
      | .pouch => 3
      | .carton => 24)) ∧
  (∀ s : State,
    let held := s.containers.map (·.number) ++ s.shipments.flatMap fun sh => (sh.containers.filter fun e => e.released = true).map (·.number)
    (s.containerCounter ∉ held → newContainerNumber s = s.containerCounter) ∧ (held.length < 65535 → newContainerNumber s ∉ held)) ∧
  (∀ (s : State) (sh : Shipment) (i : Item),
    let units := match i with
      | .cartridge _ => 1
      | .volume _ _ => 8
    let kind : ContainerKind := match i with
      | .cartridge _ => if sh.copyLines = [] then .pouch else .carton
      | .volume _ _ => .carton
    (∀ c, fitting s sh.number units = some c →
      placeItem sh i s = ⟨{ s with containers := s.containers.map fun d =>
        if d = c then { d with items := d.items ++ [i], units := d.units + units, lastScan := s.clock.day * 1440 + s.clock.minute } else d },
        c.number, 0⟩) ∧
    (fitting s sh.number units = none →
      let old := s.containers.find? fun c => c.shipment = sh.number ∧ c.state = .open
      let u := match old with
        | some c => sealContainer c.number false s
        | none => s
      let n := newContainerNumber s
      ∃ before behind, u.containers = before ++ behind ∧ (∀ c ∈ before, c.number ≤ n) ∧ (∀ c, behind.head? = some c → n < c.number) ∧
        placeItem sh i s = ⟨State.withShipment { u with
            containers := before ++ ⟨n, sh.number, kind, sh.containers.length + 1, units, [i], .open, none,
              u.clock.day * 1440 + u.clock.minute, none, none, false⟩ :: behind
            containerCounter := if n < 65535 then n + 1 else 1 } sh.number fun x =>
              { x with state := .packing, containers := x.containers ++ [⟨n, false⟩] },
          n, (old.map (·.number)).getD 0⟩)) ∧
  (∀ (s : State) (sh : Shipment) (c : Container) (old : Nat), findShipment s sh.number = some sh → findContainer s c.number = some c →
    let second := if old = 0 then s else betweenSeals s
    (sh.toScan = 0 → sealAfter sh.number c.number old s =
      ((sealContainer c.number true second).withShipment sh.number fun x => { x with state := .sealed }).flagged .shipmentSealed) ∧
    (sh.toScan ≠ 0 → c.units = (if c.kind = .pouch then 3 else 24) → sealAfter sh.number c.number old s = sealContainer c.number false second) ∧
    (sh.toScan ≠ 0 → c.units ≠ (if c.kind = .pouch then 3 else 24) → sealAfter sh.number c.number old s = { s with
      containers := s.containers.map fun d => if d.number = c.number then
        { d with deadline := if readyToPack s sh then some (s.clock.day * 1440 + s.clock.minute + 30) else none } else d })) ∧
  (∀ s : State,
    ((∀ b ∈ s.batches, b.state ≠ .open) → betweenSeals s = s) ∧
    ∀ b : Batch, s.batches.find? (fun b => b.state = .open) = some b →
      (s.clock.set = false ∨ b.late = true ∨ s.clock.day * 1440 + s.clock.minute < b.cutoff → betweenSeals s = s) ∧
      (s.clock.set = true → b.late = false → b.cutoff ≤ s.clock.day * 1440 + s.clock.minute →
        let chosen := { s with choices := s.choices + 1 }
        betweenSeals s = chosen ∨ betweenSeals s = cutoffReached chosen)) ∧
  (∀ (s : State) (n : Nat) (final : Bool), sealContainer n final s = takeSealed n { s with
    containers := s.containers.map fun c => if c.number = n then
      { c with state := .sealed, sealNo := some s.sealCounter, deadline := none, final := c.final || final } else c
    sealCounter := if s.sealCounter < 4294967295 then s.sealCounter + 1 else 1 }) ∧
  (∀ (s : State) (c : Container), dissolve c s = afterDissolve c.shipment
    { ((c.items.foldl unpackItem s).withShipment c.shipment fun x =>
        { x with toScan := x.toScan + c.items.length, containers := x.containers.filter fun e => e.number ≠ c.number }) with
      containers := s.containers.filter fun d => d.number ≠ c.number }) ∧
  (∀ (s : State) (n : Nat), unpackItem s (.cartridge n) = s.withCart (some n) fun r => { r with state := if r.state = .packed then .written else r.state }) ∧
  (∀ (s : State) (c : Copy) (volume : Nat), findCopy s c.id = some c →
    let cleared := fun d : Copy => { d with marks := d.marks.set (volume - 1) false }
    (c.state = .packed → (∀ m ∈ (cleared c).marks, m = false) → unpackItem s (.volume c.id volume) =
      { s.withCopy c.id fun d => { cleared d with state := .allocated } with pickList := s.pickList ++ [c.id] }) ∧
    (c.state ≠ .packed ∨ true ∈ (cleared c).marks → unpackItem s (.volume c.id volume) = s.withCopy c.id cleared)) ∧
  (∀ (s : State) (sh : Shipment), findShipment s sh.number = some sh →
    let written := ∀ l ∈ sh.jobLines, ∃ j serial c, findJob s l.job = some j ∧ j.state = .done ∧ j.serial = some serial ∧
      findCart s serial = some c ∧ c.state = .written
    let becomes := fun st : ShipmentState => s.withShipment sh.number fun x => { x with state := st }
    (sh.containers = [] → sh.state = .packing → written → afterDissolve sh.number s = (becomes .ready).flagged .shipmentReady) ∧
    (sh.containers = [] → sh.state = .packing → ¬written → afterDissolve sh.number s = becomes .assembling) ∧
    (sh.containers ≠ [] ∨ sh.state ≠ .packing → afterDissolve sh.number s = s)) ∧
  ∀ (s : State) (n : Nat) (c : Container), s.power = true →
    (findContainer s n = none → exec (.packTimeout n) s = .next s.stamped) ∧
    (findContainer s n = some c → ∀ due, c.deadline = some due →
      (c.state = .open → due ≤ s.clock.day * 1440 + s.clock.minute → exec (.packTimeout n) s = .next (dissolve c s).stamped) ∧
      (c.state ≠ .open ∨ s.clock.day * 1440 + s.clock.minute < due → exec (.packTimeout n) s = .next s.stamped)) ∧
    (findContainer s n = some c → c.deadline = none → exec (.packTimeout n) s = .next s.stamped)

/-! ## Calendar, batches, release (R150-R164) -/

/-- The clock (R150, R151, R162): CLOCK SET takes the day and minute, runs the sweep if the day is later, and lets the cut-off, the batch table and the pack deadlines follow; the timebase
advances a set clock by a minute, with the sweep at each new day, up to day 65,535, minute 1,439. The sweep marks each loan past its due day once, and always sets SWEEP DONE. DEDUCED (log 21): MINUTE_ADVANCE
changes the clock and runs the sweep alone, in the minute of a cut-off or a pack deadline too; BATCH_CUTOFF and PACK_TIMEOUT are the commands of what R155 and R145 have happen then. MODEL'S CHOICE (log 39): CLOCK SET dissolves several containers
whose deadlines have come in ascending container number, which fixes the pick list's order. -/
def Obligations.ClockAndSweep : Prop :=
  (∀ (s : State) (tag : Byte) (day minute : Nat), day < 65536 → minute < 65536 → canServe ⟨0x01, tag, bodyOf [(2, day), (2, minute)]⟩ s = true →
    let reply := fun (t : State) (status : Byte) => exec (.clockSet tag (bodyOf [(2, day), (2, minute)])) s = .next (t.replied 0x81 tag [status])
    (1439 < minute → reply s 0x05) ∧
    (minute ≤ 1439 →
      let put : State := { s with clock := ⟨day, minute, true⟩ }
      let shown := if s.clock.set then put else put.noted .clockUnset
      reply (dissolveDue (createBatch (cutoffReached (if s.clock.day < day then sweep shown else shown)))) 0x00)) ∧
  (∀ s : State, s.power = true →
    (s.clock.set = false → exec .minuteAdvance s = .next s.stamped) ∧
    (s.clock.set = true → s.clock.minute < 1439 →
      exec .minuteAdvance s = .next { s with clock := ⟨s.clock.day, s.clock.minute + 1, true⟩ }.stamped) ∧
    (s.clock.set = true → s.clock.minute = 1439 → s.clock.day < 65535 →
      exec .minuteAdvance s = .next (sweep { s with clock := ⟨s.clock.day + 1, 0, true⟩ }).stamped) ∧
    (s.clock.set = true → s.clock.minute = 1439 → s.clock.day = 65535 → exec .minuteAdvance s = .next s.stamped)) ∧
  (∀ s : State, sweep s = (s.loans.foldl sweepLoan s).flagged .sweepDone) ∧
  (∀ (s : State) (l : Loan),
    (l.due < s.clock.day → l.overdue = false → sweepLoan s l = State.withPatron { s with
      loans := s.loans.map fun m => if m.item = l.item then { m with overdue := true } else m } l.patron fun p =>
        { p with overdue := p.overdue + 1, state := if p.state = .active ∧ 3 ≤ p.overdue + 1 then .overdueHold else p.state }) ∧
    (s.clock.day ≤ l.due ∨ l.overdue = true → sweepLoan s l = s)) ∧
  ∀ s : State, dissolveDue s =
    (s.containers.filter fun c => c.state = .open ∧ ∃ due, c.deadline = some due ∧ due ≤ s.clock.day * 1440 + s.clock.minute).foldl (fun t c => dissolve c t) s

/-- Cut-offs and batches (R152, R154, R155, R156): CUTOFF SET keeps the minutes sorted without repeats; the next cut-off is the earliest listed minute after now; a batch opens when the clock is
set, there is a next cut-off, none is OPEN and there is room, and the sealed containers join it in seal order; at its cut-off it closes, or turns LATE when the table is full and cut-offs are listed. A LATE
batch closes when the list is emptied, but not while the clock is unset (R165; the MODEL'S CHOICE against R152, log 37). -/
def Obligations.CutoffsAndBatches : Prop :=
  (∀ (s : State) (tag : Byte) (l : List Nat), l.length < 256 → (∀ m ∈ l, m < 65536) →
    let body := bodyOf ((1, l.length) :: l.map fun m => (2, m))
    canServe ⟨0x02, tag, body⟩ s = true →
    (4 < l.length ∨ (∃ m ∈ l, 1440 ≤ m) → exec (.cutoffSet tag body) s = .next (s.replied 0x82 tag [0x05])) ∧
    (l.length ≤ 4 → (∀ m ∈ l, m < 1440) → ∃ kept : List Nat, kept.Pairwise (· < ·) ∧ (∀ m, m ∈ kept ↔ m ∈ l) ∧
      let t : State := { s with cutoffs := kept }
      exec (.cutoffSet tag body) s = .next ((createBatch (if kept = [] then closeIfLate t else t)).replied 0x82 tag
        (0x00 :: BitVec.ofNat 8 kept.length :: kept.flatMap (leBytes 2))))) ∧
  (∀ s : State, s.Legal →
    let cut := fun t : Nat => ∃ day m, day ≤ 65535 ∧ m ∈ s.cutoffs ∧ t = day * 1440 + m
    let now := s.clock.day * 1440 + s.clock.minute
    (∀ t, nextCutoff s = some t → cut t ∧ now < t ∧ ∀ u, cut u → now < u → t ≤ u) ∧ (nextCutoff s = none → ∀ u, cut u → u ≤ now)) ∧
  (∀ s : State,
    (s.clock.set = false ∨ nextCutoff s = none ∨ (∃ b ∈ s.batches, b.state = .open) ∨ 8 ≤ s.batches.length → createBatch s = s) ∧
    ∀ t, s.clock.set = true → nextCutoff s = some t → (∀ b ∈ s.batches, b.state ≠ .open) → s.batches.length < 8 →
      let n := newBatchNumber s
      (∀ b ∈ s.batches, b.number ≠ n) ∧
      ∃ (waiting : List Container) (before behind : List Batch), waiting.Perm (s.containers.filter fun c => c.state = .sealed) ∧
        waiting.Pairwise (fun c d => c.sealNo.getD 0 ≤ d.sealNo.getD 0) ∧ s.batches = before ++ behind ∧
        (∀ b ∈ before, b.cutoff ≤ t) ∧ (∀ b, behind.head? = some b → t < b.cutoff) ∧
        createBatch s = waiting.foldl (fun u c => joinBatch c.number n u) { s with
          batches := before ++ ⟨n, t, .open, 0, false⟩ :: behind
          batchCounter := if n < 65535 then n + 1 else 1 }) ∧
  (∀ (s : State) (c n : Nat), joinBatch c n s = { s with
    containers := s.containers.map fun d => if d.number = c then { d with state := .batched, batch := some n } else d
    batches := s.batches.map fun b => if b.number = n then { b with count := b.count + 1 } else b }) ∧
  ∀ s : State,
    ((∀ b ∈ s.batches, b.state ≠ .open) → (∀ c, takeSealed c s = s) ∧ closeIfLate s = s ∧ (s.power = true → exec .batchCutoff s = .next s.stamped)) ∧
    ∀ b : Batch, s.batches.find? (fun b => b.state = .open) = some b →
      let closed := createBatch (State.flagged { s with
        batches := s.batches.map fun x => if x.number = b.number then { x with state := .closed } else x } .batchClosed)
      (∀ c, takeSealed c s = joinBatch c b.number s) ∧
      (s.clock.set = true → b.late = true → closeIfLate s = closed) ∧ (s.clock.set = false ∨ b.late = false → closeIfLate s = s) ∧
      (s.clock.set = true → b.cutoff ≤ s.clock.day * 1440 + s.clock.minute → s.batches.length < 8 ∨ s.cutoffs = [] → cutoffReached s = closed) ∧
      (s.clock.set = true → b.cutoff ≤ s.clock.day * 1440 + s.clock.minute → 8 ≤ s.batches.length → s.cutoffs ≠ [] → cutoffReached s = { s with
        batches := s.batches.map fun x => if x.number = b.number then { x with late := true } else x }) ∧
      (s.clock.set = false ∨ s.clock.day * 1440 + s.clock.minute < b.cutoff → cutoffReached s = s) ∧
      (s.power = true →
        (s.clock.set = false ∨ s.clock.day * 1440 + s.clock.minute < b.cutoff → exec .batchCutoff s = .next s.stamped) ∧
        (s.clock.set = true → b.cutoff ≤ s.clock.day * 1440 + s.clock.minute →
          (s.batches.length < 8 ∨ s.cutoffs = [] → exec .batchCutoff s = .next closed.stamped) ∧
          (8 ≤ s.batches.length → s.cutoffs ≠ [] → exec .batchCutoff s = .next (State.stamped { s with
            batches := s.batches.map fun x => if x.number = b.number then { x with late := true } else x }))))

/-- BATCH RELEASE (R157, R158, R159): the checks in order, then the loans of the batch's items in seal and scan order, the reading-list items struck, the containers deleted and their entries released,
the shipments with nothing left freed in order of creation, and the batch deleted. The reply counts containers, loans, list items and shipments. A copy of the batch goes out when all its volumes are
scanned and none lies in another container (R158). A shipment still PACKING that has so stopped being ready to pack has no pack deadline (R145). -/
def Obligations.BatchReleaseSendsOut : Prop :=
  (∀ (s : State) (tag : Byte) (n : Nat), n < 65536 → canServe ⟨0x51, tag, bodyOf [(2, n)]⟩ s = true →
    let reply := fun (t : State) (data : List Byte) => exec (.batchRelease tag (bodyOf [(2, n)])) s = .next (t.replied 0xD1 tag data)
    (s.clock.set = false → reply s [0x0A]) ∧
    (s.clock.set = true → (∀ b ∈ s.batches, b.number ≠ n) → reply s [0x02]) ∧
    ∀ b, s.clock.set = true → s.batches.find? (fun b => b.number = n) = some b →
      (b.state = .open → reply s [0x04]) ∧
      (b.state = .closed → ∃ boxes : List Container, boxes.Perm (s.containers.filter fun c => c.state = .batched ∧ c.batch = some n) ∧
        boxes.Pairwise (fun c d => c.sealNo.getD 0 ≤ d.sealNo.getD 0) ∧
        let items := boxes.flatMap fun c => c.items.map fun i => (i, c.shipment)
        let out := (batchCopies items).filter (goesOut s n)
        let loans := (items.filter fun x => match x.1 with
          | .cartridge _ => true
          | .volume _ _ => false).length + out.length
        (49152 < s.loans.length + loans → reply s [0x03]) ∧
        (s.loans.length + loans ≤ 49152 →
          let lent := items.foldl (lendItem out) s
          let struck := items.foldl strikeItems lent
          let dropped := (boxes.map (·.shipment)).foldl (fun t m => refreshDeadline m t) (dropContainers (boxes.map (·.number)) struck)
          let gone := dropped.shipments.filter fun sh => sh.number ∈ boxes.map (·.shipment) ∧ sh.state = .sealed ∧ ∀ e ∈ sh.containers, e.released = true
          reply (createBatch (closeIfLate { (gone.foldl freeReleased dropped) with
              batches := (gone.foldl freeReleased dropped).batches.filter fun x => x.number ≠ n }))
            (0x00 :: (leBytes 2 boxes.length ++ leBytes 2 loans ++ leBytes 2 (itemsUsed lent - itemsUsed struck) ++ leBytes 2 gone.length))))) ∧
  (∀ items : List (Item × Nat), (batchCopies items).Nodup ∧ ∀ id, id ∈ batchCopies items ↔ ∃ volume sh, (Item.volume id volume, sh) ∈ items) ∧
  (∀ (s : State) (n id : Nat), goesOut s n id = true ↔
    ∃ c, findCopy s id = some c ∧ (c.marks.filter fun m => m = true).length = c.volumes ∧
      ∀ d ∈ s.containers, (∃ volume, Item.volume id volume ∈ d.items) → d.state = .batched ∧ d.batch = some n) ∧
  (∀ (s : State) (out : List Nat) (serial : Nat) (sh : Shipment), findShipment s sh.number = some sh →
    let t := lendItem out s (.cartridge serial, sh.number)
    { t with loans := s.loans } = s.withCart (some serial) (fun c => { c with state := .out }) ∧
    t.loans.Perm (⟨.cartridge serial, sh.patron, sh.number, s.clock.day, min 65535 (s.clock.day + s.cartridgePeriod), false⟩ :: s.loans)) ∧
  (∀ (s : State) (out : List Nat) (id volume sh n m : Nat) (c : Copy), findCopy s id = some c → c.patron = some n → c.shipment = some m →
    let t := lendItem out s (.volume id volume, sh)
    (id ∉ out ∨ c.state ≠ .packed → t = s) ∧
    (id ∈ out → c.state = .packed →
      { t with loans := s.loans } = s.withCopy id (fun d => { d with state := .out, marks := List.replicate d.volumes false }) ∧
      t.loans.Perm (⟨.copy id, n, m, s.clock.day, min 65535 (s.clock.day + s.copyPeriod), false⟩ :: s.loans))) ∧
  (∀ (s : State) (i : Item) (sh : Shipment), findShipment s sh.number = some sh →
    let carries := fun j : ListItem => match i with
      | .cartridge serial => (findCart s serial).elim false fun c => decide (∃ q ∈ c.content, j.title = q.key.title ∧ j.medium = q.key.medium)
      | .volume id _ => (findCopy s id).elim false fun c => decide (j.title = c.title ∧ j.medium = .embossed)
    strikeItems s (i, sh.number) =
      s.withPatron sh.patron fun p => { p with list := p.list.filter fun j => ¬(j.state = .inShipment ∧ carries j = true) }) ∧
  (∀ (s : State) (gone : List Nat), dropContainers gone s = { s with
    containers := s.containers.filter fun c => c.number ∉ gone
    shipments := s.shipments.map fun sh => { sh with
      containers := sh.containers.map fun e => { e with released := e.released || decide (e.number ∈ gone) } } }) ∧
  ∀ (s : State) (sh : Shipment), findShipment s sh.number = some sh →
    let u := sh.jobLines.foldl (fun t l => deleteJob l.job t) s
    freeReleased s sh = appendEligible sh.patron (State.withPatron { u with shipments := s.shipments.filter fun x => x.number ≠ sh.number } sh.patron fun p =>
      { p with shipment := none })

/-! ## Returns, recall filters, counters (R163, R166-R180) -/

/-- RETURN SCAN (R166-R171, R174, R178) and LOAN WRITE OFF (R163): the refusals, the class of each scan, and what a scan or a write-off that closes a loan does: the item's new state, the commitment
and the overdue count of the patron, the overdue hold, hold service, the append of R34, the counters and the reply. -/
def Obligations.ReturnsCloseLoans : Prop :=
  (∀ (s : State) (tag : Byte) (form item damaged : Nat), form < 256 → item < 4294967296 → damaged < 256 →
    let body := bodyOf [(1, form), (4, item), (1, damaged)]
    canServe ⟨0x58, tag, body⟩ s = true →
    let reply := fun (t : State) (data : List Byte) => exec (.returnScan tag body) s = .next (t.replied 0xD8 tag data)
    let unlent := fun (k st : Byte) => [0x00, k, st, 0, 0, 0, 0, 0, 0, 0, 0, 0, 0, 0, 0, 0, 0, 0, 0, 0, 0, 255, 255]
    let bad := (form ≠ 1 ∧ form ≠ 2) ∨ item = 0 ∨ (form = 2 ∧ 16777215 < item) ∨ 1 < damaged
    let passed := fun (l : Loan) (late : Nat) => leBytes 3 l.patron ++ leBytes 2 l.shipment ++ leBytes 2 l.dayOut ++ leBytes 2 l.due ++
      leBytes 1 (if l.overdue then 1 else 0) ++ leBytes 2 late
    (s.clock.set = false → reply s [0x0A]) ∧
    (s.clock.set = true → bad → reply s [0x05]) ∧
    (s.clock.set = true → ¬bad →
      ((form = 1 ∧ findCart s item = none) ∨ (form = 2 ∧ findCopy s item = none) →
        reply { s with counters := { s.counters with unknown := min 4294967295 (s.counters.unknown + 1) } } (unlent 1 0)) ∧
      (∀ st, (form = 1 ∧ findLoan s (.cartridge item) = none ∧ ∃ c, findCart s item = some c ∧ cartStateCode c.state = st) ∨
          (form = 2 ∧ findLoan s (.copy item) = none ∧ ∃ c, findCopy s item = some c ∧ copyStateCode c.state = st) →
        reply { s with counters := { s.counters with notOut := min 4294967295 (s.counters.notOut + 1) } } (unlent 2 (BitVec.ofNat 8 st))) ∧
      (form = 1 → ∀ c l, findCart s item = some c → findLoan s (.cartridge item) = some l →
        let class_ := if (∃ f ∈ slotList s, slotMatches c f = true ∧ f.action ≠ .count) then ReturnClass.recalled
          else if damaged = 1 then .damaged else if 500 ≤ c.wear then .worn else if l.due < s.clock.day then .late else .onTime
        let st := match class_ with
          | .recalled => if ∃ f ∈ slotList s, slotMatches c f = true ∧ f.action = .withdraw then CartState.withdrawn else .quarantined
          | .damaged => .withdrawn
          | .worn => .withdrawn
          | _ => .returned
        reply (countClosed class_ l (appendEligible l.patron (closeLoan l ((countMatches c s).withCart (some item) fun r =>
            { r with state := st, shipment := none, job := none }))))
          (0x00 :: (leBytes 1 (returnCode class_) ++ leBytes 1 (cartStateCode st) ++ [0, 0, 0, 0, 0] ++
            passed l (if class_ = .late then s.clock.day - l.due else 0) ++ filterReply s c))) ∧
      (form = 2 → ∀ c l, findCopy s item = some c → findLoan s (.copy item) = some l →
        let class_ := if damaged = 1 then ReturnClass.damaged else if l.due < s.clock.day then .late else .onTime
        let t := countClosed class_ l (appendEligible l.patron (
          if damaged = 1 then (closeLoan l s).withCopy item fun d => { d with state := .withdrawn, patron := none, shipment := none }
          else toShelf item (closeLoan l s)))
        reply t (0x00 :: (leBytes 1 (returnCode class_) ++ copyReply t item ++ passed l (if class_ = .late then s.clock.day - l.due else 0) ++ [0, 255, 255]))))) ∧
  (∀ (s : State) (tag : Byte) (form item : Nat), form < 256 → item < 4294967296 → canServe ⟨0x53, tag, bodyOf [(1, form), (4, item)]⟩ s = true →
    let reply := fun (t : State) (status : Byte) => exec (.loanWriteOff tag (bodyOf [(1, form), (4, item)])) s = .next (t.replied 0xD3 tag [status])
    ((form ≠ 1 ∧ form ≠ 2) ∨ item = 0 ∨ (form = 2 ∧ 16777215 < item) → reply s 0x05) ∧
    (form = 1 → item ≠ 0 →
      (findLoan s (.cartridge item) = none → reply s 0x02) ∧
      ∀ l, findLoan s (.cartridge item) = some l → l.item = .cartridge item →
        reply (appendEligible l.patron (closeLoan l (s.withCart (some item) fun c => { c with state := .withdrawn, shipment := none, job := none }))) 0x00) ∧
    (form = 2 → item ≠ 0 → item ≤ 16777215 →
      (findLoan s (.copy item) = none → reply s 0x02) ∧
      ∀ l, findLoan s (.copy item) = some l → l.item = .copy item →
        reply (appendEligible l.patron (closeLoan l (s.withCopy item fun c => { c with state := .withdrawn, patron := none, shipment := none }))) 0x00)) ∧
  (∀ (s : State) (l : Loan), closeLoan l s = State.withPatron { s with loans := s.loans.filter fun m => m.item ≠ l.item } l.patron fun p =>
    let carts := match l.item with
      | .cartridge _ => p.commCarts - 1
      | .copy _ => p.commCarts
    let copies := match l.item with
      | .cartridge _ => p.commCopies
      | .copy _ => p.commCopies - 1
    let overdue := if l.overdue then p.overdue - 1 else p.overdue
    { p with
      commCarts := carts
      commCopies := copies
      overdue := overdue
      state := if p.state = .overdueHold ∧ overdue < 3 then .active else p.state }) ∧
  ∀ (s : State) (l : Loan) (k : ReturnClass),
    let add := fun n by_ : Nat => min 4294967295 (n + by_)
    countClosed k l s = { s with counters :=
      { s.counters with
        recalled := if k = .recalled then add s.counters.recalled 1 else s.counters.recalled
        unknown := if k = .unknown then add s.counters.unknown 1 else s.counters.unknown
        notOut := if k = .notOut then add s.counters.notOut 1 else s.counters.notOut
        damaged := if k = .damaged then add s.counters.damaged 1 else s.counters.damaged
        worn := if k = .worn then add s.counters.worn 1 else s.counters.worn
        late := if k = .late then add s.counters.late 1 else s.counters.late
        onTime := if k = .onTime then add s.counters.onTime 1 else s.counters.onTime
        lateDays := if k = .late then add s.counters.lateDays (s.clock.day - l.due) else s.counters.lateDays
        loanDays := if k = .late ∨ k = .onTime then add s.counters.loanDays (s.clock.day - l.dayOut) else s.counters.loanDays } }

/-- The recall filters (R172, R173, R175, R176, R177) and the counters (R180): when a cartridge matches a slot, the strongest action, what a match counts, and RECALL SET, RECALL CLEAR and COUNTERS CLEAR. -/
def Obligations.RecallFiltersAndCounters : Prop :=
  (∀ (c : Cartridge) (f : RecallSlot), slotMatches c f = true ↔ f.enabled = true ∧
    (∃ p ∈ c.content, (f.title = 0 ∨ f.title = p.key.title) ∧ (f.medium = 0 ∨ f.medium = mediumCode p.key.medium) ∧ (f.edition = 0 ∨ f.edition = p.key.edition)) ∧
    (f.day = 0 ∨ ∃ day, c.dupDay = some day ∧ day ≤ f.day)) ∧
  (∀ (s : State) (c : Cartridge), strongestAction s c =
    if ∃ f ∈ slotList s, slotMatches c f = true ∧ f.action = .withdraw then some .withdraw
    else if ∃ f ∈ slotList s, slotMatches c f = true ∧ f.action = .quarantine then some .quarantine
    else if ∃ f ∈ slotList s, slotMatches c f = true ∧ f.action = .count then some .count else none) ∧
  (∀ (s : State) (c : Cartridge), { countMatches c s with slots := s.slots } = s ∧ ∀ i : Fin 16,
    (countMatches c s).slots[i] = if slotMatches c s.slots[i] = true then { s.slots[i] with hits := min 4294967295 (s.slots[i].hits + 1) } else s.slots[i]) ∧
  (∀ (s : State) (tag : Byte) (slot enabled title medium edition day action : Nat), slot < 256 → enabled < 256 → title < 16777216 → medium < 256 →
    edition < 256 → day < 65536 → action < 256 →
    let body := bodyOf [(1, slot), (1, enabled), (3, title), (1, medium), (1, edition), (2, day), (1, action)]
    canServe ⟨0x59, tag, body⟩ s = true →
    let bad := 15 < slot ∨ 1 < enabled ∨ 999999 < title ∨ 2 < medium ∨ action < 1 ∨ 3 < action ∨ (title = 0 ∧ medium = 0 ∧ edition = 0 ∧ day = 0)
    (bad → exec (.recallSet tag body) s = .next (s.replied 0xD9 tag [0x05])) ∧
    (¬bad → ∀ i : Fin 16, i.val = slot → ∀ a : RecallAction, actionCode a = action →
      exec (.recallSet tag body) s = .next
        ({ s with slots := s.slots.set i.val ⟨decide (enabled = 1), title, medium, edition, day, a, 0⟩ }.replied 0xD9 tag [0x00]))) ∧
  (∀ (s : State) (tag : Byte) (slot : Nat), slot < 256 → canServe ⟨0x5A, tag, bodyOf [(1, slot)]⟩ s = true →
    (15 < slot → slot ≠ 255 → exec (.recallClear tag (bodyOf [(1, slot)])) s = .next (s.replied 0xDA tag [0x05])) ∧
    (slot = 255 → exec (.recallClear tag (bodyOf [(1, slot)])) s = .next
      ({ s with slots := Vector.replicate 16 ⟨false, 0, 0, 0, 0, .count, 0⟩ }.replied 0xDA tag [0x00])) ∧
    ∀ i : Fin 16, i.val = slot → exec (.recallClear tag (bodyOf [(1, slot)])) s = .next
      ({ s with slots := s.slots.set i.val ⟨false, 0, 0, 0, 0, .count, 0⟩ }.replied 0xDA tag [0x00])) ∧
  ∀ (s : State) (tag : Byte), canServe ⟨0x5C, tag, []⟩ s = true → ∃ t : State, exec (.countersClear tag []) s = .next (t.replied 0xDC tag [0x00]) ∧
    t.counters = ⟨0, 0, 0, 0, 0, 0, 0, 0, 0⟩ ∧ (∀ i : Fin 16, t.slots[i] = { s.slots[i] with hits := 0 }) ∧
    { t with counters := s.counters, slots := s.slots } = s

/-! ## The queries (R8, R32, R38, R51, R67, R95, R112-R114, R129-R131, R148, R164, R179) -/

/-- The queries of one record (R8, R32, R51, R67, R95, R112, R148, R164): RANGE for a field out of range, NOT FOUND where the table holds no such record, otherwise OK with the record in the
layout of R193 that another statement gives (log 12); none of them changes anything but that its reply is made ready. A BAY QUERY of bay 255 asks for the rack; a CARTRIDGE QUERY, LOAN QUERY form byte above the last form
is answered RANGE, and so, before any lookup, is a TITLE QUERY whose medium code the list does not name (MODEL'S CHOICE, log 17). -/
def Obligations.RecordQueries : Prop :=
  ∀ (s : State) (tag : Byte),
    let asked := fun (c : Byte → List Byte → Instr) (kind : Byte) (fields : List (Nat × Nat)) (body : List Byte) =>
      canServe ⟨kind, tag, bodyOf fields⟩ s = true → exec (c tag (bodyOf fields)) s = .next (s.replied (kind + 0x80) tag body)
    (∀ title medium edition start : Nat, title < 16777216 → medium < 256 → edition < 256 → start < 65536 →
      let asks := asked .titleQuery 0x12 [(3, title), (1, medium), (1, edition), (2, start)]
      (medium = 0 ∨ 3 < medium → asks [0x05]) ∧
      ∀ m : Medium, mediumCode m = medium →
        let found := if edition = 0 then s.titles.find? fun e : TitleEntry => e.key.title = title ∧ e.key.medium = m ∧ e.state = TitleState.ready
          else findTitle s ⟨title, m, edition⟩
        (found = none → asks [0x02]) ∧
        ∀ e, found = some e → (e.size ≤ start → asks [0x05]) ∧ (start < e.size → asks (0x00 :: titleData e start))) ∧
    (∀ n : Nat, n < 16777216 →
      (findPatron s n = none → asked .patronQuery 0x1C [(3, n)] [0x02]) ∧
      ∀ p, findPatron s n = some p → asked .patronQuery 0x1C [(3, n)] (0x00 :: patronData s p)) ∧
    (∀ n : Nat, n < 65536 →
      (findShipment s n = none → asked .shipmentQuery 0x30 [(2, n)] [0x02]) ∧
      ∀ sh, findShipment s n = some sh → asked .shipmentQuery 0x30 [(2, n)] (0x00 :: shipmentData s sh)) ∧
    (∀ n start : Nat, 0 < n → n < 65536 → start < 256 →
      (findJob s n = none → asked .jobQuery 0x32 [(2, n), (1, start)] [0x02]) ∧
      ∀ j, findJob s n = some j → asked .jobQuery 0x32 [(2, n), (1, start)] (0x00 :: jobData s j)) ∧
    (∀ n : Nat, 24 ≤ n → n < 255 → asked .bayQuery 0x38 [(1, n)] [0x05]) ∧
    (∀ b : BayId, asked .bayQuery 0x38 [(1, b.val)] (0x00 :: bayData (getBay s b))) ∧
    asked .bayQueryRack 0x38 [(1, 255)] (0x00 :: bayIds.flatMap fun b => rackData (getBay s b)) ∧
    (∀ form serial : Nat, form ≠ 1 → form ≠ 2 → form < 256 → serial < 4294967296 →
      let asks := asked .cartridgeQueryRecord 0x40 [(1, form), (4, serial)]
      (form ≠ 0 ∨ serial = 0 → asks [0x05]) ∧
      (form = 0 → serial ≠ 0 → (findCart s serial = none → asks [0x02]) ∧ ∀ c, findCart s serial = some c → asks (0x00 :: cartridgeData s c))) ∧
    (∀ n shipment : Nat, 0 < n → n < 65536 → shipment < 65536 →
      (findContainer s n = none → asked .containerQuery 0x49 [(2, n), (2, shipment)] [0x02]) ∧
      ∀ c, findContainer s n = some c → asked .containerQuery 0x49 [(2, n), (2, shipment)] (0x00 :: containerData s c)) ∧
    (∀ form kind item : Nat, form ≠ 1 → form < 256 → kind < 256 → item < 4294967296 →
      let asks := asked .loanQueryItem 0x52 [(1, form), (1, kind), (4, item)]
      (form ≠ 0 ∨ (kind ≠ 1 ∧ kind ≠ 2) ∨ item = 0 ∨ (kind = 2 ∧ 16777215 < item) → asks [0x05]) ∧
      ∀ i : LoanItem, form = 0 → item ≠ 0 → (kind = 1 ∧ i = .cartridge item) ∨ (kind = 2 ∧ item ≤ 16777215 ∧ i = .copy item) →
        (findLoan s i = none → asks [0x02]) ∧ ∀ l, findLoan s i = some l → asks (0x00 :: loanData s l))

/-- The queries of lists (R38, R67, R113, R114, R129, R130, R131, R148, R164, R179): the part of a table each reports, in order, from a start position (position 0 taken as 1) or a start number, with
the totals and the next number the rules name; layouts are the model's (log 12), and so is the next number, that of the next entry found (log 40). A container list has sequence numbers 1, 2, 3
and on (R136), a batch's containers stand by seal number (R164). What is spare (R111):
BLANK, RETURNED and FOULED records of the kind with the IN BAY ones whose bay waits or wipes without a job, less the QUEUED jobs. None of them changes anything but that its reply is made ready. -/
def Obligations.ListQueries : Prop :=
  ∀ (s : State) (tag : Byte),
    let asked := fun (c : Byte → List Byte → Instr) (kind : Byte) (fields : List (Nat × Nat)) (body : List Byte) =>
      canServe ⟨kind, tag, bodyOf fields⟩ s = true → exec (c tag (bodyOf fields)) s = .next (s.replied (kind + 0x80) tag body)
    let counts := fun k : Kind => [CartState.blank, .inBay, .written, .packed, .out, .returned, .fouled, .quarantined, .withdrawn].flatMap (fun st =>
          leBytes 2 (s.cartridges.filter fun c : Cartridge => c.kind = k ∧ c.state = st).length) ++
        leBytes 1 (s.cartridges.filter fun c : Cartridge => c.kind = k ∧ inBaySpare s c = true).length ++ leBytes 1 (queuedOf s k) ++ leBytes 2 (spareCount s k)
    (∀ c : Cartridge, inBaySpare s c = true ↔ c.state = .inBay ∧ ∃ b, c.bay = some b ∧ (getBay s b).job = none ∧
      ((getBay s b).state = .loaded ∨ (getBay s b).state = .wiping ∨ ((getBay s b).state = .paused ∧ (getBay s b).pausedFrom = some .wiping))) ∧
    (∀ k : Kind, queuedOf s k = (s.jobs.filter fun j => j.state = .queued ∧ j.kind = k).length ∧
      spareCount s k = (s.cartridges.filter fun c => c.kind = k ∧
        (c.state = .blank ∨ c.state = .returned ∨ c.state = .fouled ∨ inBaySpare s c = true)).length - queuedOf s k) ∧
    (∀ n : Nat, n < 16777216 →
      (findPatron s n = none → asked .listQuery 0x22 [(3, n)] [0x02]) ∧
      ∀ p, findPatron s n = some p → asked .listQuery 0x22 [(3, n)] (0x00 :: (leBytes 1 p.list.length ++ p.list.flatMap itemData))) ∧
    (∀ form title start : Nat, form ≠ 1 → form < 256 → title < 16777216 → start < 65536 →
      let asks := asked .holdQueryQueue 0x2A [(1, form), (3, title), (2, start)]
      (form ≠ 0 ∨ title = 0 ∨ 999999 < title → asks [0x05]) ∧
      (form = 0 → 0 < title → title ≤ 999999 →
        let queue := s.holds.filter fun h : Hold => h.title = title
        let listed := (queue.drop (start - 1)).take 48
        asks (0x00 :: ([CopyState.shelf, .reserved, .allocated, .packed, .out, .withdrawn].flatMap (fun st =>
            leBytes 2 (s.copies.filter fun c : Copy => c.title = title ∧ c.state = st).length) ++
          leBytes 2 queue.length ++ leBytes 2 (4096 - s.holds.length) ++ (leBytes 1 listed.length ++ listed.flatMap (holdData s)))))) ∧
    (∀ title start : Nat, title < 16777216 → start < 16777216 →
      let asks := asked .holdQueryCopies 0x2A [(1, 1), (3, title), (3, start)]
      (title = 0 ∨ 999999 < title → asks [0x05]) ∧
      (0 < title → title ≤ 999999 →
        let found := s.copies.filter fun c : Copy => c.title = title ∧ start ≤ c.id
        asks (0x00 :: (leBytes 1 (found.take 32).length ++ (found.take 32).flatMap heldCopyData ++
          leBytes 3 (((found.drop 32).head?.map (·.id)).getD 0))))) ∧
    (∀ start : Nat, start < 65536 →
      let listed := (s.pickList.drop (start - 1)).take 40
      asked .pickList 0x2B [(2, start)] (0x00 :: (leBytes 2 s.pickList.length ++ (leBytes 1 listed.length ++ listed.flatMap (pickData s))))) ∧
    (∀ start : Nat, start < 256 →
      let listed := ((jobQueue s).drop (start - 1)).take 24
      asked .jobQueryQueue 0x32 [(2, 0), (1, start)] (0x00 :: (leBytes 1 (jobQueue s).length ++ (leBytes 1 listed.length ++ listed.flatMap queuedData)))) ∧
    asked .cartridgeQuerySummary 0x40 [(1, 1)] (0x00 :: (counts .s ++ counts .l ++ leBytes 2 s.cartridges.length ++ leBytes 2 (32768 - s.cartridges.length))) ∧
    (∀ title medium edition start : Nat, title < 16777216 → medium < 256 → edition < 256 → start < 4294967296 →
      let asks := asked .cartridgeQuerySearch 0x40 [(1, 2), (3, title), (1, medium), (1, edition), (4, start)]
      (title = 0 ∨ 999999 < title ∨ (medium ≠ 1 ∧ medium ≠ 2) → asks [0x05]) ∧
      ∀ m : Medium, 0 < title → title ≤ 999999 → medium ≤ 2 → mediumCode m = medium →
        let found := s.cartridges.filter fun c : Cartridge => start ≤ c.serial ∧
          ∃ p ∈ c.content, p.key.title = title ∧ p.key.medium = m ∧ (edition = 0 ∨ p.key.edition = edition)
        asks (0x00 :: (leBytes 1 (found.take 32).length ++ (found.take 32).flatMap (foundData title m edition) ++
          leBytes 4 (((found.drop 32).head?.map (·.serial)).getD 0)))) ∧
    (∀ n : Nat, n < 65536 →
      let asks := asked .containerQueryShipment 0x49 [(2, 0), (2, n)]
      (n = 0 → asks [0x05]) ∧ (n ≠ 0 → findShipment s n = none → asks [0x02]) ∧
      ∀ sh, n ≠ 0 → findShipment s n = some sh →
        asks (0x00 :: (leBytes 1 (shipmentStateCode sh.state) ++ leBytes 1 sh.toScan ++
          (leBytes 1 (numbered sh.containers).length ++ (numbered sh.containers).flatMap fun e => entryData s e.1 e.2)))) ∧
    (∀ (l : List ContainerEntry) (i : Nat), (numbered l)[i]? = l[i]?.map fun e => (i + 1, e)) ∧
    (∀ n : Nat, (batchContainers s n).Perm (s.containers.filter fun c : Container => c.state = .batched ∧ c.batch = some n) ∧
      (batchContainers s n).Pairwise fun c d => c.sealNo.getD 0 ≤ d.sealNo.getD 0) ∧
    (∀ n start : Nat, 0 < n → n < 65536 → start < 65536 →
      let asks := asked .batchQuery 0x50 [(2, n), (2, start)]
      ((∀ b ∈ s.batches, b.number ≠ n) → asks [0x02]) ∧
      ∀ b, s.batches.find? (fun b => b.number = n) = some b →
        let listed := ((batchContainers s n).drop (start - 1)).take 64
        asks (0x00 :: (batchData b ++ (leBytes 1 listed.length ++ listed.flatMap batchedData)))) ∧
    (∀ start : Nat, start < 65536 →
      asked .batchQueryTable 0x50 [(2, 0), (2, start)] (0x00 :: (leBytes 2 s.clock.day ++ leBytes 2 s.clock.minute ++ leBytes 1 (if s.clock.set then 1 else 0) ++
        (leBytes 1 s.cutoffs.length ++ s.cutoffs.flatMap (leBytes 2)) ++
        leBytes 2 (s.containers.filter fun c : Container => c.state = .sealed).length ++
        (leBytes 1 s.batches.length ++ s.batches.flatMap batchData)))) ∧
    (∀ n start : Nat, n < 16777216 → start < 256 →
      let asks := asked .loanQueryPatron 0x52 [(1, 1), (3, n), (1, start)]
      (findPatron s n = none → asks [0x02]) ∧
      ∀ p, findPatron s n = some p →
        let loans := s.loans.filter fun l : Loan => l.patron = n
        let listed := (loans.drop (start - 1)).take 9
        asks (0x00 :: (leBytes 1 loans.length ++ leBytes 1 p.overdue ++ leBytes 1 (patronStateCode p.state) ++
          (leBytes 1 listed.length ++ listed.flatMap patronLoanData)))) ∧
    asked .countersRead 0x5B [] (0x00 :: ([s.counters.unknown, s.counters.notOut, s.counters.recalled, s.counters.damaged, s.counters.worn, s.counters.late, s.counters.onTime,
      s.counters.lateDays, s.counters.loanDays].flatMap (leBytes 4) ++ (slotList s).flatMap slotData))

/-- What replies carry (R192, R193, and the rules of the queries): the codes of every enumerated value in the order of the tables, then each record's fields in the order its
rule names them, each in its fewest bytes. An optional field has a presence byte and zeros when absent; a list has its count in front; an absent absolute minute is FFFFFFFFh.
MODEL'S CHOICE where R193 does not decide (log 12): which of several readings of a rule's list of fields is taken, and how a copy id or a released entry stands in its place. PACK SCAN's reply is
the table of 10.5, offset by offset, the status at 0 (R141); of RETURN SCAN's, what its own statement names: the copy's part and the recall filters' part (R171). -/
def Obligations.RepliesCarryTheirFields : Prop :=
  let opt := fun (w : Nat) (x : Option Nat) => bodyOf [(1, if x = none then 0 else 1), (w, x.getD 0)]
  let listed := fun l : List (List Byte) => bodyOf [(1, l.length)] ++ l.flatten
  let minute := fun x : Option Nat => bodyOf [(4, x.getD 0xFFFFFFFF)]
  let yes := fun b : Bool => if b = true then 1 else 0
  ([Kind.s, .l].map kindCode = [1, 2] ∧ [Medium.audio, .ebraille, .embossed].map mediumCode = [1, 2, 3] ∧ [Mode.auto, .onRequest].map modeCode = [1, 2] ∧
    [ContainerKind.pouch, .carton].map containerKindCode = [1, 2] ∧ [ResetCause.none, .power, .controller].map causeCode = [0, 1, 2] ∧
    [CartState.blank, .inBay, .written, .packed, .out, .returned, .fouled, .quarantined, .withdrawn].map cartStateCode = [1, 2, 3, 4, 5, 6, 7, 8, 9] ∧
    [CopyState.shelf, .reserved, .allocated, .packed, .out, .withdrawn].map copyStateCode = [1, 2, 3, 4, 5, 6] ∧
    [ReturnClass.unknown, .notOut, .recalled, .damaged, .worn, .late, .onTime].map returnCode = [1, 2, 3, 4, 5, 6, 7] ∧
    [RecallAction.count, .quarantine, .withdraw].map actionCode = [1, 2, 3] ∧
    [TitleState.surveying, .ready, .suspect, .retiring, .faulted].map titleStateCode = [1, 2, 3, 4, 5] ∧
    [TitleFault.shortMaster, .media, .badExtent, .noEnd].map titleFaultCode = [1, 2, 3, 4] ∧
    [PatronState.active, .suspended, .overdueHold].map patronStateCode = [1, 2, 3] ∧
    [ItemState.waiting, .awaitingMaster, .onHold, .reserved, .inShipment].map itemStateCode = [1, 2, 3, 4, 5] ∧
    [ShipmentState.assembling, .ready, .packing, .sealed].map shipmentStateCode = [1, 2, 3, 4] ∧ [JobState.queued, .assigned, .done].map jobStateCode = [1, 2, 3] ∧
    [BayState.absent, .outOfService, .empty, .identifying, .wiping, .loaded, .writing, .verifying, .paused, .done, .reject, .fault].map
      (fun st => (bayStateCode st, lampCode st)) =
        [(1, 1), (2, 1), (3, 2), (4, 3), (5, 3), (6, 4), (7, 3), (8, 3), (9, 5), (10, 6), (11, 7), (12, 8)] ∧
    [PausedFrom.wiping, .writing, .verifying].map pausedFromCode = [5, 7, 8] ∧
    [RejectReason.unreadable, .packed, .notReturned, .quarantined, .withdrawn, .registryFull, .inOtherBay].map rejectCode = [1, 2, 3, 4, 5, 6, 7] ∧
    [BayFault.wipeTimeout, .wipeFailure, .ackTimeout, .verify].map bayFaultCode = [1, 2, 3, 4] ∧
    [ContainerState.open, .sealed, .batched].map containerStateCode = [1, 2, 3] ∧ [BatchState.open, .closed].map batchStateCode = [1, 2]) ∧
  (∀ (e : TitleEntry) (start : Nat),
    let n := min 4096 (e.size - start)
    ∃ marks : List Byte, titleData e start =
        bodyOf [(3, e.key.title), (1, mediumCode e.key.medium), (1, e.key.edition), (2, e.size)] ++ listed (e.breaks.map fun k => bodyOf [(2, k)]) ++
        bodyOf [(3, e.indexBlock), (1, titleStateCode e.state), (1, e.extents.length), (2, e.occCount)] ++ listed (e.volOcc.map fun k => bodyOf [(2, k)]) ++
        bodyOf [(1, yes e.excess)] ++ opt 1 (e.fault.map titleFaultCode) ++ bodyOf [(2, e.refs), (2, e.progress), (4, e.seq), (2, n)] ++ marks ∧
      marks.length = (n + 7) / 8 ∧
      ∀ i x, marks[i / 8]? = some x → (x.getLsbD (i % 8) = true ↔ i < n ∧ start + i ∈ e.occupied)) ∧
  (∀ (s : State) (p : Patron), patronData s p =
    bodyOf [(3, p.number), (1, kindCode p.kind), (1, p.cartAllow), (1, p.embAllow), (1, modeCode p.mode), (1, patronStateCode p.state), (1, p.commCarts),
      (1, p.commCopies), (1, p.overdue)] ++ opt 2 p.shipment ++ bodyOf [(2, p.card), (1, p.list.length), (1, if p.number ∈ s.eligibility then 1 else 0)]) ∧
  (∀ i : ListItem, itemData i = bodyOf [(3, i.title), (1, mediumCode i.medium), (1, itemStateCode i.state), (2, i.day)]) ∧
  (∀ (s : State) (sh : Shipment), shipmentData s sh =
    bodyOf [(2, sh.number), (3, sh.patron), (1, shipmentStateCode sh.state)] ++
      listed (sh.jobLines.map fun l => bodyOf [(2, l.job), (1, l.index)] ++ opt 4 l.serial ++
        bodyOf [(1, ((findJob s l.job).map fun j => jobStateCode j.state).getD 0)] ++ opt 1 (((findJob s l.job).bind (·.bay)).map (·.val))) ++
      listed (sh.copyLines.map fun id => bodyOf [(3, id), (1, ((findCopy s id).map fun c => copyStateCode c.state).getD 0)]) ++
      minute sh.target ++ listed (sh.containers.map fun e => bodyOf [(2, e.number)]) ++ bodyOf [(1, sh.toScan)]) ∧
  (∀ (s : State) (j : Job), jobData s j =
    bodyOf [(2, j.number), (2, j.shipment), (1, j.index), (1, kindCode j.kind)] ++
      listed (j.parts.map fun p => bodyOf [(3, p.key.title), (1, mediumCode p.key.medium), (1, p.key.edition), (2, p.first), (2, p.count), (2, p.occ)]) ++
      bodyOf [(2, j.estimate)] ++ minute j.target ++ bodyOf [(1, yes j.requeued), (1, jobStateCode j.state)] ++ opt 1 (j.bay.map (·.val)) ++ opt 4 j.serial ++
      bodyOf [(1, if j.state = .queued then (jobQueue s).findIdx (fun k => k.number = j.number) + 1 else 0),
        (3, ((findShipment s j.shipment).map (·.patron)).getD 0)]) ∧
  (∀ j : Job, queuedData j =
    bodyOf [(2, j.number), (1, kindCode j.kind)] ++ minute j.target ++ bodyOf [(1, yes j.requeued), (2, j.shipment), (1, j.index), (2, j.estimate)]) ∧
  (∀ x : Bay, bayData x =
    bodyOf [(1, bayStateCode x.state), (1, lampCode x.state), (1, if x.state = .outOfService then 0 else 1), (1, yes x.present)] ++
      opt 4 x.occupant ++ opt 4 x.rejected ++ opt 1 (x.rejectReason.map rejectCode) ++ opt 1 (x.faultReason.map bayFaultCode) ++ opt 2 x.job ++
      bodyOf [(1, if x.job = none then 0 else x.writePos.part), (2, if x.job = none then 0 else x.writePos.block), (1, x.buffer.length),
        (3, x.checkList.length), (3, (x.checkList.filter fun e => e.passed = true).length),
        (1, ((x.readBack.bind fun n => x.checkList.find? fun e => e.block = n).map (·.rewrites)).getD 0), (1, x.faults)] ++
      opt 1 (x.pausedFrom.map pausedFromCode) ++ bodyOf [(2, if x.state = .wiping then x.wipeTimer / 1000 else 0)]) ∧
  (∀ x : Bay, rackData x = bodyOf [(1, bayStateCode x.state)] ++ opt 4 x.occupant ++ opt 2 x.job) ∧
  (∀ (s : State) (c : Cartridge), cartridgeData s c =
    bodyOf [(4, c.serial), (1, kindCode c.kind), (1, cartStateCode c.state)] ++ opt 1 (c.bay.map (·.val)) ++ opt 1 (c.entry.map cartStateCode) ++
      opt 2 c.shipment ++ opt 2 c.job ++
      listed (c.content.map fun p => bodyOf [(3, p.key.title), (1, mediumCode p.key.medium), (1, p.key.edition), (2, p.first), (2, p.count)]) ++
      opt 2 c.dupDay ++ bodyOf [(2, c.wear), (1, c.faults),
        (1, if c.state = .inBay then (c.bay.map fun b => bayStateCode (getBay s b).state).getD 0 else 0), (1, yes (inBaySpare s c))]) ∧
  (∀ (title edition : Nat) (m : Medium) (c : Cartridge), foundData title m edition c =
    bodyOf [(4, c.serial), (1, cartStateCode c.state), (1, ((c.content.find? fun p =>
      p.key.title = title ∧ p.key.medium = m ∧ (edition = 0 ∨ p.key.edition = edition)).map (·.key.edition)).getD 0)] ++ opt 2 c.dupDay) ∧
  (∀ (s : State) (h : Hold), holdData s h = bodyOf [(3, h.patron), (2, h.day), (1, ((findPatron s h.patron).map fun p => patronStateCode p.state).getD 0),
    (1, ((findPatron s h.patron).map fun p => p.embAllow - p.commCopies).getD 0)]) ∧
  (∀ c : Copy, heldCopyData c = bodyOf [(3, c.id), (1, c.volumes), (1, copyStateCode c.state), (1, (c.marks.filter fun m => m = true).length)] ++
    opt 3 c.patron ++ opt 2 c.shipment) ∧
  (∀ (s : State) (c : Copy), findCopy s c.id = some c → pickData s c.id =
    bodyOf [(3, c.id), (3, c.title), (1, c.volumes), (3, c.patron.getD 0), (2, c.shipment.getD 0)] ++ minute ((c.shipment.bind (findShipment s)).bind (·.target))) ∧
  (∀ (s : State) (c : Container),
    let cutoff := (s.batches.find? fun b => c.batch = some b.number).map (·.cutoff)
    (∀ sh p, findShipment s c.shipment = some sh → findPatron s sh.patron = some p → containerData s c =
      bodyOf [(2, c.number), (2, c.shipment), (1, containerKindCode c.kind), (1, c.seq), (1, c.units)] ++
        listed (c.items.map fun i => match i with
          | .cartridge serial => bodyOf [(1, 1), (4, serial)]
          | .volume id volume => bodyOf [(1, 2), (3, id), (1, volume)]) ++
        bodyOf [(1, containerStateCode c.state)] ++ opt 2 c.batch ++ bodyOf [(4, c.lastScan)] ++ opt 4 c.deadline ++ opt 4 c.sealNo ++
        bodyOf [(1, yes c.final), (1, shipmentStateCode sh.state), (1, sh.toScan), (3, p.number), (2, p.card)] ++ minute cutoff) ∧
    (∀ seq : Nat, findContainer s c.number = some c → entryData s seq ⟨c.number, false⟩ =
      bodyOf [(2, c.number), (1, seq), (1, containerStateCode c.state), (1, containerKindCode c.kind), (1, c.units), (1, yes c.final)] ++ minute cutoff) ∧
    (∀ seq n : Nat, entryData s seq ⟨n, true⟩ = bodyOf [(2, n), (1, seq), (1, 4), (1, 0), (1, 0), (1, 0)] ++ minute none) ∧
    batchedData c = bodyOf [(2, c.number), (2, c.shipment), (1, c.seq), (1, containerKindCode c.kind), (1, yes c.final)]) ∧
  (∀ b : Batch, batchData b = bodyOf [(2, b.number), (4, b.cutoff), (1, batchStateCode b.state), (2, b.count), (1, yes b.late)]) ∧
  (∀ (s : State) (l : Loan),
    let item := match l.item with
      | .cartridge serial => bodyOf [(1, 1), (4, serial)]
      | .copy id => bodyOf [(1, 2), (4, id)]
    patronLoanData l = item ++ bodyOf [(2, l.dayOut), (2, l.due), (1, yes l.overdue)] ∧
    ∃ days : Nat, loanData s l = item ++ bodyOf [(3, l.patron), (2, l.shipment), (2, l.dayOut), (2, l.due), (1, yes l.overdue), (2, days)] ∧
      (l.overdue = false → days = 0) ∧ (l.overdue = true → l.due ≤ s.clock.day → days = s.clock.day - l.due)) ∧
  (∀ f : RecallSlot, slotData f =
    bodyOf [(1, yes f.enabled), (3, f.title), (1, f.medium), (1, f.edition), (2, f.day), (1, actionCode f.action), (4, f.hits)]) ∧
  (∀ (s : State) (sh : Shipment) (c : Container) (old : Nat), findShipment s sh.number = some sh → findContainer s c.number = some c →
    let body := 0x00 :: packReply s sh.number c.number old
    body.length = 18 ∧ field body 1 2 = sh.number % 65536 ∧ field body 3 2 = ((findPatron s sh.patron).map (·.card)).getD 0 % 65536 ∧
    field body 5 2 = c.number % 65536 ∧ field body 7 1 = c.seq % 256 ∧ field body 8 1 = (if c.kind = .pouch then 1 else 2) ∧ field body 9 1 = c.units % 256 ∧
    field body 10 1 = (if c.state = .open then 0 else 1) + (if c.final = true then 2 else 0) + (if c.state = .batched then 4 else 0) ∧
    field body 11 4 = ((s.batches.find? fun b => c.batch = some b.number).map (·.cutoff)).getD 0xFFFFFFFF % 4294967296 ∧
    field body 15 2 = old % 65536 ∧ field body 17 1 = sh.toScan % 256) ∧
  (∀ (s : State) (c : Copy), findCopy s c.id = some c →
    copyReply s c.id = bodyOf [(1, copyStateCode c.state), (3, c.patron.getD 0), (2, c.shipment.getD 0)]) ∧
  ∀ (s : State) (c : Cartridge),
    (strongestAction s c = none → filterReply s c = [0, 255, 255]) ∧
    ∀ (n : Fin 16) (a : RecallAction), strongestAction s c = some a → slotMatches c s.slots[n] = true → s.slots[n].action = a →
      (∀ m : Fin 16, m < n → slotMatches c s.slots[m] = true → s.slots[m].action ≠ a) →
      filterReply s c = if a = .count then bodyOf [(1, 0), (1, 255), (1, n.val)] else bodyOf [(1, actionCode a), (1, n.val), (1, 255)]
end

