-- ==== Sys2Proof/Laws/Bytes.lean ====
section
/-! SUPPORT. Fields of several bytes: a number written low byte first is read back, and each field of a request body is found at its
offset. -/

namespace Sys2Proof.Machine

@[simp] theorem length_leBytes (w n : Nat) : (leBytes w n).length = w := by
  induction w generalizing n with
  | zero => rfl
  | succ w ih => simp [leBytes, ih]

theorem leNat_leBytes (w n : Nat) : leNat (leBytes w n) = n % 256 ^ w := by
  induction w generalizing n with
  | zero => simp [leBytes, leNat]; omega
  | succ w ih =>
    simp only [leBytes, leNat, ih, BitVec.toNat_ofNat]
    have e : (256 : Nat) ^ (w + 1) = 256 * 256 ^ w := Nat.pow_succ'
    rw [e, Nat.mod_mul]

/-- A number that fits its width is read back as it was written. -/
theorem leNat_leBytes_of_lt {w n : Nat} (h : n < 256 ^ w) : leNat (leBytes w n) = n := by
  rw [leNat_leBytes, Nat.mod_eq_of_lt h]

@[simp] theorem bodyOf_nil : bodyOf [] = [] := rfl

theorem bodyOf_cons (w n : Nat) (rest : List (Nat × Nat)) :
    bodyOf ((w, n) :: rest) = leBytes w n ++ bodyOf rest := by simp [bodyOf]

@[simp] theorem length_bodyOf (fields : List (Nat × Nat)) : (bodyOf fields).length = (fields.map (·.1)).sum := by
  induction fields with
  | nil => rfl
  | cons p rest ih => obtain ⟨w, n⟩ := p; simp [bodyOf_cons, ih]

/-- The first field of a body holds its number. -/
theorem field_head {w n : Nat} (h : n < 256 ^ w) (rest : List (Nat × Nat)) :
    field (bodyOf ((w, n) :: rest)) 0 w = n := by
  have e : (leBytes w n ++ bodyOf rest).take w = leBytes w n := by
    simp
  simp only [field, bodyOf_cons, List.drop_zero, e, leNat_leBytes_of_lt h]

/-- A later field is found in the rest of the body. -/
theorem field_skip {w k v : Nat} (n : Nat) (h : w ≤ k) (rest : List (Nat × Nat)) :
    field (bodyOf ((w, n) :: rest)) k v = field (bodyOf rest) (k - w) v := by
  have e : (leBytes w n ++ bodyOf rest).drop k = (bodyOf rest).drop (k - w) := by
    rw [List.drop_append]
    simp [List.drop_eq_nil_of_le, h]
  simp only [field, bodyOf_cons, e]

/-- One byte of a body. -/
theorem leBytes_one (n : Nat) : leBytes 1 n = [BitVec.ofNat 8 n] := rfl

/-- The first byte of a body whose first field is one byte. -/
@[simp] theorem head?_bodyOf_byte (n : Nat) (rest : List (Nat × Nat)) :
    (bodyOf ((1, n) :: rest)).head? = some (BitVec.ofNat 8 n) := by simp [bodyOf_cons, leBytes_one]

/-- The body behind a first field of one byte. -/
@[simp] theorem drop_bodyOf_byte (n : Nat) (rest : List (Nat × Nat)) :
    (bodyOf ((1, n) :: rest)).drop 1 = bodyOf rest := by simp [bodyOf_cons, leBytes_one]

/-- The first two bytes of a body whose first field is two bytes. -/
@[simp] theorem take_bodyOf_pair (n : Nat) (rest : List (Nat × Nat)) :
    (bodyOf ((2, n) :: rest)).take 2 = leBytes 2 n := by simp [bodyOf_cons]

/-- A field of two bytes is two zero bytes exactly when the number is 0. -/
theorem leBytes_two_eq_zero {n : Nat} (h : n < 65536) : leBytes 2 n = [0, 0] ↔ n = 0 := by
  constructor
  · intro e
    have := congrArg leNat e
    rw [leNat_leBytes_of_lt (by omega)] at this
    simpa [leNat] using this
  · rintro rfl; rfl

/-- A byte is a given small number exactly when the number written is. -/
theorem ofNat_byte_eq {n k : Nat} (hn : n < 256) (hk : k < 256) : (BitVec.ofNat 8 n = BitVec.ofNat 8 k) ↔ n = k := by
  constructor
  · intro e
    have := congrArg BitVec.toNat e
    simpa [BitVec.toNat_ofNat, Nat.mod_eq_of_lt hn, Nat.mod_eq_of_lt hk] using this
  · rintro rfl; rfl

end Sys2Proof.Machine
end

