-- ==== Sys2Proof/Laws/State.lean ====
section
/-! SUPPORT. What each table update leaves alone and what it puts in its place, field by field: every lemma is true by unfolding, and
no later proof unfolds a record update. -/

namespace Sys2Proof.Machine

/-! ## readyFrame -/

@[simp] theorem readyFrame_tx (f : Frame) (s : State) :
    (readyFrame f s).tx = s.tx ++ [f] := rfl
@[simp] theorem readyFrame_pending (f : Frame) (s : State) : (readyFrame f s).pending = s.pending := rfl
@[simp] theorem readyFrame_power (f : Frame) (s : State) : (readyFrame f s).power = s.power := rfl
@[simp] theorem readyFrame_rx (f : Frame) (s : State) : (readyFrame f s).rx = s.rx := rfl
@[simp] theorem readyFrame_intake (f : Frame) (s : State) : (readyFrame f s).intake = s.intake := rfl
@[simp] theorem readyFrame_resetStage (f : Frame) (s : State) : (readyFrame f s).resetStage = s.resetStage := rfl
@[simp] theorem readyFrame_events (f : Frame) (s : State) : (readyFrame f s).events = s.events := rfl
@[simp] theorem readyFrame_resetCause (f : Frame) (s : State) : (readyFrame f s).resetCause = s.resetCause := rfl
@[simp] theorem readyFrame_changed (f : Frame) (s : State) : (readyFrame f s).changed = s.changed := rfl
@[simp] theorem readyFrame_bayMask (f : Frame) (s : State) : (readyFrame f s).bayMask = s.bayMask := rfl
@[simp] theorem readyFrame_linkErrors (f : Frame) (s : State) : (readyFrame f s).linkErrors = s.linkErrors := rfl
@[simp] theorem readyFrame_latch (f : Frame) (s : State) : (readyFrame f s).latch = s.latch := rfl
@[simp] theorem readyFrame_recordsLost (f : Frame) (s : State) : (readyFrame f s).recordsLost = s.recordsLost := rfl
@[simp] theorem readyFrame_titles (f : Frame) (s : State) : (readyFrame f s).titles = s.titles := rfl
@[simp] theorem readyFrame_entrySeq (f : Frame) (s : State) : (readyFrame f s).entrySeq = s.entrySeq := rfl
@[simp] theorem readyFrame_surveyQueue (f : Frame) (s : State) : (readyFrame f s).surveyQueue = s.surveyQueue := rfl
@[simp] theorem readyFrame_rotation (f : Frame) (s : State) : (readyFrame f s).rotation = s.rotation := rfl
@[simp] theorem readyFrame_nextWindow (f : Frame) (s : State) : (readyFrame f s).nextWindow = s.nextWindow := rfl
@[simp] theorem readyFrame_grant (f : Frame) (s : State) : (readyFrame f s).grant = s.grant := rfl
@[simp] theorem readyFrame_patrons (f : Frame) (s : State) : (readyFrame f s).patrons = s.patrons := rfl
@[simp] theorem readyFrame_eligibility (f : Frame) (s : State) : (readyFrame f s).eligibility = s.eligibility := rfl
@[simp] theorem readyFrame_shipments (f : Frame) (s : State) : (readyFrame f s).shipments = s.shipments := rfl
@[simp] theorem readyFrame_shipmentCounter (f : Frame) (s : State) : (readyFrame f s).shipmentCounter = s.shipmentCounter := rfl
@[simp] theorem readyFrame_selection (f : Frame) (s : State) : (readyFrame f s).selection = s.selection := rfl
@[simp] theorem readyFrame_jobs (f : Frame) (s : State) : (readyFrame f s).jobs = s.jobs := rfl
@[simp] theorem readyFrame_jobCounter (f : Frame) (s : State) : (readyFrame f s).jobCounter = s.jobCounter := rfl
@[simp] theorem readyFrame_bays (f : Frame) (s : State) : (readyFrame f s).bays = s.bays := rfl
@[simp] theorem readyFrame_supplyLevel (f : Frame) (s : State) : (readyFrame f s).supplyLevel = s.supplyLevel := rfl
@[simp] theorem readyFrame_supply (f : Frame) (s : State) : (readyFrame f s).supply = s.supply := rfl
@[simp] theorem readyFrame_supplyCount (f : Frame) (s : State) : (readyFrame f s).supplyCount = s.supplyCount := rfl
@[simp] theorem readyFrame_lowTimer (f : Frame) (s : State) : (readyFrame f s).lowTimer = s.lowTimer := rfl
@[simp] theorem readyFrame_abandoned (f : Frame) (s : State) : (readyFrame f s).abandoned = s.abandoned := rfl
@[simp] theorem readyFrame_cartridges (f : Frame) (s : State) : (readyFrame f s).cartridges = s.cartridges := rfl
@[simp] theorem readyFrame_copies (f : Frame) (s : State) : (readyFrame f s).copies = s.copies := rfl
@[simp] theorem readyFrame_holds (f : Frame) (s : State) : (readyFrame f s).holds = s.holds := rfl
@[simp] theorem readyFrame_pickList (f : Frame) (s : State) : (readyFrame f s).pickList = s.pickList := rfl
@[simp] theorem readyFrame_containers (f : Frame) (s : State) : (readyFrame f s).containers = s.containers := rfl
@[simp] theorem readyFrame_containerCounter (f : Frame) (s : State) : (readyFrame f s).containerCounter = s.containerCounter := rfl
@[simp] theorem readyFrame_sealCounter (f : Frame) (s : State) : (readyFrame f s).sealCounter = s.sealCounter := rfl
@[simp] theorem readyFrame_clock (f : Frame) (s : State) : (readyFrame f s).clock = s.clock := rfl
@[simp] theorem readyFrame_cutoffs (f : Frame) (s : State) : (readyFrame f s).cutoffs = s.cutoffs := rfl
@[simp] theorem readyFrame_batches (f : Frame) (s : State) : (readyFrame f s).batches = s.batches := rfl
@[simp] theorem readyFrame_batchCounter (f : Frame) (s : State) : (readyFrame f s).batchCounter = s.batchCounter := rfl
@[simp] theorem readyFrame_loans (f : Frame) (s : State) : (readyFrame f s).loans = s.loans := rfl
@[simp] theorem readyFrame_cartridgePeriod (f : Frame) (s : State) : (readyFrame f s).cartridgePeriod = s.cartridgePeriod := rfl
@[simp] theorem readyFrame_copyPeriod (f : Frame) (s : State) : (readyFrame f s).copyPeriod = s.copyPeriod := rfl
@[simp] theorem readyFrame_slots (f : Frame) (s : State) : (readyFrame f s).slots = s.slots := rfl
@[simp] theorem readyFrame_counters (f : Frame) (s : State) : (readyFrame f s).counters = s.counters := rfl
@[simp] theorem readyFrame_checkWord (f : Frame) (s : State) : (readyFrame f s).checkWord = s.checkWord := rfl
@[simp] theorem readyFrame_choices (f : Frame) (s : State) : (readyFrame f s).choices = s.choices := rfl

/-! ## updateTitle -/

@[simp] theorem updateTitle_titles (k : TitleKey) (f : TitleEntry → TitleEntry) (s : State) :
    (updateTitle k f s).titles = replace (·.key == k) f s.titles := rfl
@[simp] theorem updateTitle_pending (k : TitleKey) (f : TitleEntry → TitleEntry) (s : State) : (updateTitle k f s).pending = s.pending := rfl
@[simp] theorem updateTitle_power (k : TitleKey) (f : TitleEntry → TitleEntry) (s : State) : (updateTitle k f s).power = s.power := rfl
@[simp] theorem updateTitle_rx (k : TitleKey) (f : TitleEntry → TitleEntry) (s : State) : (updateTitle k f s).rx = s.rx := rfl
@[simp] theorem updateTitle_intake (k : TitleKey) (f : TitleEntry → TitleEntry) (s : State) : (updateTitle k f s).intake = s.intake := rfl
@[simp] theorem updateTitle_tx (k : TitleKey) (f : TitleEntry → TitleEntry) (s : State) : (updateTitle k f s).tx = s.tx := rfl
@[simp] theorem updateTitle_resetStage (k : TitleKey) (f : TitleEntry → TitleEntry) (s : State) : (updateTitle k f s).resetStage = s.resetStage := rfl
@[simp] theorem updateTitle_events (k : TitleKey) (f : TitleEntry → TitleEntry) (s : State) : (updateTitle k f s).events = s.events := rfl
@[simp] theorem updateTitle_resetCause (k : TitleKey) (f : TitleEntry → TitleEntry) (s : State) : (updateTitle k f s).resetCause = s.resetCause := rfl
@[simp] theorem updateTitle_changed (k : TitleKey) (f : TitleEntry → TitleEntry) (s : State) : (updateTitle k f s).changed = s.changed := rfl
@[simp] theorem updateTitle_bayMask (k : TitleKey) (f : TitleEntry → TitleEntry) (s : State) : (updateTitle k f s).bayMask = s.bayMask := rfl
@[simp] theorem updateTitle_linkErrors (k : TitleKey) (f : TitleEntry → TitleEntry) (s : State) : (updateTitle k f s).linkErrors = s.linkErrors := rfl
@[simp] theorem updateTitle_latch (k : TitleKey) (f : TitleEntry → TitleEntry) (s : State) : (updateTitle k f s).latch = s.latch := rfl
@[simp] theorem updateTitle_recordsLost (k : TitleKey) (f : TitleEntry → TitleEntry) (s : State) : (updateTitle k f s).recordsLost = s.recordsLost := rfl
@[simp] theorem updateTitle_entrySeq (k : TitleKey) (f : TitleEntry → TitleEntry) (s : State) : (updateTitle k f s).entrySeq = s.entrySeq := rfl
@[simp] theorem updateTitle_surveyQueue (k : TitleKey) (f : TitleEntry → TitleEntry) (s : State) : (updateTitle k f s).surveyQueue = s.surveyQueue := rfl
@[simp] theorem updateTitle_rotation (k : TitleKey) (f : TitleEntry → TitleEntry) (s : State) : (updateTitle k f s).rotation = s.rotation := rfl
@[simp] theorem updateTitle_nextWindow (k : TitleKey) (f : TitleEntry → TitleEntry) (s : State) : (updateTitle k f s).nextWindow = s.nextWindow := rfl
@[simp] theorem updateTitle_grant (k : TitleKey) (f : TitleEntry → TitleEntry) (s : State) : (updateTitle k f s).grant = s.grant := rfl
@[simp] theorem updateTitle_patrons (k : TitleKey) (f : TitleEntry → TitleEntry) (s : State) : (updateTitle k f s).patrons = s.patrons := rfl
@[simp] theorem updateTitle_eligibility (k : TitleKey) (f : TitleEntry → TitleEntry) (s : State) : (updateTitle k f s).eligibility = s.eligibility := rfl
@[simp] theorem updateTitle_shipments (k : TitleKey) (f : TitleEntry → TitleEntry) (s : State) : (updateTitle k f s).shipments = s.shipments := rfl
@[simp] theorem updateTitle_shipmentCounter (k : TitleKey) (f : TitleEntry → TitleEntry) (s : State) : (updateTitle k f s).shipmentCounter = s.shipmentCounter := rfl
@[simp] theorem updateTitle_selection (k : TitleKey) (f : TitleEntry → TitleEntry) (s : State) : (updateTitle k f s).selection = s.selection := rfl
@[simp] theorem updateTitle_jobs (k : TitleKey) (f : TitleEntry → TitleEntry) (s : State) : (updateTitle k f s).jobs = s.jobs := rfl
@[simp] theorem updateTitle_jobCounter (k : TitleKey) (f : TitleEntry → TitleEntry) (s : State) : (updateTitle k f s).jobCounter = s.jobCounter := rfl
@[simp] theorem updateTitle_bays (k : TitleKey) (f : TitleEntry → TitleEntry) (s : State) : (updateTitle k f s).bays = s.bays := rfl
@[simp] theorem updateTitle_supplyLevel (k : TitleKey) (f : TitleEntry → TitleEntry) (s : State) : (updateTitle k f s).supplyLevel = s.supplyLevel := rfl
@[simp] theorem updateTitle_supply (k : TitleKey) (f : TitleEntry → TitleEntry) (s : State) : (updateTitle k f s).supply = s.supply := rfl
@[simp] theorem updateTitle_supplyCount (k : TitleKey) (f : TitleEntry → TitleEntry) (s : State) : (updateTitle k f s).supplyCount = s.supplyCount := rfl
@[simp] theorem updateTitle_lowTimer (k : TitleKey) (f : TitleEntry → TitleEntry) (s : State) : (updateTitle k f s).lowTimer = s.lowTimer := rfl
@[simp] theorem updateTitle_abandoned (k : TitleKey) (f : TitleEntry → TitleEntry) (s : State) : (updateTitle k f s).abandoned = s.abandoned := rfl
@[simp] theorem updateTitle_cartridges (k : TitleKey) (f : TitleEntry → TitleEntry) (s : State) : (updateTitle k f s).cartridges = s.cartridges := rfl
@[simp] theorem updateTitle_copies (k : TitleKey) (f : TitleEntry → TitleEntry) (s : State) : (updateTitle k f s).copies = s.copies := rfl
@[simp] theorem updateTitle_holds (k : TitleKey) (f : TitleEntry → TitleEntry) (s : State) : (updateTitle k f s).holds = s.holds := rfl
@[simp] theorem updateTitle_pickList (k : TitleKey) (f : TitleEntry → TitleEntry) (s : State) : (updateTitle k f s).pickList = s.pickList := rfl
@[simp] theorem updateTitle_containers (k : TitleKey) (f : TitleEntry → TitleEntry) (s : State) : (updateTitle k f s).containers = s.containers := rfl
@[simp] theorem updateTitle_containerCounter (k : TitleKey) (f : TitleEntry → TitleEntry) (s : State) : (updateTitle k f s).containerCounter = s.containerCounter := rfl
@[simp] theorem updateTitle_sealCounter (k : TitleKey) (f : TitleEntry → TitleEntry) (s : State) : (updateTitle k f s).sealCounter = s.sealCounter := rfl
@[simp] theorem updateTitle_clock (k : TitleKey) (f : TitleEntry → TitleEntry) (s : State) : (updateTitle k f s).clock = s.clock := rfl
@[simp] theorem updateTitle_cutoffs (k : TitleKey) (f : TitleEntry → TitleEntry) (s : State) : (updateTitle k f s).cutoffs = s.cutoffs := rfl
@[simp] theorem updateTitle_batches (k : TitleKey) (f : TitleEntry → TitleEntry) (s : State) : (updateTitle k f s).batches = s.batches := rfl
@[simp] theorem updateTitle_batchCounter (k : TitleKey) (f : TitleEntry → TitleEntry) (s : State) : (updateTitle k f s).batchCounter = s.batchCounter := rfl
@[simp] theorem updateTitle_loans (k : TitleKey) (f : TitleEntry → TitleEntry) (s : State) : (updateTitle k f s).loans = s.loans := rfl
@[simp] theorem updateTitle_cartridgePeriod (k : TitleKey) (f : TitleEntry → TitleEntry) (s : State) : (updateTitle k f s).cartridgePeriod = s.cartridgePeriod := rfl
@[simp] theorem updateTitle_copyPeriod (k : TitleKey) (f : TitleEntry → TitleEntry) (s : State) : (updateTitle k f s).copyPeriod = s.copyPeriod := rfl
@[simp] theorem updateTitle_slots (k : TitleKey) (f : TitleEntry → TitleEntry) (s : State) : (updateTitle k f s).slots = s.slots := rfl
@[simp] theorem updateTitle_counters (k : TitleKey) (f : TitleEntry → TitleEntry) (s : State) : (updateTitle k f s).counters = s.counters := rfl
@[simp] theorem updateTitle_checkWord (k : TitleKey) (f : TitleEntry → TitleEntry) (s : State) : (updateTitle k f s).checkWord = s.checkWord := rfl
@[simp] theorem updateTitle_choices (k : TitleKey) (f : TitleEntry → TitleEntry) (s : State) : (updateTitle k f s).choices = s.choices := rfl

/-! ## dropTitle -/

@[simp] theorem dropTitle_titles (k : TitleKey) (s : State) :
    (dropTitle k s).titles = s.titles.filter fun e => !(e.key == k) := rfl
@[simp] theorem dropTitle_pending (k : TitleKey) (s : State) : (dropTitle k s).pending = s.pending := rfl
@[simp] theorem dropTitle_power (k : TitleKey) (s : State) : (dropTitle k s).power = s.power := rfl
@[simp] theorem dropTitle_rx (k : TitleKey) (s : State) : (dropTitle k s).rx = s.rx := rfl
@[simp] theorem dropTitle_intake (k : TitleKey) (s : State) : (dropTitle k s).intake = s.intake := rfl
@[simp] theorem dropTitle_tx (k : TitleKey) (s : State) : (dropTitle k s).tx = s.tx := rfl
@[simp] theorem dropTitle_resetStage (k : TitleKey) (s : State) : (dropTitle k s).resetStage = s.resetStage := rfl
@[simp] theorem dropTitle_events (k : TitleKey) (s : State) : (dropTitle k s).events = s.events := rfl
@[simp] theorem dropTitle_resetCause (k : TitleKey) (s : State) : (dropTitle k s).resetCause = s.resetCause := rfl
@[simp] theorem dropTitle_changed (k : TitleKey) (s : State) : (dropTitle k s).changed = s.changed := rfl
@[simp] theorem dropTitle_bayMask (k : TitleKey) (s : State) : (dropTitle k s).bayMask = s.bayMask := rfl
@[simp] theorem dropTitle_linkErrors (k : TitleKey) (s : State) : (dropTitle k s).linkErrors = s.linkErrors := rfl
@[simp] theorem dropTitle_latch (k : TitleKey) (s : State) : (dropTitle k s).latch = s.latch := rfl
@[simp] theorem dropTitle_recordsLost (k : TitleKey) (s : State) : (dropTitle k s).recordsLost = s.recordsLost := rfl
@[simp] theorem dropTitle_entrySeq (k : TitleKey) (s : State) : (dropTitle k s).entrySeq = s.entrySeq := rfl
@[simp] theorem dropTitle_surveyQueue (k : TitleKey) (s : State) : (dropTitle k s).surveyQueue = s.surveyQueue := rfl
@[simp] theorem dropTitle_rotation (k : TitleKey) (s : State) : (dropTitle k s).rotation = s.rotation := rfl
@[simp] theorem dropTitle_nextWindow (k : TitleKey) (s : State) : (dropTitle k s).nextWindow = s.nextWindow := rfl
@[simp] theorem dropTitle_grant (k : TitleKey) (s : State) : (dropTitle k s).grant = s.grant := rfl
@[simp] theorem dropTitle_patrons (k : TitleKey) (s : State) : (dropTitle k s).patrons = s.patrons := rfl
@[simp] theorem dropTitle_eligibility (k : TitleKey) (s : State) : (dropTitle k s).eligibility = s.eligibility := rfl
@[simp] theorem dropTitle_shipments (k : TitleKey) (s : State) : (dropTitle k s).shipments = s.shipments := rfl
@[simp] theorem dropTitle_shipmentCounter (k : TitleKey) (s : State) : (dropTitle k s).shipmentCounter = s.shipmentCounter := rfl
@[simp] theorem dropTitle_selection (k : TitleKey) (s : State) : (dropTitle k s).selection = s.selection := rfl
@[simp] theorem dropTitle_jobs (k : TitleKey) (s : State) : (dropTitle k s).jobs = s.jobs := rfl
@[simp] theorem dropTitle_jobCounter (k : TitleKey) (s : State) : (dropTitle k s).jobCounter = s.jobCounter := rfl
@[simp] theorem dropTitle_bays (k : TitleKey) (s : State) : (dropTitle k s).bays = s.bays := rfl
@[simp] theorem dropTitle_supplyLevel (k : TitleKey) (s : State) : (dropTitle k s).supplyLevel = s.supplyLevel := rfl
@[simp] theorem dropTitle_supply (k : TitleKey) (s : State) : (dropTitle k s).supply = s.supply := rfl
@[simp] theorem dropTitle_supplyCount (k : TitleKey) (s : State) : (dropTitle k s).supplyCount = s.supplyCount := rfl
@[simp] theorem dropTitle_lowTimer (k : TitleKey) (s : State) : (dropTitle k s).lowTimer = s.lowTimer := rfl
@[simp] theorem dropTitle_abandoned (k : TitleKey) (s : State) : (dropTitle k s).abandoned = s.abandoned := rfl
@[simp] theorem dropTitle_cartridges (k : TitleKey) (s : State) : (dropTitle k s).cartridges = s.cartridges := rfl
@[simp] theorem dropTitle_copies (k : TitleKey) (s : State) : (dropTitle k s).copies = s.copies := rfl
@[simp] theorem dropTitle_holds (k : TitleKey) (s : State) : (dropTitle k s).holds = s.holds := rfl
@[simp] theorem dropTitle_pickList (k : TitleKey) (s : State) : (dropTitle k s).pickList = s.pickList := rfl
@[simp] theorem dropTitle_containers (k : TitleKey) (s : State) : (dropTitle k s).containers = s.containers := rfl
@[simp] theorem dropTitle_containerCounter (k : TitleKey) (s : State) : (dropTitle k s).containerCounter = s.containerCounter := rfl
@[simp] theorem dropTitle_sealCounter (k : TitleKey) (s : State) : (dropTitle k s).sealCounter = s.sealCounter := rfl
@[simp] theorem dropTitle_clock (k : TitleKey) (s : State) : (dropTitle k s).clock = s.clock := rfl
@[simp] theorem dropTitle_cutoffs (k : TitleKey) (s : State) : (dropTitle k s).cutoffs = s.cutoffs := rfl
@[simp] theorem dropTitle_batches (k : TitleKey) (s : State) : (dropTitle k s).batches = s.batches := rfl
@[simp] theorem dropTitle_batchCounter (k : TitleKey) (s : State) : (dropTitle k s).batchCounter = s.batchCounter := rfl
@[simp] theorem dropTitle_loans (k : TitleKey) (s : State) : (dropTitle k s).loans = s.loans := rfl
@[simp] theorem dropTitle_cartridgePeriod (k : TitleKey) (s : State) : (dropTitle k s).cartridgePeriod = s.cartridgePeriod := rfl
@[simp] theorem dropTitle_copyPeriod (k : TitleKey) (s : State) : (dropTitle k s).copyPeriod = s.copyPeriod := rfl
@[simp] theorem dropTitle_slots (k : TitleKey) (s : State) : (dropTitle k s).slots = s.slots := rfl
@[simp] theorem dropTitle_counters (k : TitleKey) (s : State) : (dropTitle k s).counters = s.counters := rfl
@[simp] theorem dropTitle_checkWord (k : TitleKey) (s : State) : (dropTitle k s).checkWord = s.checkWord := rfl
@[simp] theorem dropTitle_choices (k : TitleKey) (s : State) : (dropTitle k s).choices = s.choices := rfl

/-! ## lowerRef -/

@[simp] theorem lowerRef_pending (k : TitleKey) (s : State) : (lowerRef k s).pending = s.pending := rfl
@[simp] theorem lowerRef_power (k : TitleKey) (s : State) : (lowerRef k s).power = s.power := rfl
@[simp] theorem lowerRef_rx (k : TitleKey) (s : State) : (lowerRef k s).rx = s.rx := rfl
@[simp] theorem lowerRef_intake (k : TitleKey) (s : State) : (lowerRef k s).intake = s.intake := rfl
@[simp] theorem lowerRef_tx (k : TitleKey) (s : State) : (lowerRef k s).tx = s.tx := rfl
@[simp] theorem lowerRef_resetStage (k : TitleKey) (s : State) : (lowerRef k s).resetStage = s.resetStage := rfl
@[simp] theorem lowerRef_events (k : TitleKey) (s : State) : (lowerRef k s).events = s.events := rfl
@[simp] theorem lowerRef_resetCause (k : TitleKey) (s : State) : (lowerRef k s).resetCause = s.resetCause := rfl
@[simp] theorem lowerRef_changed (k : TitleKey) (s : State) : (lowerRef k s).changed = s.changed := rfl
@[simp] theorem lowerRef_bayMask (k : TitleKey) (s : State) : (lowerRef k s).bayMask = s.bayMask := rfl
@[simp] theorem lowerRef_linkErrors (k : TitleKey) (s : State) : (lowerRef k s).linkErrors = s.linkErrors := rfl
@[simp] theorem lowerRef_latch (k : TitleKey) (s : State) : (lowerRef k s).latch = s.latch := rfl
@[simp] theorem lowerRef_recordsLost (k : TitleKey) (s : State) : (lowerRef k s).recordsLost = s.recordsLost := rfl
@[simp] theorem lowerRef_entrySeq (k : TitleKey) (s : State) : (lowerRef k s).entrySeq = s.entrySeq := rfl
@[simp] theorem lowerRef_surveyQueue (k : TitleKey) (s : State) : (lowerRef k s).surveyQueue = s.surveyQueue := rfl
@[simp] theorem lowerRef_rotation (k : TitleKey) (s : State) : (lowerRef k s).rotation = s.rotation := rfl
@[simp] theorem lowerRef_nextWindow (k : TitleKey) (s : State) : (lowerRef k s).nextWindow = s.nextWindow := rfl
@[simp] theorem lowerRef_grant (k : TitleKey) (s : State) : (lowerRef k s).grant = s.grant := rfl
@[simp] theorem lowerRef_patrons (k : TitleKey) (s : State) : (lowerRef k s).patrons = s.patrons := rfl
@[simp] theorem lowerRef_eligibility (k : TitleKey) (s : State) : (lowerRef k s).eligibility = s.eligibility := rfl
@[simp] theorem lowerRef_shipments (k : TitleKey) (s : State) : (lowerRef k s).shipments = s.shipments := rfl
@[simp] theorem lowerRef_shipmentCounter (k : TitleKey) (s : State) : (lowerRef k s).shipmentCounter = s.shipmentCounter := rfl
@[simp] theorem lowerRef_selection (k : TitleKey) (s : State) : (lowerRef k s).selection = s.selection := rfl
@[simp] theorem lowerRef_jobs (k : TitleKey) (s : State) : (lowerRef k s).jobs = s.jobs := rfl
@[simp] theorem lowerRef_jobCounter (k : TitleKey) (s : State) : (lowerRef k s).jobCounter = s.jobCounter := rfl
@[simp] theorem lowerRef_bays (k : TitleKey) (s : State) : (lowerRef k s).bays = s.bays := rfl
@[simp] theorem lowerRef_supplyLevel (k : TitleKey) (s : State) : (lowerRef k s).supplyLevel = s.supplyLevel := rfl
@[simp] theorem lowerRef_supply (k : TitleKey) (s : State) : (lowerRef k s).supply = s.supply := rfl
@[simp] theorem lowerRef_supplyCount (k : TitleKey) (s : State) : (lowerRef k s).supplyCount = s.supplyCount := rfl
@[simp] theorem lowerRef_lowTimer (k : TitleKey) (s : State) : (lowerRef k s).lowTimer = s.lowTimer := rfl
@[simp] theorem lowerRef_abandoned (k : TitleKey) (s : State) : (lowerRef k s).abandoned = s.abandoned := rfl
@[simp] theorem lowerRef_cartridges (k : TitleKey) (s : State) : (lowerRef k s).cartridges = s.cartridges := rfl
@[simp] theorem lowerRef_copies (k : TitleKey) (s : State) : (lowerRef k s).copies = s.copies := rfl
@[simp] theorem lowerRef_holds (k : TitleKey) (s : State) : (lowerRef k s).holds = s.holds := rfl
@[simp] theorem lowerRef_pickList (k : TitleKey) (s : State) : (lowerRef k s).pickList = s.pickList := rfl
@[simp] theorem lowerRef_containers (k : TitleKey) (s : State) : (lowerRef k s).containers = s.containers := rfl
@[simp] theorem lowerRef_containerCounter (k : TitleKey) (s : State) : (lowerRef k s).containerCounter = s.containerCounter := rfl
@[simp] theorem lowerRef_sealCounter (k : TitleKey) (s : State) : (lowerRef k s).sealCounter = s.sealCounter := rfl
@[simp] theorem lowerRef_clock (k : TitleKey) (s : State) : (lowerRef k s).clock = s.clock := rfl
@[simp] theorem lowerRef_cutoffs (k : TitleKey) (s : State) : (lowerRef k s).cutoffs = s.cutoffs := rfl
@[simp] theorem lowerRef_batches (k : TitleKey) (s : State) : (lowerRef k s).batches = s.batches := rfl
@[simp] theorem lowerRef_batchCounter (k : TitleKey) (s : State) : (lowerRef k s).batchCounter = s.batchCounter := rfl
@[simp] theorem lowerRef_loans (k : TitleKey) (s : State) : (lowerRef k s).loans = s.loans := rfl
@[simp] theorem lowerRef_cartridgePeriod (k : TitleKey) (s : State) : (lowerRef k s).cartridgePeriod = s.cartridgePeriod := rfl
@[simp] theorem lowerRef_copyPeriod (k : TitleKey) (s : State) : (lowerRef k s).copyPeriod = s.copyPeriod := rfl
@[simp] theorem lowerRef_slots (k : TitleKey) (s : State) : (lowerRef k s).slots = s.slots := rfl
@[simp] theorem lowerRef_counters (k : TitleKey) (s : State) : (lowerRef k s).counters = s.counters := rfl
@[simp] theorem lowerRef_checkWord (k : TitleKey) (s : State) : (lowerRef k s).checkWord = s.checkWord := rfl
@[simp] theorem lowerRef_choices (k : TitleKey) (s : State) : (lowerRef k s).choices = s.choices := rfl

/-! ## retireReady -/

@[simp] theorem retireReady_pending (title : Nat) (m : Medium) (keep : Nat) (s : State) : (retireReady title m keep s).pending = s.pending := rfl
@[simp] theorem retireReady_power (title : Nat) (m : Medium) (keep : Nat) (s : State) : (retireReady title m keep s).power = s.power := rfl
@[simp] theorem retireReady_rx (title : Nat) (m : Medium) (keep : Nat) (s : State) : (retireReady title m keep s).rx = s.rx := rfl
@[simp] theorem retireReady_intake (title : Nat) (m : Medium) (keep : Nat) (s : State) : (retireReady title m keep s).intake = s.intake := rfl
@[simp] theorem retireReady_tx (title : Nat) (m : Medium) (keep : Nat) (s : State) : (retireReady title m keep s).tx = s.tx := rfl
@[simp] theorem retireReady_resetStage (title : Nat) (m : Medium) (keep : Nat) (s : State) : (retireReady title m keep s).resetStage = s.resetStage := rfl
@[simp] theorem retireReady_events (title : Nat) (m : Medium) (keep : Nat) (s : State) : (retireReady title m keep s).events = s.events := rfl
@[simp] theorem retireReady_resetCause (title : Nat) (m : Medium) (keep : Nat) (s : State) : (retireReady title m keep s).resetCause = s.resetCause := rfl
@[simp] theorem retireReady_changed (title : Nat) (m : Medium) (keep : Nat) (s : State) : (retireReady title m keep s).changed = s.changed := rfl
@[simp] theorem retireReady_bayMask (title : Nat) (m : Medium) (keep : Nat) (s : State) : (retireReady title m keep s).bayMask = s.bayMask := rfl
@[simp] theorem retireReady_linkErrors (title : Nat) (m : Medium) (keep : Nat) (s : State) : (retireReady title m keep s).linkErrors = s.linkErrors := rfl
@[simp] theorem retireReady_latch (title : Nat) (m : Medium) (keep : Nat) (s : State) : (retireReady title m keep s).latch = s.latch := rfl
@[simp] theorem retireReady_recordsLost (title : Nat) (m : Medium) (keep : Nat) (s : State) : (retireReady title m keep s).recordsLost = s.recordsLost := rfl
@[simp] theorem retireReady_entrySeq (title : Nat) (m : Medium) (keep : Nat) (s : State) : (retireReady title m keep s).entrySeq = s.entrySeq := rfl
@[simp] theorem retireReady_surveyQueue (title : Nat) (m : Medium) (keep : Nat) (s : State) : (retireReady title m keep s).surveyQueue = s.surveyQueue := rfl
@[simp] theorem retireReady_rotation (title : Nat) (m : Medium) (keep : Nat) (s : State) : (retireReady title m keep s).rotation = s.rotation := rfl
@[simp] theorem retireReady_nextWindow (title : Nat) (m : Medium) (keep : Nat) (s : State) : (retireReady title m keep s).nextWindow = s.nextWindow := rfl
@[simp] theorem retireReady_grant (title : Nat) (m : Medium) (keep : Nat) (s : State) : (retireReady title m keep s).grant = s.grant := rfl
@[simp] theorem retireReady_patrons (title : Nat) (m : Medium) (keep : Nat) (s : State) : (retireReady title m keep s).patrons = s.patrons := rfl
@[simp] theorem retireReady_eligibility (title : Nat) (m : Medium) (keep : Nat) (s : State) : (retireReady title m keep s).eligibility = s.eligibility := rfl
@[simp] theorem retireReady_shipments (title : Nat) (m : Medium) (keep : Nat) (s : State) : (retireReady title m keep s).shipments = s.shipments := rfl
@[simp] theorem retireReady_shipmentCounter (title : Nat) (m : Medium) (keep : Nat) (s : State) : (retireReady title m keep s).shipmentCounter = s.shipmentCounter := rfl
@[simp] theorem retireReady_selection (title : Nat) (m : Medium) (keep : Nat) (s : State) : (retireReady title m keep s).selection = s.selection := rfl
@[simp] theorem retireReady_jobs (title : Nat) (m : Medium) (keep : Nat) (s : State) : (retireReady title m keep s).jobs = s.jobs := rfl
@[simp] theorem retireReady_jobCounter (title : Nat) (m : Medium) (keep : Nat) (s : State) : (retireReady title m keep s).jobCounter = s.jobCounter := rfl
@[simp] theorem retireReady_bays (title : Nat) (m : Medium) (keep : Nat) (s : State) : (retireReady title m keep s).bays = s.bays := rfl
@[simp] theorem retireReady_supplyLevel (title : Nat) (m : Medium) (keep : Nat) (s : State) : (retireReady title m keep s).supplyLevel = s.supplyLevel := rfl
@[simp] theorem retireReady_supply (title : Nat) (m : Medium) (keep : Nat) (s : State) : (retireReady title m keep s).supply = s.supply := rfl
@[simp] theorem retireReady_supplyCount (title : Nat) (m : Medium) (keep : Nat) (s : State) : (retireReady title m keep s).supplyCount = s.supplyCount := rfl
@[simp] theorem retireReady_lowTimer (title : Nat) (m : Medium) (keep : Nat) (s : State) : (retireReady title m keep s).lowTimer = s.lowTimer := rfl
@[simp] theorem retireReady_abandoned (title : Nat) (m : Medium) (keep : Nat) (s : State) : (retireReady title m keep s).abandoned = s.abandoned := rfl
@[simp] theorem retireReady_cartridges (title : Nat) (m : Medium) (keep : Nat) (s : State) : (retireReady title m keep s).cartridges = s.cartridges := rfl
@[simp] theorem retireReady_copies (title : Nat) (m : Medium) (keep : Nat) (s : State) : (retireReady title m keep s).copies = s.copies := rfl
@[simp] theorem retireReady_holds (title : Nat) (m : Medium) (keep : Nat) (s : State) : (retireReady title m keep s).holds = s.holds := rfl
@[simp] theorem retireReady_pickList (title : Nat) (m : Medium) (keep : Nat) (s : State) : (retireReady title m keep s).pickList = s.pickList := rfl
@[simp] theorem retireReady_containers (title : Nat) (m : Medium) (keep : Nat) (s : State) : (retireReady title m keep s).containers = s.containers := rfl
@[simp] theorem retireReady_containerCounter (title : Nat) (m : Medium) (keep : Nat) (s : State) : (retireReady title m keep s).containerCounter = s.containerCounter := rfl
@[simp] theorem retireReady_sealCounter (title : Nat) (m : Medium) (keep : Nat) (s : State) : (retireReady title m keep s).sealCounter = s.sealCounter := rfl
@[simp] theorem retireReady_clock (title : Nat) (m : Medium) (keep : Nat) (s : State) : (retireReady title m keep s).clock = s.clock := rfl
@[simp] theorem retireReady_cutoffs (title : Nat) (m : Medium) (keep : Nat) (s : State) : (retireReady title m keep s).cutoffs = s.cutoffs := rfl
@[simp] theorem retireReady_batches (title : Nat) (m : Medium) (keep : Nat) (s : State) : (retireReady title m keep s).batches = s.batches := rfl
@[simp] theorem retireReady_batchCounter (title : Nat) (m : Medium) (keep : Nat) (s : State) : (retireReady title m keep s).batchCounter = s.batchCounter := rfl
@[simp] theorem retireReady_loans (title : Nat) (m : Medium) (keep : Nat) (s : State) : (retireReady title m keep s).loans = s.loans := rfl
@[simp] theorem retireReady_cartridgePeriod (title : Nat) (m : Medium) (keep : Nat) (s : State) : (retireReady title m keep s).cartridgePeriod = s.cartridgePeriod := rfl
@[simp] theorem retireReady_copyPeriod (title : Nat) (m : Medium) (keep : Nat) (s : State) : (retireReady title m keep s).copyPeriod = s.copyPeriod := rfl
@[simp] theorem retireReady_slots (title : Nat) (m : Medium) (keep : Nat) (s : State) : (retireReady title m keep s).slots = s.slots := rfl
@[simp] theorem retireReady_counters (title : Nat) (m : Medium) (keep : Nat) (s : State) : (retireReady title m keep s).counters = s.counters := rfl
@[simp] theorem retireReady_checkWord (title : Nat) (m : Medium) (keep : Nat) (s : State) : (retireReady title m keep s).checkWord = s.checkWord := rfl
@[simp] theorem retireReady_choices (title : Nat) (m : Medium) (keep : Nat) (s : State) : (retireReady title m keep s).choices = s.choices := rfl

/-! ## updatePatron -/

@[simp] theorem updatePatron_patrons (n : Nat) (f : Patron → Patron) (s : State) :
    (updatePatron n f s).patrons = replace (·.number == n) f s.patrons := rfl
@[simp] theorem updatePatron_pending (n : Nat) (f : Patron → Patron) (s : State) : (updatePatron n f s).pending = s.pending := rfl
@[simp] theorem updatePatron_power (n : Nat) (f : Patron → Patron) (s : State) : (updatePatron n f s).power = s.power := rfl
@[simp] theorem updatePatron_rx (n : Nat) (f : Patron → Patron) (s : State) : (updatePatron n f s).rx = s.rx := rfl
@[simp] theorem updatePatron_intake (n : Nat) (f : Patron → Patron) (s : State) : (updatePatron n f s).intake = s.intake := rfl
@[simp] theorem updatePatron_tx (n : Nat) (f : Patron → Patron) (s : State) : (updatePatron n f s).tx = s.tx := rfl
@[simp] theorem updatePatron_resetStage (n : Nat) (f : Patron → Patron) (s : State) : (updatePatron n f s).resetStage = s.resetStage := rfl
@[simp] theorem updatePatron_events (n : Nat) (f : Patron → Patron) (s : State) : (updatePatron n f s).events = s.events := rfl
@[simp] theorem updatePatron_resetCause (n : Nat) (f : Patron → Patron) (s : State) : (updatePatron n f s).resetCause = s.resetCause := rfl
@[simp] theorem updatePatron_changed (n : Nat) (f : Patron → Patron) (s : State) : (updatePatron n f s).changed = s.changed := rfl
@[simp] theorem updatePatron_bayMask (n : Nat) (f : Patron → Patron) (s : State) : (updatePatron n f s).bayMask = s.bayMask := rfl
@[simp] theorem updatePatron_linkErrors (n : Nat) (f : Patron → Patron) (s : State) : (updatePatron n f s).linkErrors = s.linkErrors := rfl
@[simp] theorem updatePatron_latch (n : Nat) (f : Patron → Patron) (s : State) : (updatePatron n f s).latch = s.latch := rfl
@[simp] theorem updatePatron_recordsLost (n : Nat) (f : Patron → Patron) (s : State) : (updatePatron n f s).recordsLost = s.recordsLost := rfl
@[simp] theorem updatePatron_titles (n : Nat) (f : Patron → Patron) (s : State) : (updatePatron n f s).titles = s.titles := rfl
@[simp] theorem updatePatron_entrySeq (n : Nat) (f : Patron → Patron) (s : State) : (updatePatron n f s).entrySeq = s.entrySeq := rfl
@[simp] theorem updatePatron_surveyQueue (n : Nat) (f : Patron → Patron) (s : State) : (updatePatron n f s).surveyQueue = s.surveyQueue := rfl
@[simp] theorem updatePatron_rotation (n : Nat) (f : Patron → Patron) (s : State) : (updatePatron n f s).rotation = s.rotation := rfl
@[simp] theorem updatePatron_nextWindow (n : Nat) (f : Patron → Patron) (s : State) : (updatePatron n f s).nextWindow = s.nextWindow := rfl
@[simp] theorem updatePatron_grant (n : Nat) (f : Patron → Patron) (s : State) : (updatePatron n f s).grant = s.grant := rfl
@[simp] theorem updatePatron_eligibility (n : Nat) (f : Patron → Patron) (s : State) : (updatePatron n f s).eligibility = s.eligibility := rfl
@[simp] theorem updatePatron_shipments (n : Nat) (f : Patron → Patron) (s : State) : (updatePatron n f s).shipments = s.shipments := rfl
@[simp] theorem updatePatron_shipmentCounter (n : Nat) (f : Patron → Patron) (s : State) : (updatePatron n f s).shipmentCounter = s.shipmentCounter := rfl
@[simp] theorem updatePatron_selection (n : Nat) (f : Patron → Patron) (s : State) : (updatePatron n f s).selection = s.selection := rfl
@[simp] theorem updatePatron_jobs (n : Nat) (f : Patron → Patron) (s : State) : (updatePatron n f s).jobs = s.jobs := rfl
@[simp] theorem updatePatron_jobCounter (n : Nat) (f : Patron → Patron) (s : State) : (updatePatron n f s).jobCounter = s.jobCounter := rfl
@[simp] theorem updatePatron_bays (n : Nat) (f : Patron → Patron) (s : State) : (updatePatron n f s).bays = s.bays := rfl
@[simp] theorem updatePatron_supplyLevel (n : Nat) (f : Patron → Patron) (s : State) : (updatePatron n f s).supplyLevel = s.supplyLevel := rfl
@[simp] theorem updatePatron_supply (n : Nat) (f : Patron → Patron) (s : State) : (updatePatron n f s).supply = s.supply := rfl
@[simp] theorem updatePatron_supplyCount (n : Nat) (f : Patron → Patron) (s : State) : (updatePatron n f s).supplyCount = s.supplyCount := rfl
@[simp] theorem updatePatron_lowTimer (n : Nat) (f : Patron → Patron) (s : State) : (updatePatron n f s).lowTimer = s.lowTimer := rfl
@[simp] theorem updatePatron_abandoned (n : Nat) (f : Patron → Patron) (s : State) : (updatePatron n f s).abandoned = s.abandoned := rfl
@[simp] theorem updatePatron_cartridges (n : Nat) (f : Patron → Patron) (s : State) : (updatePatron n f s).cartridges = s.cartridges := rfl
@[simp] theorem updatePatron_copies (n : Nat) (f : Patron → Patron) (s : State) : (updatePatron n f s).copies = s.copies := rfl
@[simp] theorem updatePatron_holds (n : Nat) (f : Patron → Patron) (s : State) : (updatePatron n f s).holds = s.holds := rfl
@[simp] theorem updatePatron_pickList (n : Nat) (f : Patron → Patron) (s : State) : (updatePatron n f s).pickList = s.pickList := rfl
@[simp] theorem updatePatron_containers (n : Nat) (f : Patron → Patron) (s : State) : (updatePatron n f s).containers = s.containers := rfl
@[simp] theorem updatePatron_containerCounter (n : Nat) (f : Patron → Patron) (s : State) : (updatePatron n f s).containerCounter = s.containerCounter := rfl
@[simp] theorem updatePatron_sealCounter (n : Nat) (f : Patron → Patron) (s : State) : (updatePatron n f s).sealCounter = s.sealCounter := rfl
@[simp] theorem updatePatron_clock (n : Nat) (f : Patron → Patron) (s : State) : (updatePatron n f s).clock = s.clock := rfl
@[simp] theorem updatePatron_cutoffs (n : Nat) (f : Patron → Patron) (s : State) : (updatePatron n f s).cutoffs = s.cutoffs := rfl
@[simp] theorem updatePatron_batches (n : Nat) (f : Patron → Patron) (s : State) : (updatePatron n f s).batches = s.batches := rfl
@[simp] theorem updatePatron_batchCounter (n : Nat) (f : Patron → Patron) (s : State) : (updatePatron n f s).batchCounter = s.batchCounter := rfl
@[simp] theorem updatePatron_loans (n : Nat) (f : Patron → Patron) (s : State) : (updatePatron n f s).loans = s.loans := rfl
@[simp] theorem updatePatron_cartridgePeriod (n : Nat) (f : Patron → Patron) (s : State) : (updatePatron n f s).cartridgePeriod = s.cartridgePeriod := rfl
@[simp] theorem updatePatron_copyPeriod (n : Nat) (f : Patron → Patron) (s : State) : (updatePatron n f s).copyPeriod = s.copyPeriod := rfl
@[simp] theorem updatePatron_slots (n : Nat) (f : Patron → Patron) (s : State) : (updatePatron n f s).slots = s.slots := rfl
@[simp] theorem updatePatron_counters (n : Nat) (f : Patron → Patron) (s : State) : (updatePatron n f s).counters = s.counters := rfl
@[simp] theorem updatePatron_checkWord (n : Nat) (f : Patron → Patron) (s : State) : (updatePatron n f s).checkWord = s.checkWord := rfl
@[simp] theorem updatePatron_choices (n : Nat) (f : Patron → Patron) (s : State) : (updatePatron n f s).choices = s.choices := rfl

/-! ## updateShipment -/

@[simp] theorem updateShipment_shipments (n : Nat) (f : Shipment → Shipment) (s : State) :
    (updateShipment n f s).shipments = replace (·.number == n) f s.shipments := rfl
@[simp] theorem updateShipment_pending (n : Nat) (f : Shipment → Shipment) (s : State) : (updateShipment n f s).pending = s.pending := rfl
@[simp] theorem updateShipment_power (n : Nat) (f : Shipment → Shipment) (s : State) : (updateShipment n f s).power = s.power := rfl
@[simp] theorem updateShipment_rx (n : Nat) (f : Shipment → Shipment) (s : State) : (updateShipment n f s).rx = s.rx := rfl
@[simp] theorem updateShipment_intake (n : Nat) (f : Shipment → Shipment) (s : State) : (updateShipment n f s).intake = s.intake := rfl
@[simp] theorem updateShipment_tx (n : Nat) (f : Shipment → Shipment) (s : State) : (updateShipment n f s).tx = s.tx := rfl
@[simp] theorem updateShipment_resetStage (n : Nat) (f : Shipment → Shipment) (s : State) : (updateShipment n f s).resetStage = s.resetStage := rfl
@[simp] theorem updateShipment_events (n : Nat) (f : Shipment → Shipment) (s : State) : (updateShipment n f s).events = s.events := rfl
@[simp] theorem updateShipment_resetCause (n : Nat) (f : Shipment → Shipment) (s : State) : (updateShipment n f s).resetCause = s.resetCause := rfl
@[simp] theorem updateShipment_changed (n : Nat) (f : Shipment → Shipment) (s : State) : (updateShipment n f s).changed = s.changed := rfl
@[simp] theorem updateShipment_bayMask (n : Nat) (f : Shipment → Shipment) (s : State) : (updateShipment n f s).bayMask = s.bayMask := rfl
@[simp] theorem updateShipment_linkErrors (n : Nat) (f : Shipment → Shipment) (s : State) : (updateShipment n f s).linkErrors = s.linkErrors := rfl
@[simp] theorem updateShipment_latch (n : Nat) (f : Shipment → Shipment) (s : State) : (updateShipment n f s).latch = s.latch := rfl
@[simp] theorem updateShipment_recordsLost (n : Nat) (f : Shipment → Shipment) (s : State) : (updateShipment n f s).recordsLost = s.recordsLost := rfl
@[simp] theorem updateShipment_titles (n : Nat) (f : Shipment → Shipment) (s : State) : (updateShipment n f s).titles = s.titles := rfl
@[simp] theorem updateShipment_entrySeq (n : Nat) (f : Shipment → Shipment) (s : State) : (updateShipment n f s).entrySeq = s.entrySeq := rfl
@[simp] theorem updateShipment_surveyQueue (n : Nat) (f : Shipment → Shipment) (s : State) : (updateShipment n f s).surveyQueue = s.surveyQueue := rfl
@[simp] theorem updateShipment_rotation (n : Nat) (f : Shipment → Shipment) (s : State) : (updateShipment n f s).rotation = s.rotation := rfl
@[simp] theorem updateShipment_nextWindow (n : Nat) (f : Shipment → Shipment) (s : State) : (updateShipment n f s).nextWindow = s.nextWindow := rfl
@[simp] theorem updateShipment_grant (n : Nat) (f : Shipment → Shipment) (s : State) : (updateShipment n f s).grant = s.grant := rfl
@[simp] theorem updateShipment_patrons (n : Nat) (f : Shipment → Shipment) (s : State) : (updateShipment n f s).patrons = s.patrons := rfl
@[simp] theorem updateShipment_eligibility (n : Nat) (f : Shipment → Shipment) (s : State) : (updateShipment n f s).eligibility = s.eligibility := rfl
@[simp] theorem updateShipment_shipmentCounter (n : Nat) (f : Shipment → Shipment) (s : State) : (updateShipment n f s).shipmentCounter = s.shipmentCounter := rfl
@[simp] theorem updateShipment_selection (n : Nat) (f : Shipment → Shipment) (s : State) : (updateShipment n f s).selection = s.selection := rfl
@[simp] theorem updateShipment_jobs (n : Nat) (f : Shipment → Shipment) (s : State) : (updateShipment n f s).jobs = s.jobs := rfl
@[simp] theorem updateShipment_jobCounter (n : Nat) (f : Shipment → Shipment) (s : State) : (updateShipment n f s).jobCounter = s.jobCounter := rfl
@[simp] theorem updateShipment_bays (n : Nat) (f : Shipment → Shipment) (s : State) : (updateShipment n f s).bays = s.bays := rfl
@[simp] theorem updateShipment_supplyLevel (n : Nat) (f : Shipment → Shipment) (s : State) : (updateShipment n f s).supplyLevel = s.supplyLevel := rfl
@[simp] theorem updateShipment_supply (n : Nat) (f : Shipment → Shipment) (s : State) : (updateShipment n f s).supply = s.supply := rfl
@[simp] theorem updateShipment_supplyCount (n : Nat) (f : Shipment → Shipment) (s : State) : (updateShipment n f s).supplyCount = s.supplyCount := rfl
@[simp] theorem updateShipment_lowTimer (n : Nat) (f : Shipment → Shipment) (s : State) : (updateShipment n f s).lowTimer = s.lowTimer := rfl
@[simp] theorem updateShipment_abandoned (n : Nat) (f : Shipment → Shipment) (s : State) : (updateShipment n f s).abandoned = s.abandoned := rfl
@[simp] theorem updateShipment_cartridges (n : Nat) (f : Shipment → Shipment) (s : State) : (updateShipment n f s).cartridges = s.cartridges := rfl
@[simp] theorem updateShipment_copies (n : Nat) (f : Shipment → Shipment) (s : State) : (updateShipment n f s).copies = s.copies := rfl
@[simp] theorem updateShipment_holds (n : Nat) (f : Shipment → Shipment) (s : State) : (updateShipment n f s).holds = s.holds := rfl
@[simp] theorem updateShipment_pickList (n : Nat) (f : Shipment → Shipment) (s : State) : (updateShipment n f s).pickList = s.pickList := rfl
@[simp] theorem updateShipment_containers (n : Nat) (f : Shipment → Shipment) (s : State) : (updateShipment n f s).containers = s.containers := rfl
@[simp] theorem updateShipment_containerCounter (n : Nat) (f : Shipment → Shipment) (s : State) : (updateShipment n f s).containerCounter = s.containerCounter := rfl
@[simp] theorem updateShipment_sealCounter (n : Nat) (f : Shipment → Shipment) (s : State) : (updateShipment n f s).sealCounter = s.sealCounter := rfl
@[simp] theorem updateShipment_clock (n : Nat) (f : Shipment → Shipment) (s : State) : (updateShipment n f s).clock = s.clock := rfl
@[simp] theorem updateShipment_cutoffs (n : Nat) (f : Shipment → Shipment) (s : State) : (updateShipment n f s).cutoffs = s.cutoffs := rfl
@[simp] theorem updateShipment_batches (n : Nat) (f : Shipment → Shipment) (s : State) : (updateShipment n f s).batches = s.batches := rfl
@[simp] theorem updateShipment_batchCounter (n : Nat) (f : Shipment → Shipment) (s : State) : (updateShipment n f s).batchCounter = s.batchCounter := rfl
@[simp] theorem updateShipment_loans (n : Nat) (f : Shipment → Shipment) (s : State) : (updateShipment n f s).loans = s.loans := rfl
@[simp] theorem updateShipment_cartridgePeriod (n : Nat) (f : Shipment → Shipment) (s : State) : (updateShipment n f s).cartridgePeriod = s.cartridgePeriod := rfl
@[simp] theorem updateShipment_copyPeriod (n : Nat) (f : Shipment → Shipment) (s : State) : (updateShipment n f s).copyPeriod = s.copyPeriod := rfl
@[simp] theorem updateShipment_slots (n : Nat) (f : Shipment → Shipment) (s : State) : (updateShipment n f s).slots = s.slots := rfl
@[simp] theorem updateShipment_counters (n : Nat) (f : Shipment → Shipment) (s : State) : (updateShipment n f s).counters = s.counters := rfl
@[simp] theorem updateShipment_checkWord (n : Nat) (f : Shipment → Shipment) (s : State) : (updateShipment n f s).checkWord = s.checkWord := rfl
@[simp] theorem updateShipment_choices (n : Nat) (f : Shipment → Shipment) (s : State) : (updateShipment n f s).choices = s.choices := rfl

/-! ## updateJob -/

@[simp] theorem updateJob_jobs (n : Nat) (f : Job → Job) (s : State) :
    (updateJob n f s).jobs = replace (·.number == n) f s.jobs := rfl
@[simp] theorem updateJob_pending (n : Nat) (f : Job → Job) (s : State) : (updateJob n f s).pending = s.pending := rfl
@[simp] theorem updateJob_power (n : Nat) (f : Job → Job) (s : State) : (updateJob n f s).power = s.power := rfl
@[simp] theorem updateJob_rx (n : Nat) (f : Job → Job) (s : State) : (updateJob n f s).rx = s.rx := rfl
@[simp] theorem updateJob_intake (n : Nat) (f : Job → Job) (s : State) : (updateJob n f s).intake = s.intake := rfl
@[simp] theorem updateJob_tx (n : Nat) (f : Job → Job) (s : State) : (updateJob n f s).tx = s.tx := rfl
@[simp] theorem updateJob_resetStage (n : Nat) (f : Job → Job) (s : State) : (updateJob n f s).resetStage = s.resetStage := rfl
@[simp] theorem updateJob_events (n : Nat) (f : Job → Job) (s : State) : (updateJob n f s).events = s.events := rfl
@[simp] theorem updateJob_resetCause (n : Nat) (f : Job → Job) (s : State) : (updateJob n f s).resetCause = s.resetCause := rfl
@[simp] theorem updateJob_changed (n : Nat) (f : Job → Job) (s : State) : (updateJob n f s).changed = s.changed := rfl
@[simp] theorem updateJob_bayMask (n : Nat) (f : Job → Job) (s : State) : (updateJob n f s).bayMask = s.bayMask := rfl
@[simp] theorem updateJob_linkErrors (n : Nat) (f : Job → Job) (s : State) : (updateJob n f s).linkErrors = s.linkErrors := rfl
@[simp] theorem updateJob_latch (n : Nat) (f : Job → Job) (s : State) : (updateJob n f s).latch = s.latch := rfl
@[simp] theorem updateJob_recordsLost (n : Nat) (f : Job → Job) (s : State) : (updateJob n f s).recordsLost = s.recordsLost := rfl
@[simp] theorem updateJob_titles (n : Nat) (f : Job → Job) (s : State) : (updateJob n f s).titles = s.titles := rfl
@[simp] theorem updateJob_entrySeq (n : Nat) (f : Job → Job) (s : State) : (updateJob n f s).entrySeq = s.entrySeq := rfl
@[simp] theorem updateJob_surveyQueue (n : Nat) (f : Job → Job) (s : State) : (updateJob n f s).surveyQueue = s.surveyQueue := rfl
@[simp] theorem updateJob_rotation (n : Nat) (f : Job → Job) (s : State) : (updateJob n f s).rotation = s.rotation := rfl
@[simp] theorem updateJob_nextWindow (n : Nat) (f : Job → Job) (s : State) : (updateJob n f s).nextWindow = s.nextWindow := rfl
@[simp] theorem updateJob_grant (n : Nat) (f : Job → Job) (s : State) : (updateJob n f s).grant = s.grant := rfl
@[simp] theorem updateJob_patrons (n : Nat) (f : Job → Job) (s : State) : (updateJob n f s).patrons = s.patrons := rfl
@[simp] theorem updateJob_eligibility (n : Nat) (f : Job → Job) (s : State) : (updateJob n f s).eligibility = s.eligibility := rfl
@[simp] theorem updateJob_shipments (n : Nat) (f : Job → Job) (s : State) : (updateJob n f s).shipments = s.shipments := rfl
@[simp] theorem updateJob_shipmentCounter (n : Nat) (f : Job → Job) (s : State) : (updateJob n f s).shipmentCounter = s.shipmentCounter := rfl
@[simp] theorem updateJob_selection (n : Nat) (f : Job → Job) (s : State) : (updateJob n f s).selection = s.selection := rfl
@[simp] theorem updateJob_jobCounter (n : Nat) (f : Job → Job) (s : State) : (updateJob n f s).jobCounter = s.jobCounter := rfl
@[simp] theorem updateJob_bays (n : Nat) (f : Job → Job) (s : State) : (updateJob n f s).bays = s.bays := rfl
@[simp] theorem updateJob_supplyLevel (n : Nat) (f : Job → Job) (s : State) : (updateJob n f s).supplyLevel = s.supplyLevel := rfl
@[simp] theorem updateJob_supply (n : Nat) (f : Job → Job) (s : State) : (updateJob n f s).supply = s.supply := rfl
@[simp] theorem updateJob_supplyCount (n : Nat) (f : Job → Job) (s : State) : (updateJob n f s).supplyCount = s.supplyCount := rfl
@[simp] theorem updateJob_lowTimer (n : Nat) (f : Job → Job) (s : State) : (updateJob n f s).lowTimer = s.lowTimer := rfl
@[simp] theorem updateJob_abandoned (n : Nat) (f : Job → Job) (s : State) : (updateJob n f s).abandoned = s.abandoned := rfl
@[simp] theorem updateJob_cartridges (n : Nat) (f : Job → Job) (s : State) : (updateJob n f s).cartridges = s.cartridges := rfl
@[simp] theorem updateJob_copies (n : Nat) (f : Job → Job) (s : State) : (updateJob n f s).copies = s.copies := rfl
@[simp] theorem updateJob_holds (n : Nat) (f : Job → Job) (s : State) : (updateJob n f s).holds = s.holds := rfl
@[simp] theorem updateJob_pickList (n : Nat) (f : Job → Job) (s : State) : (updateJob n f s).pickList = s.pickList := rfl
@[simp] theorem updateJob_containers (n : Nat) (f : Job → Job) (s : State) : (updateJob n f s).containers = s.containers := rfl
@[simp] theorem updateJob_containerCounter (n : Nat) (f : Job → Job) (s : State) : (updateJob n f s).containerCounter = s.containerCounter := rfl
@[simp] theorem updateJob_sealCounter (n : Nat) (f : Job → Job) (s : State) : (updateJob n f s).sealCounter = s.sealCounter := rfl
@[simp] theorem updateJob_clock (n : Nat) (f : Job → Job) (s : State) : (updateJob n f s).clock = s.clock := rfl
@[simp] theorem updateJob_cutoffs (n : Nat) (f : Job → Job) (s : State) : (updateJob n f s).cutoffs = s.cutoffs := rfl
@[simp] theorem updateJob_batches (n : Nat) (f : Job → Job) (s : State) : (updateJob n f s).batches = s.batches := rfl
@[simp] theorem updateJob_batchCounter (n : Nat) (f : Job → Job) (s : State) : (updateJob n f s).batchCounter = s.batchCounter := rfl
@[simp] theorem updateJob_loans (n : Nat) (f : Job → Job) (s : State) : (updateJob n f s).loans = s.loans := rfl
@[simp] theorem updateJob_cartridgePeriod (n : Nat) (f : Job → Job) (s : State) : (updateJob n f s).cartridgePeriod = s.cartridgePeriod := rfl
@[simp] theorem updateJob_copyPeriod (n : Nat) (f : Job → Job) (s : State) : (updateJob n f s).copyPeriod = s.copyPeriod := rfl
@[simp] theorem updateJob_slots (n : Nat) (f : Job → Job) (s : State) : (updateJob n f s).slots = s.slots := rfl
@[simp] theorem updateJob_counters (n : Nat) (f : Job → Job) (s : State) : (updateJob n f s).counters = s.counters := rfl
@[simp] theorem updateJob_checkWord (n : Nat) (f : Job → Job) (s : State) : (updateJob n f s).checkWord = s.checkWord := rfl
@[simp] theorem updateJob_choices (n : Nat) (f : Job → Job) (s : State) : (updateJob n f s).choices = s.choices := rfl

/-! ## updateCart -/

@[simp] theorem updateCart_cartridges (n : Nat) (f : Cartridge → Cartridge) (s : State) :
    (updateCart n f s).cartridges = replace (·.serial == n) f s.cartridges := rfl
@[simp] theorem updateCart_pending (n : Nat) (f : Cartridge → Cartridge) (s : State) : (updateCart n f s).pending = s.pending := rfl
@[simp] theorem updateCart_power (n : Nat) (f : Cartridge → Cartridge) (s : State) : (updateCart n f s).power = s.power := rfl
@[simp] theorem updateCart_rx (n : Nat) (f : Cartridge → Cartridge) (s : State) : (updateCart n f s).rx = s.rx := rfl
@[simp] theorem updateCart_intake (n : Nat) (f : Cartridge → Cartridge) (s : State) : (updateCart n f s).intake = s.intake := rfl
@[simp] theorem updateCart_tx (n : Nat) (f : Cartridge → Cartridge) (s : State) : (updateCart n f s).tx = s.tx := rfl
@[simp] theorem updateCart_resetStage (n : Nat) (f : Cartridge → Cartridge) (s : State) : (updateCart n f s).resetStage = s.resetStage := rfl
@[simp] theorem updateCart_events (n : Nat) (f : Cartridge → Cartridge) (s : State) : (updateCart n f s).events = s.events := rfl
@[simp] theorem updateCart_resetCause (n : Nat) (f : Cartridge → Cartridge) (s : State) : (updateCart n f s).resetCause = s.resetCause := rfl
@[simp] theorem updateCart_changed (n : Nat) (f : Cartridge → Cartridge) (s : State) : (updateCart n f s).changed = s.changed := rfl
@[simp] theorem updateCart_bayMask (n : Nat) (f : Cartridge → Cartridge) (s : State) : (updateCart n f s).bayMask = s.bayMask := rfl
@[simp] theorem updateCart_linkErrors (n : Nat) (f : Cartridge → Cartridge) (s : State) : (updateCart n f s).linkErrors = s.linkErrors := rfl
@[simp] theorem updateCart_latch (n : Nat) (f : Cartridge → Cartridge) (s : State) : (updateCart n f s).latch = s.latch := rfl
@[simp] theorem updateCart_recordsLost (n : Nat) (f : Cartridge → Cartridge) (s : State) : (updateCart n f s).recordsLost = s.recordsLost := rfl
@[simp] theorem updateCart_titles (n : Nat) (f : Cartridge → Cartridge) (s : State) : (updateCart n f s).titles = s.titles := rfl
@[simp] theorem updateCart_entrySeq (n : Nat) (f : Cartridge → Cartridge) (s : State) : (updateCart n f s).entrySeq = s.entrySeq := rfl
@[simp] theorem updateCart_surveyQueue (n : Nat) (f : Cartridge → Cartridge) (s : State) : (updateCart n f s).surveyQueue = s.surveyQueue := rfl
@[simp] theorem updateCart_rotation (n : Nat) (f : Cartridge → Cartridge) (s : State) : (updateCart n f s).rotation = s.rotation := rfl
@[simp] theorem updateCart_nextWindow (n : Nat) (f : Cartridge → Cartridge) (s : State) : (updateCart n f s).nextWindow = s.nextWindow := rfl
@[simp] theorem updateCart_grant (n : Nat) (f : Cartridge → Cartridge) (s : State) : (updateCart n f s).grant = s.grant := rfl
@[simp] theorem updateCart_patrons (n : Nat) (f : Cartridge → Cartridge) (s : State) : (updateCart n f s).patrons = s.patrons := rfl
@[simp] theorem updateCart_eligibility (n : Nat) (f : Cartridge → Cartridge) (s : State) : (updateCart n f s).eligibility = s.eligibility := rfl
@[simp] theorem updateCart_shipments (n : Nat) (f : Cartridge → Cartridge) (s : State) : (updateCart n f s).shipments = s.shipments := rfl
@[simp] theorem updateCart_shipmentCounter (n : Nat) (f : Cartridge → Cartridge) (s : State) : (updateCart n f s).shipmentCounter = s.shipmentCounter := rfl
@[simp] theorem updateCart_selection (n : Nat) (f : Cartridge → Cartridge) (s : State) : (updateCart n f s).selection = s.selection := rfl
@[simp] theorem updateCart_jobs (n : Nat) (f : Cartridge → Cartridge) (s : State) : (updateCart n f s).jobs = s.jobs := rfl
@[simp] theorem updateCart_jobCounter (n : Nat) (f : Cartridge → Cartridge) (s : State) : (updateCart n f s).jobCounter = s.jobCounter := rfl
@[simp] theorem updateCart_bays (n : Nat) (f : Cartridge → Cartridge) (s : State) : (updateCart n f s).bays = s.bays := rfl
@[simp] theorem updateCart_supplyLevel (n : Nat) (f : Cartridge → Cartridge) (s : State) : (updateCart n f s).supplyLevel = s.supplyLevel := rfl
@[simp] theorem updateCart_supply (n : Nat) (f : Cartridge → Cartridge) (s : State) : (updateCart n f s).supply = s.supply := rfl
@[simp] theorem updateCart_supplyCount (n : Nat) (f : Cartridge → Cartridge) (s : State) : (updateCart n f s).supplyCount = s.supplyCount := rfl
@[simp] theorem updateCart_lowTimer (n : Nat) (f : Cartridge → Cartridge) (s : State) : (updateCart n f s).lowTimer = s.lowTimer := rfl
@[simp] theorem updateCart_abandoned (n : Nat) (f : Cartridge → Cartridge) (s : State) : (updateCart n f s).abandoned = s.abandoned := rfl
@[simp] theorem updateCart_copies (n : Nat) (f : Cartridge → Cartridge) (s : State) : (updateCart n f s).copies = s.copies := rfl
@[simp] theorem updateCart_holds (n : Nat) (f : Cartridge → Cartridge) (s : State) : (updateCart n f s).holds = s.holds := rfl
@[simp] theorem updateCart_pickList (n : Nat) (f : Cartridge → Cartridge) (s : State) : (updateCart n f s).pickList = s.pickList := rfl
@[simp] theorem updateCart_containers (n : Nat) (f : Cartridge → Cartridge) (s : State) : (updateCart n f s).containers = s.containers := rfl
@[simp] theorem updateCart_containerCounter (n : Nat) (f : Cartridge → Cartridge) (s : State) : (updateCart n f s).containerCounter = s.containerCounter := rfl
@[simp] theorem updateCart_sealCounter (n : Nat) (f : Cartridge → Cartridge) (s : State) : (updateCart n f s).sealCounter = s.sealCounter := rfl
@[simp] theorem updateCart_clock (n : Nat) (f : Cartridge → Cartridge) (s : State) : (updateCart n f s).clock = s.clock := rfl
@[simp] theorem updateCart_cutoffs (n : Nat) (f : Cartridge → Cartridge) (s : State) : (updateCart n f s).cutoffs = s.cutoffs := rfl
@[simp] theorem updateCart_batches (n : Nat) (f : Cartridge → Cartridge) (s : State) : (updateCart n f s).batches = s.batches := rfl
@[simp] theorem updateCart_batchCounter (n : Nat) (f : Cartridge → Cartridge) (s : State) : (updateCart n f s).batchCounter = s.batchCounter := rfl
@[simp] theorem updateCart_loans (n : Nat) (f : Cartridge → Cartridge) (s : State) : (updateCart n f s).loans = s.loans := rfl
@[simp] theorem updateCart_cartridgePeriod (n : Nat) (f : Cartridge → Cartridge) (s : State) : (updateCart n f s).cartridgePeriod = s.cartridgePeriod := rfl
@[simp] theorem updateCart_copyPeriod (n : Nat) (f : Cartridge → Cartridge) (s : State) : (updateCart n f s).copyPeriod = s.copyPeriod := rfl
@[simp] theorem updateCart_slots (n : Nat) (f : Cartridge → Cartridge) (s : State) : (updateCart n f s).slots = s.slots := rfl
@[simp] theorem updateCart_counters (n : Nat) (f : Cartridge → Cartridge) (s : State) : (updateCart n f s).counters = s.counters := rfl
@[simp] theorem updateCart_checkWord (n : Nat) (f : Cartridge → Cartridge) (s : State) : (updateCart n f s).checkWord = s.checkWord := rfl
@[simp] theorem updateCart_choices (n : Nat) (f : Cartridge → Cartridge) (s : State) : (updateCart n f s).choices = s.choices := rfl

/-! ## updateCopy -/

@[simp] theorem updateCopy_copies (n : Nat) (f : Copy → Copy) (s : State) :
    (updateCopy n f s).copies = replace (·.id == n) f s.copies := rfl
@[simp] theorem updateCopy_pending (n : Nat) (f : Copy → Copy) (s : State) : (updateCopy n f s).pending = s.pending := rfl
@[simp] theorem updateCopy_power (n : Nat) (f : Copy → Copy) (s : State) : (updateCopy n f s).power = s.power := rfl
@[simp] theorem updateCopy_rx (n : Nat) (f : Copy → Copy) (s : State) : (updateCopy n f s).rx = s.rx := rfl
@[simp] theorem updateCopy_intake (n : Nat) (f : Copy → Copy) (s : State) : (updateCopy n f s).intake = s.intake := rfl
@[simp] theorem updateCopy_tx (n : Nat) (f : Copy → Copy) (s : State) : (updateCopy n f s).tx = s.tx := rfl
@[simp] theorem updateCopy_resetStage (n : Nat) (f : Copy → Copy) (s : State) : (updateCopy n f s).resetStage = s.resetStage := rfl
@[simp] theorem updateCopy_events (n : Nat) (f : Copy → Copy) (s : State) : (updateCopy n f s).events = s.events := rfl
@[simp] theorem updateCopy_resetCause (n : Nat) (f : Copy → Copy) (s : State) : (updateCopy n f s).resetCause = s.resetCause := rfl
@[simp] theorem updateCopy_changed (n : Nat) (f : Copy → Copy) (s : State) : (updateCopy n f s).changed = s.changed := rfl
@[simp] theorem updateCopy_bayMask (n : Nat) (f : Copy → Copy) (s : State) : (updateCopy n f s).bayMask = s.bayMask := rfl
@[simp] theorem updateCopy_linkErrors (n : Nat) (f : Copy → Copy) (s : State) : (updateCopy n f s).linkErrors = s.linkErrors := rfl
@[simp] theorem updateCopy_latch (n : Nat) (f : Copy → Copy) (s : State) : (updateCopy n f s).latch = s.latch := rfl
@[simp] theorem updateCopy_recordsLost (n : Nat) (f : Copy → Copy) (s : State) : (updateCopy n f s).recordsLost = s.recordsLost := rfl
@[simp] theorem updateCopy_titles (n : Nat) (f : Copy → Copy) (s : State) : (updateCopy n f s).titles = s.titles := rfl
@[simp] theorem updateCopy_entrySeq (n : Nat) (f : Copy → Copy) (s : State) : (updateCopy n f s).entrySeq = s.entrySeq := rfl
@[simp] theorem updateCopy_surveyQueue (n : Nat) (f : Copy → Copy) (s : State) : (updateCopy n f s).surveyQueue = s.surveyQueue := rfl
@[simp] theorem updateCopy_rotation (n : Nat) (f : Copy → Copy) (s : State) : (updateCopy n f s).rotation = s.rotation := rfl
@[simp] theorem updateCopy_nextWindow (n : Nat) (f : Copy → Copy) (s : State) : (updateCopy n f s).nextWindow = s.nextWindow := rfl
@[simp] theorem updateCopy_grant (n : Nat) (f : Copy → Copy) (s : State) : (updateCopy n f s).grant = s.grant := rfl
@[simp] theorem updateCopy_patrons (n : Nat) (f : Copy → Copy) (s : State) : (updateCopy n f s).patrons = s.patrons := rfl
@[simp] theorem updateCopy_eligibility (n : Nat) (f : Copy → Copy) (s : State) : (updateCopy n f s).eligibility = s.eligibility := rfl
@[simp] theorem updateCopy_shipments (n : Nat) (f : Copy → Copy) (s : State) : (updateCopy n f s).shipments = s.shipments := rfl
@[simp] theorem updateCopy_shipmentCounter (n : Nat) (f : Copy → Copy) (s : State) : (updateCopy n f s).shipmentCounter = s.shipmentCounter := rfl
@[simp] theorem updateCopy_selection (n : Nat) (f : Copy → Copy) (s : State) : (updateCopy n f s).selection = s.selection := rfl
@[simp] theorem updateCopy_jobs (n : Nat) (f : Copy → Copy) (s : State) : (updateCopy n f s).jobs = s.jobs := rfl
@[simp] theorem updateCopy_jobCounter (n : Nat) (f : Copy → Copy) (s : State) : (updateCopy n f s).jobCounter = s.jobCounter := rfl
@[simp] theorem updateCopy_bays (n : Nat) (f : Copy → Copy) (s : State) : (updateCopy n f s).bays = s.bays := rfl
@[simp] theorem updateCopy_supplyLevel (n : Nat) (f : Copy → Copy) (s : State) : (updateCopy n f s).supplyLevel = s.supplyLevel := rfl
@[simp] theorem updateCopy_supply (n : Nat) (f : Copy → Copy) (s : State) : (updateCopy n f s).supply = s.supply := rfl
@[simp] theorem updateCopy_supplyCount (n : Nat) (f : Copy → Copy) (s : State) : (updateCopy n f s).supplyCount = s.supplyCount := rfl
@[simp] theorem updateCopy_lowTimer (n : Nat) (f : Copy → Copy) (s : State) : (updateCopy n f s).lowTimer = s.lowTimer := rfl
@[simp] theorem updateCopy_abandoned (n : Nat) (f : Copy → Copy) (s : State) : (updateCopy n f s).abandoned = s.abandoned := rfl
@[simp] theorem updateCopy_cartridges (n : Nat) (f : Copy → Copy) (s : State) : (updateCopy n f s).cartridges = s.cartridges := rfl
@[simp] theorem updateCopy_holds (n : Nat) (f : Copy → Copy) (s : State) : (updateCopy n f s).holds = s.holds := rfl
@[simp] theorem updateCopy_pickList (n : Nat) (f : Copy → Copy) (s : State) : (updateCopy n f s).pickList = s.pickList := rfl
@[simp] theorem updateCopy_containers (n : Nat) (f : Copy → Copy) (s : State) : (updateCopy n f s).containers = s.containers := rfl
@[simp] theorem updateCopy_containerCounter (n : Nat) (f : Copy → Copy) (s : State) : (updateCopy n f s).containerCounter = s.containerCounter := rfl
@[simp] theorem updateCopy_sealCounter (n : Nat) (f : Copy → Copy) (s : State) : (updateCopy n f s).sealCounter = s.sealCounter := rfl
@[simp] theorem updateCopy_clock (n : Nat) (f : Copy → Copy) (s : State) : (updateCopy n f s).clock = s.clock := rfl
@[simp] theorem updateCopy_cutoffs (n : Nat) (f : Copy → Copy) (s : State) : (updateCopy n f s).cutoffs = s.cutoffs := rfl
@[simp] theorem updateCopy_batches (n : Nat) (f : Copy → Copy) (s : State) : (updateCopy n f s).batches = s.batches := rfl
@[simp] theorem updateCopy_batchCounter (n : Nat) (f : Copy → Copy) (s : State) : (updateCopy n f s).batchCounter = s.batchCounter := rfl
@[simp] theorem updateCopy_loans (n : Nat) (f : Copy → Copy) (s : State) : (updateCopy n f s).loans = s.loans := rfl
@[simp] theorem updateCopy_cartridgePeriod (n : Nat) (f : Copy → Copy) (s : State) : (updateCopy n f s).cartridgePeriod = s.cartridgePeriod := rfl
@[simp] theorem updateCopy_copyPeriod (n : Nat) (f : Copy → Copy) (s : State) : (updateCopy n f s).copyPeriod = s.copyPeriod := rfl
@[simp] theorem updateCopy_slots (n : Nat) (f : Copy → Copy) (s : State) : (updateCopy n f s).slots = s.slots := rfl
@[simp] theorem updateCopy_counters (n : Nat) (f : Copy → Copy) (s : State) : (updateCopy n f s).counters = s.counters := rfl
@[simp] theorem updateCopy_checkWord (n : Nat) (f : Copy → Copy) (s : State) : (updateCopy n f s).checkWord = s.checkWord := rfl
@[simp] theorem updateCopy_choices (n : Nat) (f : Copy → Copy) (s : State) : (updateCopy n f s).choices = s.choices := rfl

/-! ## updateContainer -/

@[simp] theorem updateContainer_containers (n : Nat) (f : Container → Container) (s : State) :
    (updateContainer n f s).containers = replace (·.number == n) f s.containers := rfl
@[simp] theorem updateContainer_pending (n : Nat) (f : Container → Container) (s : State) : (updateContainer n f s).pending = s.pending := rfl
@[simp] theorem updateContainer_power (n : Nat) (f : Container → Container) (s : State) : (updateContainer n f s).power = s.power := rfl
@[simp] theorem updateContainer_rx (n : Nat) (f : Container → Container) (s : State) : (updateContainer n f s).rx = s.rx := rfl
@[simp] theorem updateContainer_intake (n : Nat) (f : Container → Container) (s : State) : (updateContainer n f s).intake = s.intake := rfl
@[simp] theorem updateContainer_tx (n : Nat) (f : Container → Container) (s : State) : (updateContainer n f s).tx = s.tx := rfl
@[simp] theorem updateContainer_resetStage (n : Nat) (f : Container → Container) (s : State) : (updateContainer n f s).resetStage = s.resetStage := rfl
@[simp] theorem updateContainer_events (n : Nat) (f : Container → Container) (s : State) : (updateContainer n f s).events = s.events := rfl
@[simp] theorem updateContainer_resetCause (n : Nat) (f : Container → Container) (s : State) : (updateContainer n f s).resetCause = s.resetCause := rfl
@[simp] theorem updateContainer_changed (n : Nat) (f : Container → Container) (s : State) : (updateContainer n f s).changed = s.changed := rfl
@[simp] theorem updateContainer_bayMask (n : Nat) (f : Container → Container) (s : State) : (updateContainer n f s).bayMask = s.bayMask := rfl
@[simp] theorem updateContainer_linkErrors (n : Nat) (f : Container → Container) (s : State) : (updateContainer n f s).linkErrors = s.linkErrors := rfl
@[simp] theorem updateContainer_latch (n : Nat) (f : Container → Container) (s : State) : (updateContainer n f s).latch = s.latch := rfl
@[simp] theorem updateContainer_recordsLost (n : Nat) (f : Container → Container) (s : State) : (updateContainer n f s).recordsLost = s.recordsLost := rfl
@[simp] theorem updateContainer_titles (n : Nat) (f : Container → Container) (s : State) : (updateContainer n f s).titles = s.titles := rfl
@[simp] theorem updateContainer_entrySeq (n : Nat) (f : Container → Container) (s : State) : (updateContainer n f s).entrySeq = s.entrySeq := rfl
@[simp] theorem updateContainer_surveyQueue (n : Nat) (f : Container → Container) (s : State) : (updateContainer n f s).surveyQueue = s.surveyQueue := rfl
@[simp] theorem updateContainer_rotation (n : Nat) (f : Container → Container) (s : State) : (updateContainer n f s).rotation = s.rotation := rfl
@[simp] theorem updateContainer_nextWindow (n : Nat) (f : Container → Container) (s : State) : (updateContainer n f s).nextWindow = s.nextWindow := rfl
@[simp] theorem updateContainer_grant (n : Nat) (f : Container → Container) (s : State) : (updateContainer n f s).grant = s.grant := rfl
@[simp] theorem updateContainer_patrons (n : Nat) (f : Container → Container) (s : State) : (updateContainer n f s).patrons = s.patrons := rfl
@[simp] theorem updateContainer_eligibility (n : Nat) (f : Container → Container) (s : State) : (updateContainer n f s).eligibility = s.eligibility := rfl
@[simp] theorem updateContainer_shipments (n : Nat) (f : Container → Container) (s : State) : (updateContainer n f s).shipments = s.shipments := rfl
@[simp] theorem updateContainer_shipmentCounter (n : Nat) (f : Container → Container) (s : State) : (updateContainer n f s).shipmentCounter = s.shipmentCounter := rfl
@[simp] theorem updateContainer_selection (n : Nat) (f : Container → Container) (s : State) : (updateContainer n f s).selection = s.selection := rfl
@[simp] theorem updateContainer_jobs (n : Nat) (f : Container → Container) (s : State) : (updateContainer n f s).jobs = s.jobs := rfl
@[simp] theorem updateContainer_jobCounter (n : Nat) (f : Container → Container) (s : State) : (updateContainer n f s).jobCounter = s.jobCounter := rfl
@[simp] theorem updateContainer_bays (n : Nat) (f : Container → Container) (s : State) : (updateContainer n f s).bays = s.bays := rfl
@[simp] theorem updateContainer_supplyLevel (n : Nat) (f : Container → Container) (s : State) : (updateContainer n f s).supplyLevel = s.supplyLevel := rfl
@[simp] theorem updateContainer_supply (n : Nat) (f : Container → Container) (s : State) : (updateContainer n f s).supply = s.supply := rfl
@[simp] theorem updateContainer_supplyCount (n : Nat) (f : Container → Container) (s : State) : (updateContainer n f s).supplyCount = s.supplyCount := rfl
@[simp] theorem updateContainer_lowTimer (n : Nat) (f : Container → Container) (s : State) : (updateContainer n f s).lowTimer = s.lowTimer := rfl
@[simp] theorem updateContainer_abandoned (n : Nat) (f : Container → Container) (s : State) : (updateContainer n f s).abandoned = s.abandoned := rfl
@[simp] theorem updateContainer_cartridges (n : Nat) (f : Container → Container) (s : State) : (updateContainer n f s).cartridges = s.cartridges := rfl
@[simp] theorem updateContainer_copies (n : Nat) (f : Container → Container) (s : State) : (updateContainer n f s).copies = s.copies := rfl
@[simp] theorem updateContainer_holds (n : Nat) (f : Container → Container) (s : State) : (updateContainer n f s).holds = s.holds := rfl
@[simp] theorem updateContainer_pickList (n : Nat) (f : Container → Container) (s : State) : (updateContainer n f s).pickList = s.pickList := rfl
@[simp] theorem updateContainer_containerCounter (n : Nat) (f : Container → Container) (s : State) : (updateContainer n f s).containerCounter = s.containerCounter := rfl
@[simp] theorem updateContainer_sealCounter (n : Nat) (f : Container → Container) (s : State) : (updateContainer n f s).sealCounter = s.sealCounter := rfl
@[simp] theorem updateContainer_clock (n : Nat) (f : Container → Container) (s : State) : (updateContainer n f s).clock = s.clock := rfl
@[simp] theorem updateContainer_cutoffs (n : Nat) (f : Container → Container) (s : State) : (updateContainer n f s).cutoffs = s.cutoffs := rfl
@[simp] theorem updateContainer_batches (n : Nat) (f : Container → Container) (s : State) : (updateContainer n f s).batches = s.batches := rfl
@[simp] theorem updateContainer_batchCounter (n : Nat) (f : Container → Container) (s : State) : (updateContainer n f s).batchCounter = s.batchCounter := rfl
@[simp] theorem updateContainer_loans (n : Nat) (f : Container → Container) (s : State) : (updateContainer n f s).loans = s.loans := rfl
@[simp] theorem updateContainer_cartridgePeriod (n : Nat) (f : Container → Container) (s : State) : (updateContainer n f s).cartridgePeriod = s.cartridgePeriod := rfl
@[simp] theorem updateContainer_copyPeriod (n : Nat) (f : Container → Container) (s : State) : (updateContainer n f s).copyPeriod = s.copyPeriod := rfl
@[simp] theorem updateContainer_slots (n : Nat) (f : Container → Container) (s : State) : (updateContainer n f s).slots = s.slots := rfl
@[simp] theorem updateContainer_counters (n : Nat) (f : Container → Container) (s : State) : (updateContainer n f s).counters = s.counters := rfl
@[simp] theorem updateContainer_checkWord (n : Nat) (f : Container → Container) (s : State) : (updateContainer n f s).checkWord = s.checkWord := rfl
@[simp] theorem updateContainer_choices (n : Nat) (f : Container → Container) (s : State) : (updateContainer n f s).choices = s.choices := rfl

/-! ## setBay -/

@[simp] theorem setBay_bays (b : BayId) (x : Bay) (s : State) :
    (setBay b x s).bays = s.bays.set b.val x := rfl
@[simp] theorem setBay_pending (b : BayId) (x : Bay) (s : State) : (setBay b x s).pending = s.pending := rfl
@[simp] theorem setBay_power (b : BayId) (x : Bay) (s : State) : (setBay b x s).power = s.power := rfl
@[simp] theorem setBay_rx (b : BayId) (x : Bay) (s : State) : (setBay b x s).rx = s.rx := rfl
@[simp] theorem setBay_intake (b : BayId) (x : Bay) (s : State) : (setBay b x s).intake = s.intake := rfl
@[simp] theorem setBay_tx (b : BayId) (x : Bay) (s : State) : (setBay b x s).tx = s.tx := rfl
@[simp] theorem setBay_resetStage (b : BayId) (x : Bay) (s : State) : (setBay b x s).resetStage = s.resetStage := rfl
@[simp] theorem setBay_events (b : BayId) (x : Bay) (s : State) : (setBay b x s).events = s.events := rfl
@[simp] theorem setBay_resetCause (b : BayId) (x : Bay) (s : State) : (setBay b x s).resetCause = s.resetCause := rfl
@[simp] theorem setBay_changed (b : BayId) (x : Bay) (s : State) : (setBay b x s).changed = s.changed := rfl
@[simp] theorem setBay_bayMask (b : BayId) (x : Bay) (s : State) : (setBay b x s).bayMask = s.bayMask := rfl
@[simp] theorem setBay_linkErrors (b : BayId) (x : Bay) (s : State) : (setBay b x s).linkErrors = s.linkErrors := rfl
@[simp] theorem setBay_latch (b : BayId) (x : Bay) (s : State) : (setBay b x s).latch = s.latch := rfl
@[simp] theorem setBay_recordsLost (b : BayId) (x : Bay) (s : State) : (setBay b x s).recordsLost = s.recordsLost := rfl
@[simp] theorem setBay_titles (b : BayId) (x : Bay) (s : State) : (setBay b x s).titles = s.titles := rfl
@[simp] theorem setBay_entrySeq (b : BayId) (x : Bay) (s : State) : (setBay b x s).entrySeq = s.entrySeq := rfl
@[simp] theorem setBay_surveyQueue (b : BayId) (x : Bay) (s : State) : (setBay b x s).surveyQueue = s.surveyQueue := rfl
@[simp] theorem setBay_rotation (b : BayId) (x : Bay) (s : State) : (setBay b x s).rotation = s.rotation := rfl
@[simp] theorem setBay_nextWindow (b : BayId) (x : Bay) (s : State) : (setBay b x s).nextWindow = s.nextWindow := rfl
@[simp] theorem setBay_grant (b : BayId) (x : Bay) (s : State) : (setBay b x s).grant = s.grant := rfl
@[simp] theorem setBay_patrons (b : BayId) (x : Bay) (s : State) : (setBay b x s).patrons = s.patrons := rfl
@[simp] theorem setBay_eligibility (b : BayId) (x : Bay) (s : State) : (setBay b x s).eligibility = s.eligibility := rfl
@[simp] theorem setBay_shipments (b : BayId) (x : Bay) (s : State) : (setBay b x s).shipments = s.shipments := rfl
@[simp] theorem setBay_shipmentCounter (b : BayId) (x : Bay) (s : State) : (setBay b x s).shipmentCounter = s.shipmentCounter := rfl
@[simp] theorem setBay_selection (b : BayId) (x : Bay) (s : State) : (setBay b x s).selection = s.selection := rfl
@[simp] theorem setBay_jobs (b : BayId) (x : Bay) (s : State) : (setBay b x s).jobs = s.jobs := rfl
@[simp] theorem setBay_jobCounter (b : BayId) (x : Bay) (s : State) : (setBay b x s).jobCounter = s.jobCounter := rfl
@[simp] theorem setBay_supplyLevel (b : BayId) (x : Bay) (s : State) : (setBay b x s).supplyLevel = s.supplyLevel := rfl
@[simp] theorem setBay_supply (b : BayId) (x : Bay) (s : State) : (setBay b x s).supply = s.supply := rfl
@[simp] theorem setBay_supplyCount (b : BayId) (x : Bay) (s : State) : (setBay b x s).supplyCount = s.supplyCount := rfl
@[simp] theorem setBay_lowTimer (b : BayId) (x : Bay) (s : State) : (setBay b x s).lowTimer = s.lowTimer := rfl
@[simp] theorem setBay_abandoned (b : BayId) (x : Bay) (s : State) : (setBay b x s).abandoned = s.abandoned := rfl
@[simp] theorem setBay_cartridges (b : BayId) (x : Bay) (s : State) : (setBay b x s).cartridges = s.cartridges := rfl
@[simp] theorem setBay_copies (b : BayId) (x : Bay) (s : State) : (setBay b x s).copies = s.copies := rfl
@[simp] theorem setBay_holds (b : BayId) (x : Bay) (s : State) : (setBay b x s).holds = s.holds := rfl
@[simp] theorem setBay_pickList (b : BayId) (x : Bay) (s : State) : (setBay b x s).pickList = s.pickList := rfl
@[simp] theorem setBay_containers (b : BayId) (x : Bay) (s : State) : (setBay b x s).containers = s.containers := rfl
@[simp] theorem setBay_containerCounter (b : BayId) (x : Bay) (s : State) : (setBay b x s).containerCounter = s.containerCounter := rfl
@[simp] theorem setBay_sealCounter (b : BayId) (x : Bay) (s : State) : (setBay b x s).sealCounter = s.sealCounter := rfl
@[simp] theorem setBay_clock (b : BayId) (x : Bay) (s : State) : (setBay b x s).clock = s.clock := rfl
@[simp] theorem setBay_cutoffs (b : BayId) (x : Bay) (s : State) : (setBay b x s).cutoffs = s.cutoffs := rfl
@[simp] theorem setBay_batches (b : BayId) (x : Bay) (s : State) : (setBay b x s).batches = s.batches := rfl
@[simp] theorem setBay_batchCounter (b : BayId) (x : Bay) (s : State) : (setBay b x s).batchCounter = s.batchCounter := rfl
@[simp] theorem setBay_loans (b : BayId) (x : Bay) (s : State) : (setBay b x s).loans = s.loans := rfl
@[simp] theorem setBay_cartridgePeriod (b : BayId) (x : Bay) (s : State) : (setBay b x s).cartridgePeriod = s.cartridgePeriod := rfl
@[simp] theorem setBay_copyPeriod (b : BayId) (x : Bay) (s : State) : (setBay b x s).copyPeriod = s.copyPeriod := rfl
@[simp] theorem setBay_slots (b : BayId) (x : Bay) (s : State) : (setBay b x s).slots = s.slots := rfl
@[simp] theorem setBay_counters (b : BayId) (x : Bay) (s : State) : (setBay b x s).counters = s.counters := rfl
@[simp] theorem setBay_checkWord (b : BayId) (x : Bay) (s : State) : (setBay b x s).checkWord = s.checkWord := rfl
@[simp] theorem setBay_choices (b : BayId) (x : Bay) (s : State) : (setBay b x s).choices = s.choices := rfl

/-! ## dropHold -/

@[simp] theorem dropHold_holds (title patron : Nat) (s : State) :
    (dropHold title patron s).holds = s.holds.filter fun h => !(h.title == title && h.patron == patron) := rfl
@[simp] theorem dropHold_pending (title patron : Nat) (s : State) : (dropHold title patron s).pending = s.pending := rfl
@[simp] theorem dropHold_power (title patron : Nat) (s : State) : (dropHold title patron s).power = s.power := rfl
@[simp] theorem dropHold_rx (title patron : Nat) (s : State) : (dropHold title patron s).rx = s.rx := rfl
@[simp] theorem dropHold_intake (title patron : Nat) (s : State) : (dropHold title patron s).intake = s.intake := rfl
@[simp] theorem dropHold_tx (title patron : Nat) (s : State) : (dropHold title patron s).tx = s.tx := rfl
@[simp] theorem dropHold_resetStage (title patron : Nat) (s : State) : (dropHold title patron s).resetStage = s.resetStage := rfl
@[simp] theorem dropHold_events (title patron : Nat) (s : State) : (dropHold title patron s).events = s.events := rfl
@[simp] theorem dropHold_resetCause (title patron : Nat) (s : State) : (dropHold title patron s).resetCause = s.resetCause := rfl
@[simp] theorem dropHold_changed (title patron : Nat) (s : State) : (dropHold title patron s).changed = s.changed := rfl
@[simp] theorem dropHold_bayMask (title patron : Nat) (s : State) : (dropHold title patron s).bayMask = s.bayMask := rfl
@[simp] theorem dropHold_linkErrors (title patron : Nat) (s : State) : (dropHold title patron s).linkErrors = s.linkErrors := rfl
@[simp] theorem dropHold_latch (title patron : Nat) (s : State) : (dropHold title patron s).latch = s.latch := rfl
@[simp] theorem dropHold_recordsLost (title patron : Nat) (s : State) : (dropHold title patron s).recordsLost = s.recordsLost := rfl
@[simp] theorem dropHold_titles (title patron : Nat) (s : State) : (dropHold title patron s).titles = s.titles := rfl
@[simp] theorem dropHold_entrySeq (title patron : Nat) (s : State) : (dropHold title patron s).entrySeq = s.entrySeq := rfl
@[simp] theorem dropHold_surveyQueue (title patron : Nat) (s : State) : (dropHold title patron s).surveyQueue = s.surveyQueue := rfl
@[simp] theorem dropHold_rotation (title patron : Nat) (s : State) : (dropHold title patron s).rotation = s.rotation := rfl
@[simp] theorem dropHold_nextWindow (title patron : Nat) (s : State) : (dropHold title patron s).nextWindow = s.nextWindow := rfl
@[simp] theorem dropHold_grant (title patron : Nat) (s : State) : (dropHold title patron s).grant = s.grant := rfl
@[simp] theorem dropHold_patrons (title patron : Nat) (s : State) : (dropHold title patron s).patrons = s.patrons := rfl
@[simp] theorem dropHold_eligibility (title patron : Nat) (s : State) : (dropHold title patron s).eligibility = s.eligibility := rfl
@[simp] theorem dropHold_shipments (title patron : Nat) (s : State) : (dropHold title patron s).shipments = s.shipments := rfl
@[simp] theorem dropHold_shipmentCounter (title patron : Nat) (s : State) : (dropHold title patron s).shipmentCounter = s.shipmentCounter := rfl
@[simp] theorem dropHold_selection (title patron : Nat) (s : State) : (dropHold title patron s).selection = s.selection := rfl
@[simp] theorem dropHold_jobs (title patron : Nat) (s : State) : (dropHold title patron s).jobs = s.jobs := rfl
@[simp] theorem dropHold_jobCounter (title patron : Nat) (s : State) : (dropHold title patron s).jobCounter = s.jobCounter := rfl
@[simp] theorem dropHold_bays (title patron : Nat) (s : State) : (dropHold title patron s).bays = s.bays := rfl
@[simp] theorem dropHold_supplyLevel (title patron : Nat) (s : State) : (dropHold title patron s).supplyLevel = s.supplyLevel := rfl
@[simp] theorem dropHold_supply (title patron : Nat) (s : State) : (dropHold title patron s).supply = s.supply := rfl
@[simp] theorem dropHold_supplyCount (title patron : Nat) (s : State) : (dropHold title patron s).supplyCount = s.supplyCount := rfl
@[simp] theorem dropHold_lowTimer (title patron : Nat) (s : State) : (dropHold title patron s).lowTimer = s.lowTimer := rfl
@[simp] theorem dropHold_abandoned (title patron : Nat) (s : State) : (dropHold title patron s).abandoned = s.abandoned := rfl
@[simp] theorem dropHold_cartridges (title patron : Nat) (s : State) : (dropHold title patron s).cartridges = s.cartridges := rfl
@[simp] theorem dropHold_copies (title patron : Nat) (s : State) : (dropHold title patron s).copies = s.copies := rfl
@[simp] theorem dropHold_pickList (title patron : Nat) (s : State) : (dropHold title patron s).pickList = s.pickList := rfl
@[simp] theorem dropHold_containers (title patron : Nat) (s : State) : (dropHold title patron s).containers = s.containers := rfl
@[simp] theorem dropHold_containerCounter (title patron : Nat) (s : State) : (dropHold title patron s).containerCounter = s.containerCounter := rfl
@[simp] theorem dropHold_sealCounter (title patron : Nat) (s : State) : (dropHold title patron s).sealCounter = s.sealCounter := rfl
@[simp] theorem dropHold_clock (title patron : Nat) (s : State) : (dropHold title patron s).clock = s.clock := rfl
@[simp] theorem dropHold_cutoffs (title patron : Nat) (s : State) : (dropHold title patron s).cutoffs = s.cutoffs := rfl
@[simp] theorem dropHold_batches (title patron : Nat) (s : State) : (dropHold title patron s).batches = s.batches := rfl
@[simp] theorem dropHold_batchCounter (title patron : Nat) (s : State) : (dropHold title patron s).batchCounter = s.batchCounter := rfl
@[simp] theorem dropHold_loans (title patron : Nat) (s : State) : (dropHold title patron s).loans = s.loans := rfl
@[simp] theorem dropHold_cartridgePeriod (title patron : Nat) (s : State) : (dropHold title patron s).cartridgePeriod = s.cartridgePeriod := rfl
@[simp] theorem dropHold_copyPeriod (title patron : Nat) (s : State) : (dropHold title patron s).copyPeriod = s.copyPeriod := rfl
@[simp] theorem dropHold_slots (title patron : Nat) (s : State) : (dropHold title patron s).slots = s.slots := rfl
@[simp] theorem dropHold_counters (title patron : Nat) (s : State) : (dropHold title patron s).counters = s.counters := rfl
@[simp] theorem dropHold_checkWord (title patron : Nat) (s : State) : (dropHold title patron s).checkWord = s.checkWord := rfl
@[simp] theorem dropHold_choices (title patron : Nat) (s : State) : (dropHold title patron s).choices = s.choices := rfl

/-! ## unpick -/

@[simp] theorem unpick_pickList (id : Nat) (s : State) :
    (unpick id s).pickList = s.pickList.filter (· != id) := rfl
@[simp] theorem unpick_pending (id : Nat) (s : State) : (unpick id s).pending = s.pending := rfl
@[simp] theorem unpick_power (id : Nat) (s : State) : (unpick id s).power = s.power := rfl
@[simp] theorem unpick_rx (id : Nat) (s : State) : (unpick id s).rx = s.rx := rfl
@[simp] theorem unpick_intake (id : Nat) (s : State) : (unpick id s).intake = s.intake := rfl
@[simp] theorem unpick_tx (id : Nat) (s : State) : (unpick id s).tx = s.tx := rfl
@[simp] theorem unpick_resetStage (id : Nat) (s : State) : (unpick id s).resetStage = s.resetStage := rfl
@[simp] theorem unpick_events (id : Nat) (s : State) : (unpick id s).events = s.events := rfl
@[simp] theorem unpick_resetCause (id : Nat) (s : State) : (unpick id s).resetCause = s.resetCause := rfl
@[simp] theorem unpick_changed (id : Nat) (s : State) : (unpick id s).changed = s.changed := rfl
@[simp] theorem unpick_bayMask (id : Nat) (s : State) : (unpick id s).bayMask = s.bayMask := rfl
@[simp] theorem unpick_linkErrors (id : Nat) (s : State) : (unpick id s).linkErrors = s.linkErrors := rfl
@[simp] theorem unpick_latch (id : Nat) (s : State) : (unpick id s).latch = s.latch := rfl
@[simp] theorem unpick_recordsLost (id : Nat) (s : State) : (unpick id s).recordsLost = s.recordsLost := rfl
@[simp] theorem unpick_titles (id : Nat) (s : State) : (unpick id s).titles = s.titles := rfl
@[simp] theorem unpick_entrySeq (id : Nat) (s : State) : (unpick id s).entrySeq = s.entrySeq := rfl
@[simp] theorem unpick_surveyQueue (id : Nat) (s : State) : (unpick id s).surveyQueue = s.surveyQueue := rfl
@[simp] theorem unpick_rotation (id : Nat) (s : State) : (unpick id s).rotation = s.rotation := rfl
@[simp] theorem unpick_nextWindow (id : Nat) (s : State) : (unpick id s).nextWindow = s.nextWindow := rfl
@[simp] theorem unpick_grant (id : Nat) (s : State) : (unpick id s).grant = s.grant := rfl
@[simp] theorem unpick_patrons (id : Nat) (s : State) : (unpick id s).patrons = s.patrons := rfl
@[simp] theorem unpick_eligibility (id : Nat) (s : State) : (unpick id s).eligibility = s.eligibility := rfl
@[simp] theorem unpick_shipments (id : Nat) (s : State) : (unpick id s).shipments = s.shipments := rfl
@[simp] theorem unpick_shipmentCounter (id : Nat) (s : State) : (unpick id s).shipmentCounter = s.shipmentCounter := rfl
@[simp] theorem unpick_selection (id : Nat) (s : State) : (unpick id s).selection = s.selection := rfl
@[simp] theorem unpick_jobs (id : Nat) (s : State) : (unpick id s).jobs = s.jobs := rfl
@[simp] theorem unpick_jobCounter (id : Nat) (s : State) : (unpick id s).jobCounter = s.jobCounter := rfl
@[simp] theorem unpick_bays (id : Nat) (s : State) : (unpick id s).bays = s.bays := rfl
@[simp] theorem unpick_supplyLevel (id : Nat) (s : State) : (unpick id s).supplyLevel = s.supplyLevel := rfl
@[simp] theorem unpick_supply (id : Nat) (s : State) : (unpick id s).supply = s.supply := rfl
@[simp] theorem unpick_supplyCount (id : Nat) (s : State) : (unpick id s).supplyCount = s.supplyCount := rfl
@[simp] theorem unpick_lowTimer (id : Nat) (s : State) : (unpick id s).lowTimer = s.lowTimer := rfl
@[simp] theorem unpick_abandoned (id : Nat) (s : State) : (unpick id s).abandoned = s.abandoned := rfl
@[simp] theorem unpick_cartridges (id : Nat) (s : State) : (unpick id s).cartridges = s.cartridges := rfl
@[simp] theorem unpick_copies (id : Nat) (s : State) : (unpick id s).copies = s.copies := rfl
@[simp] theorem unpick_holds (id : Nat) (s : State) : (unpick id s).holds = s.holds := rfl
@[simp] theorem unpick_containers (id : Nat) (s : State) : (unpick id s).containers = s.containers := rfl
@[simp] theorem unpick_containerCounter (id : Nat) (s : State) : (unpick id s).containerCounter = s.containerCounter := rfl
@[simp] theorem unpick_sealCounter (id : Nat) (s : State) : (unpick id s).sealCounter = s.sealCounter := rfl
@[simp] theorem unpick_clock (id : Nat) (s : State) : (unpick id s).clock = s.clock := rfl
@[simp] theorem unpick_cutoffs (id : Nat) (s : State) : (unpick id s).cutoffs = s.cutoffs := rfl
@[simp] theorem unpick_batches (id : Nat) (s : State) : (unpick id s).batches = s.batches := rfl
@[simp] theorem unpick_batchCounter (id : Nat) (s : State) : (unpick id s).batchCounter = s.batchCounter := rfl
@[simp] theorem unpick_loans (id : Nat) (s : State) : (unpick id s).loans = s.loans := rfl
@[simp] theorem unpick_cartridgePeriod (id : Nat) (s : State) : (unpick id s).cartridgePeriod = s.cartridgePeriod := rfl
@[simp] theorem unpick_copyPeriod (id : Nat) (s : State) : (unpick id s).copyPeriod = s.copyPeriod := rfl
@[simp] theorem unpick_slots (id : Nat) (s : State) : (unpick id s).slots = s.slots := rfl
@[simp] theorem unpick_counters (id : Nat) (s : State) : (unpick id s).counters = s.counters := rfl
@[simp] theorem unpick_checkWord (id : Nat) (s : State) : (unpick id s).checkWord = s.checkWord := rfl
@[simp] theorem unpick_choices (id : Nat) (s : State) : (unpick id s).choices = s.choices := rfl

/-! ## countMatches -/

@[simp] theorem countMatches_slots (c : Cartridge) (s : State) :
    (countMatches c s).slots = mapVector (fun f => if slotMatches c f then hitSlot f else f) s.slots := rfl
@[simp] theorem countMatches_pending (c : Cartridge) (s : State) : (countMatches c s).pending = s.pending := rfl
@[simp] theorem countMatches_power (c : Cartridge) (s : State) : (countMatches c s).power = s.power := rfl
@[simp] theorem countMatches_rx (c : Cartridge) (s : State) : (countMatches c s).rx = s.rx := rfl
@[simp] theorem countMatches_intake (c : Cartridge) (s : State) : (countMatches c s).intake = s.intake := rfl
@[simp] theorem countMatches_tx (c : Cartridge) (s : State) : (countMatches c s).tx = s.tx := rfl
@[simp] theorem countMatches_resetStage (c : Cartridge) (s : State) : (countMatches c s).resetStage = s.resetStage := rfl
@[simp] theorem countMatches_events (c : Cartridge) (s : State) : (countMatches c s).events = s.events := rfl
@[simp] theorem countMatches_resetCause (c : Cartridge) (s : State) : (countMatches c s).resetCause = s.resetCause := rfl
@[simp] theorem countMatches_changed (c : Cartridge) (s : State) : (countMatches c s).changed = s.changed := rfl
@[simp] theorem countMatches_bayMask (c : Cartridge) (s : State) : (countMatches c s).bayMask = s.bayMask := rfl
@[simp] theorem countMatches_linkErrors (c : Cartridge) (s : State) : (countMatches c s).linkErrors = s.linkErrors := rfl
@[simp] theorem countMatches_latch (c : Cartridge) (s : State) : (countMatches c s).latch = s.latch := rfl
@[simp] theorem countMatches_recordsLost (c : Cartridge) (s : State) : (countMatches c s).recordsLost = s.recordsLost := rfl
@[simp] theorem countMatches_titles (c : Cartridge) (s : State) : (countMatches c s).titles = s.titles := rfl
@[simp] theorem countMatches_entrySeq (c : Cartridge) (s : State) : (countMatches c s).entrySeq = s.entrySeq := rfl
@[simp] theorem countMatches_surveyQueue (c : Cartridge) (s : State) : (countMatches c s).surveyQueue = s.surveyQueue := rfl
@[simp] theorem countMatches_rotation (c : Cartridge) (s : State) : (countMatches c s).rotation = s.rotation := rfl
@[simp] theorem countMatches_nextWindow (c : Cartridge) (s : State) : (countMatches c s).nextWindow = s.nextWindow := rfl
@[simp] theorem countMatches_grant (c : Cartridge) (s : State) : (countMatches c s).grant = s.grant := rfl
@[simp] theorem countMatches_patrons (c : Cartridge) (s : State) : (countMatches c s).patrons = s.patrons := rfl
@[simp] theorem countMatches_eligibility (c : Cartridge) (s : State) : (countMatches c s).eligibility = s.eligibility := rfl
@[simp] theorem countMatches_shipments (c : Cartridge) (s : State) : (countMatches c s).shipments = s.shipments := rfl
@[simp] theorem countMatches_shipmentCounter (c : Cartridge) (s : State) : (countMatches c s).shipmentCounter = s.shipmentCounter := rfl
@[simp] theorem countMatches_selection (c : Cartridge) (s : State) : (countMatches c s).selection = s.selection := rfl
@[simp] theorem countMatches_jobs (c : Cartridge) (s : State) : (countMatches c s).jobs = s.jobs := rfl
@[simp] theorem countMatches_jobCounter (c : Cartridge) (s : State) : (countMatches c s).jobCounter = s.jobCounter := rfl
@[simp] theorem countMatches_bays (c : Cartridge) (s : State) : (countMatches c s).bays = s.bays := rfl
@[simp] theorem countMatches_supplyLevel (c : Cartridge) (s : State) : (countMatches c s).supplyLevel = s.supplyLevel := rfl
@[simp] theorem countMatches_supply (c : Cartridge) (s : State) : (countMatches c s).supply = s.supply := rfl
@[simp] theorem countMatches_supplyCount (c : Cartridge) (s : State) : (countMatches c s).supplyCount = s.supplyCount := rfl
@[simp] theorem countMatches_lowTimer (c : Cartridge) (s : State) : (countMatches c s).lowTimer = s.lowTimer := rfl
@[simp] theorem countMatches_abandoned (c : Cartridge) (s : State) : (countMatches c s).abandoned = s.abandoned := rfl
@[simp] theorem countMatches_cartridges (c : Cartridge) (s : State) : (countMatches c s).cartridges = s.cartridges := rfl
@[simp] theorem countMatches_copies (c : Cartridge) (s : State) : (countMatches c s).copies = s.copies := rfl
@[simp] theorem countMatches_holds (c : Cartridge) (s : State) : (countMatches c s).holds = s.holds := rfl
@[simp] theorem countMatches_pickList (c : Cartridge) (s : State) : (countMatches c s).pickList = s.pickList := rfl
@[simp] theorem countMatches_containers (c : Cartridge) (s : State) : (countMatches c s).containers = s.containers := rfl
@[simp] theorem countMatches_containerCounter (c : Cartridge) (s : State) : (countMatches c s).containerCounter = s.containerCounter := rfl
@[simp] theorem countMatches_sealCounter (c : Cartridge) (s : State) : (countMatches c s).sealCounter = s.sealCounter := rfl
@[simp] theorem countMatches_clock (c : Cartridge) (s : State) : (countMatches c s).clock = s.clock := rfl
@[simp] theorem countMatches_cutoffs (c : Cartridge) (s : State) : (countMatches c s).cutoffs = s.cutoffs := rfl
@[simp] theorem countMatches_batches (c : Cartridge) (s : State) : (countMatches c s).batches = s.batches := rfl
@[simp] theorem countMatches_batchCounter (c : Cartridge) (s : State) : (countMatches c s).batchCounter = s.batchCounter := rfl
@[simp] theorem countMatches_loans (c : Cartridge) (s : State) : (countMatches c s).loans = s.loans := rfl
@[simp] theorem countMatches_cartridgePeriod (c : Cartridge) (s : State) : (countMatches c s).cartridgePeriod = s.cartridgePeriod := rfl
@[simp] theorem countMatches_copyPeriod (c : Cartridge) (s : State) : (countMatches c s).copyPeriod = s.copyPeriod := rfl
@[simp] theorem countMatches_counters (c : Cartridge) (s : State) : (countMatches c s).counters = s.counters := rfl
@[simp] theorem countMatches_checkWord (c : Cartridge) (s : State) : (countMatches c s).checkWord = s.checkWord := rfl
@[simp] theorem countMatches_choices (c : Cartridge) (s : State) : (countMatches c s).choices = s.choices := rfl

/-! ## State.stamped -/

@[simp] theorem stamped_checkWord (s : State) : s.stamped.checkWord = Config.checkWord s.records := rfl
@[simp] theorem stamped_pending (s : State) : s.stamped.pending = s.pending := rfl
@[simp] theorem stamped_power (s : State) : s.stamped.power = s.power := rfl
@[simp] theorem stamped_rx (s : State) : s.stamped.rx = s.rx := rfl
@[simp] theorem stamped_intake (s : State) : s.stamped.intake = s.intake := rfl
@[simp] theorem stamped_tx (s : State) : s.stamped.tx = s.tx := rfl
@[simp] theorem stamped_resetStage (s : State) : s.stamped.resetStage = s.resetStage := rfl
@[simp] theorem stamped_events (s : State) : s.stamped.events = s.events := rfl
@[simp] theorem stamped_resetCause (s : State) : s.stamped.resetCause = s.resetCause := rfl
@[simp] theorem stamped_changed (s : State) : s.stamped.changed = s.changed := rfl
@[simp] theorem stamped_bayMask (s : State) : s.stamped.bayMask = s.bayMask := rfl
@[simp] theorem stamped_linkErrors (s : State) : s.stamped.linkErrors = s.linkErrors := rfl
@[simp] theorem stamped_latch (s : State) : s.stamped.latch = s.latch := rfl
@[simp] theorem stamped_recordsLost (s : State) : s.stamped.recordsLost = s.recordsLost := rfl
@[simp] theorem stamped_titles (s : State) : s.stamped.titles = s.titles := rfl
@[simp] theorem stamped_entrySeq (s : State) : s.stamped.entrySeq = s.entrySeq := rfl
@[simp] theorem stamped_surveyQueue (s : State) : s.stamped.surveyQueue = s.surveyQueue := rfl
@[simp] theorem stamped_rotation (s : State) : s.stamped.rotation = s.rotation := rfl
@[simp] theorem stamped_nextWindow (s : State) : s.stamped.nextWindow = s.nextWindow := rfl
@[simp] theorem stamped_grant (s : State) : s.stamped.grant = s.grant := rfl
@[simp] theorem stamped_patrons (s : State) : s.stamped.patrons = s.patrons := rfl
@[simp] theorem stamped_eligibility (s : State) : s.stamped.eligibility = s.eligibility := rfl
@[simp] theorem stamped_shipments (s : State) : s.stamped.shipments = s.shipments := rfl
@[simp] theorem stamped_shipmentCounter (s : State) : s.stamped.shipmentCounter = s.shipmentCounter := rfl
@[simp] theorem stamped_selection (s : State) : s.stamped.selection = s.selection := rfl
@[simp] theorem stamped_jobs (s : State) : s.stamped.jobs = s.jobs := rfl
@[simp] theorem stamped_jobCounter (s : State) : s.stamped.jobCounter = s.jobCounter := rfl
@[simp] theorem stamped_bays (s : State) : s.stamped.bays = s.bays := rfl
@[simp] theorem stamped_supplyLevel (s : State) : s.stamped.supplyLevel = s.supplyLevel := rfl
@[simp] theorem stamped_supply (s : State) : s.stamped.supply = s.supply := rfl
@[simp] theorem stamped_supplyCount (s : State) : s.stamped.supplyCount = s.supplyCount := rfl
@[simp] theorem stamped_lowTimer (s : State) : s.stamped.lowTimer = s.lowTimer := rfl
@[simp] theorem stamped_abandoned (s : State) : s.stamped.abandoned = s.abandoned := rfl
@[simp] theorem stamped_cartridges (s : State) : s.stamped.cartridges = s.cartridges := rfl
@[simp] theorem stamped_copies (s : State) : s.stamped.copies = s.copies := rfl
@[simp] theorem stamped_holds (s : State) : s.stamped.holds = s.holds := rfl
@[simp] theorem stamped_pickList (s : State) : s.stamped.pickList = s.pickList := rfl
@[simp] theorem stamped_containers (s : State) : s.stamped.containers = s.containers := rfl
@[simp] theorem stamped_containerCounter (s : State) : s.stamped.containerCounter = s.containerCounter := rfl
@[simp] theorem stamped_sealCounter (s : State) : s.stamped.sealCounter = s.sealCounter := rfl
@[simp] theorem stamped_clock (s : State) : s.stamped.clock = s.clock := rfl
@[simp] theorem stamped_cutoffs (s : State) : s.stamped.cutoffs = s.cutoffs := rfl
@[simp] theorem stamped_batches (s : State) : s.stamped.batches = s.batches := rfl
@[simp] theorem stamped_batchCounter (s : State) : s.stamped.batchCounter = s.batchCounter := rfl
@[simp] theorem stamped_loans (s : State) : s.stamped.loans = s.loans := rfl
@[simp] theorem stamped_cartridgePeriod (s : State) : s.stamped.cartridgePeriod = s.cartridgePeriod := rfl
@[simp] theorem stamped_copyPeriod (s : State) : s.stamped.copyPeriod = s.copyPeriod := rfl
@[simp] theorem stamped_slots (s : State) : s.stamped.slots = s.slots := rfl
@[simp] theorem stamped_counters (s : State) : s.stamped.counters = s.counters := rfl
@[simp] theorem stamped_choices (s : State) : s.stamped.choices = s.choices := rfl
@[simp] theorem stamped_records (s : State) : s.stamped.records = s.records := rfl
@[simp] theorem stamped_stamped (s : State) : s.stamped.stamped = s.stamped := rfl

end Sys2Proof.Machine
end

