-- ==== Sys2Proof/Laws/Service.lean ====
section
/-! SUPPORT. What serving a request, an event, an ATTENTION and a condition change can do: said once, cited instead of unfolding. -/

namespace Sys2Proof.Machine

/-! ## Serving (R183, R184) -/

/-- A request that LI can serve, of the right length, runs its rule and is answered (R183, R184). -/
theorem serve_taken {c : Instr} {f : Frame} {s : State} (rule : State → Answer) (hc : headCommand f = c)
    (hs : canServe f s = true) (hb : bodyLengthOk f = true) : serve c f rule s = .next (answered f (rule s)) := by
  simp [serve, checkedRule, hc, hs, hb]

/-- A request that LI can serve, of a wrong length, is answered LENGTH and changes nothing else (R184). -/
theorem serve_wrongLength {c : Instr} {f : Frame} {s : State} (rule : State → Answer) (hc : headCommand f = c)
    (hs : canServe f s = true) (hb : bodyLengthOk f = false) :
    serve c f rule s = .next (answered f (statusOnly .length s)) := by simp [serve, checkedRule, hc, hs, hb]

/-- A request that LI cannot serve changes nothing (log 1). -/
theorem serve_refused {c : Instr} {f : Frame} {s : State} (rule : State → Answer) (hs : canServe f s = false) :
    serve c f rule s = .next s := by simp [serve, hs]

theorem answered_replied (f : Frame) (a : Answer) : answered f a = a.1.replied (replyKind f.kind) f.tag a.2 := rfl

/-- A request served by its rule: the rule's state, and its reply made ready (R181, R183). -/
theorem serve_reply {c : Instr} {f : Frame} {s : State} {k : Byte} (rule : State → Answer) (hc : headCommand f = c)
    (hs : canServe f s = true) (hb : bodyLengthOk f = true) (hk : replyKind f.kind = k) :
    serve c f rule s = .next ((rule s).1.replied k f.tag (rule s).2) := by
  rw [serve_taken rule hc hs hb, answered_replied, hk]

/-- A reply's kind is the request's kind + 80h below 7Fh, FFh from there on (R181). -/
theorem replyKind_eq (k : Byte) : replyKind k = if k.toNat < 0x7F then k + 0x80 else 0xFF := by
  unfold replyKind
  by_cases h : k.toNat < 0x7F
  · rw [if_pos h, if_neg (by omega)]
  · rw [if_neg h, if_pos (by omega)]

/-- Everything serving can do: nothing, or the answer LENGTH, or the rule's own answer. -/
theorem serve_cases (c : Instr) (f : Frame) (rule : State → Answer) (s : State) :
    serve c f rule s = .next s ∨ serve c f rule s = .next (answered f (statusOnly .length s))
      ∨ serve c f rule s = .next (answered f (rule s)) := by
  unfold serve checkedRule
  split
  · split
    · exact .inr (.inr rfl)
    · exact .inr (.inl rfl)
  · exact .inl rfl

/-- With main power off nothing is served (R190, log 8). -/
theorem canServe_unpowered {s : State} (f : Frame) (h : s.power = false) : canServe f s = false := by
  simp [canServe, h]

/-- Once a controller reset has been asked for, nothing is served (R189). -/
theorem canServe_resetting {s : State} (f : Frame) (h : s.resetStage ≠ .none) : canServe f s = false := by
  simp [canServe, h]

/-! ## Events (log 8) -/

theorem event_powered {s : State} (change : State → State) (h : s.power = true) : event change s = .next (change s).stamped := by
  simp [event, h]

theorem event_unpowered {s : State} (change : State → State) (h : s.power = false) : event change s = .next s := by
  simp [event, h]

theorem event_cases (change : State → State) (s : State) :
    event change s = .next s ∨ event change s = .next (change s).stamped := by
  unfold event
  split
  · exact .inr rfl
  · exact .inl rfl

/-! ## ATTENTION (R187) -/

theorem attention_latched {s : State} (h : s.latch = true) : attention s = s := by simp [attention, h]

theorem attention_clear {s : State} (h : s.latch = false) :
    attention s = { s with latch := true, tx := s.tx ++ [attentionFrame] } := by simp [attention, h]

/-- After the summary has been looked at, the latch is set. -/
@[simp] theorem attention_latch (s : State) : (attention s).latch = true := by
  unfold attention
  split <;> simp_all

/-- Everything that ATTENTION can do: the latch and the frames made ready, nothing else. -/
theorem attention_eq (s : State) :
    attention s = { s with latch := true, tx := if s.latch then s.tx else s.tx ++ [attentionFrame] } := by
  cases s with
  | mk => unfold attention; split <;> simp_all

/-- Setting an event flag: the flag, the latch, the frames made ready, nothing else (R185, R187). -/
theorem setEvent_eq (f : EventFlag) (s : State) :
    setEvent f s =
      { s with
        events := s.events.set f
        latch := true
        tx := if s.latch then s.tx else s.tx ++ [attentionFrame] } := attention_eq _

/-- Setting the BAY flag for a bay: the flag, its mask bit, the latch, the frames made ready, nothing else (R185). -/
theorem setBayEvent_eq (b : BayId) (s : State) :
    setBayEvent b s =
      { s with
        events := { s.events with bay := true }
        bayMask := s.bayMask ||| ((1 : BitVec 24) <<< b.val)
        latch := true
        tx := if s.latch then s.tx else s.tx ++ [attentionFrame] } := attention_eq _

/-- A changed mark: the mark, the latch, the frames made ready, nothing else (R186, R187). -/
theorem markChanged_eq (c : Condition) (s : State) :
    markChanged c s =
      { s with
        changed := s.changed.set c
        latch := true
        tx := if s.latch then s.tx else s.tx ++ [attentionFrame] } := attention_eq _

theorem setEvent_flagged (f : EventFlag) (s : State) : setEvent f s = s.flagged f := setEvent_eq f s

theorem setBayEvent_bayFlagged (b : BayId) (s : State) : setBayEvent b s = s.bayFlagged b := setBayEvent_eq b s

theorem markChanged_noted (c : Condition) (s : State) : markChanged c s = s.noted c := markChanged_eq c s

/-- Setting a flag sets it. -/
@[simp] theorem has_set_self (e : Events) (f : EventFlag) : (e.set f).has f = true := by cases f <;> rfl

/-- Setting a flag leaves the others. -/
theorem has_set_other {f g : EventFlag} (e : Events) (h : g ≠ f) : (e.set f).has g = e.has g := by
  cases f <;> cases g <;> first | rfl | exact absurd rfl h

end Sys2Proof.Machine
end

