-- ==== Sys2Proof/Laws/Commands.lean ====
section
/-! SUPPORT. What kind of thing each command is: a request served, an event, or one of the two power commands. -/

namespace Sys2Proof.Machine

/-- A host-request command is the service of its own frame, by one rule. -/
theorem exec_request {c : Instr} {f : Frame} (h : c.frame? = some f) : ∃ rule, ∀ s, exec c s = serve c f rule s := by
  cases c <;> cases h <;> exact ⟨_, fun _ => rfl⟩

/-- Every other command is an event, or switches main power. -/
theorem exec_event {c : Instr} (h : c.frame? = none) (h1 : ∀ a m x, c ≠ .powerUp a m x) (h2 : c ≠ .mainPowerFall) :
    ∃ change, ∀ s, exec c s = event change s := by
  cases c <;> first
    | cases h; done
    | exact absurd rfl (h1 _ _ _)
    | exact absurd rfl h2
    | exact ⟨_, fun _ => rfl⟩

end Sys2Proof.Machine
end

