-- ==== Sys2Proof/Laws/Tables.lean ====
section
/-! SUPPORT. Reading a table after an update: a record is found as the update left it, and every other record as it was. -/

namespace Sys2Proof.Machine

/-! ## Bays -/

@[simp] theorem getBay_setBay_self (b : BayId) (x : Bay) (s : State) : getBay (setBay b x s) b = x := by
  simp [getBay, setBay]

theorem getBay_setBay_other {b c : BayId} (h : c ≠ b) (x : Bay) (s : State) :
    getBay (setBay b x s) c = getBay s c := by
  have e : b.val ≠ c.val := fun e => h (Fin.ext e.symm)
  simp [getBay, setBay, e]

@[simp] theorem getBay_updateBay_self (b : BayId) (f : Bay → Bay) (s : State) :
    getBay (updateBay b f s) b = f (getBay s b) := by simp [updateBay]

theorem getBay_updateBay_other {b c : BayId} (h : c ≠ b) (f : Bay → Bay) (s : State) :
    getBay (updateBay b f s) c = getBay s c := getBay_setBay_other h _ s

/-- Two updates of one bay are one. -/
theorem updateBay_updateBay (b : BayId) (f g : Bay → Bay) (s : State) :
    updateBay b g (updateBay b f s) = updateBay b (fun x => g (f x)) s := by
  simp [updateBay, setBay, getBay]

/-- Each place of a changed table is the change of that place. -/
@[simp] theorem getElem_mapVector {α : Type} {n : Nat} (f : α → α) (v : Vector α n) (i : Nat) (h : i < n) :
    (mapVector f v)[i] = f v[i] := by
  simp [mapVector, Vector.getElem_mk]

/-! ## Lists of records -/

theorem replace_length {α : Type} (hit : α → Bool) (f : α → α) (xs : List α) : (replace hit f xs).length = xs.length := by
  simp [replace]

theorem replace_none {α : Type} {hit : α → Bool} {f : α → α} {xs : List α} (h : ∀ x ∈ xs, hit x = false) :
    replace hit f xs = xs := by
  conv_rhs => rw [← List.map_id xs]
  exact List.map_congr_left fun x hx => by simp [h x hx]

/-- A record found by a key that the change keeps is found changed. -/
theorem find?_replace {α : Type} (hit : α → Bool) (f : α → α) (keep : ∀ x, hit (f x) = hit x) (xs : List α) :
    (replace hit f xs).find? hit = (xs.find? hit).map f := by
  induction xs with
  | nil => rfl
  | cons x xs ih =>
    by_cases h : hit x
    · simp [replace, h, keep]
    · simp only [replace, List.map_cons, h] at ih ⊢
      simpa [h] using ih

/-- A record found by another key, disjoint from the changed one, is found as it was. -/
theorem find?_replace_other {α : Type} (hit look : α → Bool) (f : α → α) (apart : ∀ x, hit x = true → look x = false)
    (keep : ∀ x, hit x = true → look (f x) = false) (xs : List α) : (replace hit f xs).find? look = xs.find? look := by
  induction xs with
  | nil => rfl
  | cons x xs ih =>
    by_cases h : hit x
    · simp [replace, h, apart x h, keep x h] at ih ⊢
      exact ih
    · simp only [replace, List.map_cons, h, List.find?_cons] at ih ⊢
      split <;> simp_all

theorem insertBy_length {α : Type} (before : α → α → Bool) (x : α) (xs : List α) :
    (insertBy before x xs).length = xs.length + 1 := by
  induction xs with
  | nil => rfl
  | cons y ys ih => by_cases h : before x y <;> simp [insertBy, h, ih]

theorem insertBy_perm {α : Type} (before : α → α → Bool) (x : α) (xs : List α) : (insertBy before x xs).Perm (x :: xs) := by
  induction xs with
  | nil => exact .refl _
  | cons y ys ih =>
    by_cases h : before x y
    · simp [insertBy, h]
    · simp only [insertBy, h]
      exact (ih.cons y).trans (.swap x y ys)

theorem sortBy_perm {α : Type} (before : α → α → Bool) (xs : List α) : (sortBy before xs).Perm xs := by
  have go : ∀ (xs acc : List α), (xs.foldl (fun acc x => insertBy before x acc) acc).Perm (xs ++ acc) := by
    intro xs
    induction xs with
    | nil => exact fun _ => .refl _
    | cons x xs ih =>
      exact fun acc => (ih _).trans (((insertBy_perm before x acc).append_left xs).trans List.perm_middle)
  simpa [sortBy] using go xs []

theorem mem_insertBy {α : Type} (before : α → α → Bool) (x y : α) (xs : List α) :
    y ∈ insertBy before x xs ↔ y = x ∨ y ∈ xs := by
  induction xs with
  | nil => simp [insertBy]
  | cons z zs ih =>
    by_cases h : before x z
    · simp [insertBy, h]
    · simp [insertBy, h, ih, or_left_comm]

/-! ## Number counters (R45) -/

theorem numberAfter_iterate (top : Nat) (i n : Nat) (hi : i ≤ top) :
    (numberAfter top)^[i] n = if n ≤ top then (if n + i ≤ top then n + i else n + i - top) else (if i = 0 then n else i) := by
  induction i with
  | zero =>
    show n = _
    split_ifs <;> omega
  | succ i ih =>
    rw [Function.iterate_succ_apply', ih (by omega)]
    unfold numberAfter
    by_cases c : n ≤ top
    · rw [if_pos c, if_pos c]
      by_cases d : n + i ≤ top
      · rw [if_pos d]
        split_ifs <;> omega
      · rw [if_neg d]
        split_ifs <;> omega
    · rw [if_neg c, if_neg c]
      by_cases d : i = 0
      · subst d
        have : ¬ n < top := by omega
        simp [this]
      · have e : i < top := by omega
        simp [d, e]

/-- The number a new record takes is held by none, while fewer are held than there are numbers (R45). -/
theorem takeNumber_free (top : Nat) (held : List Nat) (n : Nat) (h : held.length < top) : takeNumber top held n ∉ held := by
  have go : ∀ fuel n, takeNumber.go top held fuel n ∉ held ∨ ∀ i < fuel, (numberAfter top)^[i] n ∈ held := by
    intro fuel
    induction fuel with
    | zero => exact fun _ => .inr fun i hi => absurd hi (Nat.not_lt_zero i)
    | succ fuel ih =>
      intro n
      unfold takeNumber.go
      by_cases hn : held.contains n
      · simp only [hn, if_true]
        refine (ih (numberAfter top n)).imp_right fun k i hi => ?_
        cases i with
        | zero => simpa using hn
        | succ i => exact k i (by omega)
      · simp only [hn]
        exact .inl (by simpa using hn)
  rcases go (held.length + 1) n with k | k
  · exact k
  · exfalso
    have inj : ∀ i j, i < held.length + 1 → j < held.length + 1 → (numberAfter top)^[i] n = (numberAfter top)^[j] n → i = j := by
      intro i j hi hj e
      rw [numberAfter_iterate top i n (by omega), numberAfter_iterate top j n (by omega)] at e
      split_ifs at e <;> omega
    have sub : ((List.range (held.length + 1)).map fun i => (numberAfter top)^[i] n) ⊆ held := by
      intro x hx
      simp only [List.mem_map, List.mem_range] at hx
      obtain ⟨i, hi, rfl⟩ := hx
      exact k i hi
    have nodup : ((List.range (held.length + 1)).map fun i => (numberAfter top)^[i] n).Nodup := by
      rw [List.nodup_map_iff_inj_on List.nodup_range]
      exact fun i hi j hj e => inj i j (by simpa using hi) (by simpa using hj) e
    have := (List.Nodup.subperm nodup sub).length_le
    simp at this

/-! ## Each table -/

theorem findPatron_updatePatron (n : Nat) (f : Patron → Patron) (keep : ∀ p, (f p).number = p.number) (s : State) :
    findPatron (updatePatron n f s) n = (findPatron s n).map f :=
  find?_replace _ f (fun p => by simp [keep]) _

theorem findShipment_updateShipment (n : Nat) (f : Shipment → Shipment) (keep : ∀ x, (f x).number = x.number)
    (s : State) : findShipment (updateShipment n f s) n = (findShipment s n).map f :=
  find?_replace _ f (fun x => by simp [keep]) _

theorem findJob_updateJob (n : Nat) (f : Job → Job) (keep : ∀ x, (f x).number = x.number) (s : State) :
    findJob (updateJob n f s) n = (findJob s n).map f :=
  find?_replace _ f (fun x => by simp [keep]) _

theorem findCart_updateCart (n : Nat) (f : Cartridge → Cartridge) (keep : ∀ x, (f x).serial = x.serial) (s : State) :
    findCart (updateCart n f s) n = (findCart s n).map f :=
  find?_replace _ f (fun x => by simp [keep]) _

theorem findCopy_updateCopy (n : Nat) (f : Copy → Copy) (keep : ∀ x, (f x).id = x.id) (s : State) :
    findCopy (updateCopy n f s) n = (findCopy s n).map f :=
  find?_replace _ f (fun x => by simp [keep]) _

theorem findContainer_updateContainer (n : Nat) (f : Container → Container) (keep : ∀ x, (f x).number = x.number)
    (s : State) : findContainer (updateContainer n f s) n = (findContainer s n).map f :=
  find?_replace _ f (fun x => by simp [keep]) _

theorem findTitle_updateTitle (k : TitleKey) (f : TitleEntry → TitleEntry) (keep : ∀ x, (f x).key = x.key) (s : State) :
    findTitle (updateTitle k f s) k = (findTitle s k).map f :=
  find?_replace _ f (fun x => by simp [keep]) _

end Sys2Proof.Machine
end

