-- ==== Sys2Proof/Laws/Keeps.lean ====
section
/-! SUPPORT. What every shared operation keeps, said once for each: the fields that only a few commands touch, the rule of the attention
latch, the counts of the title entries, the capacities of the tables. -/

namespace Sys2Proof.Machine

/-! ## The relation -/

/-- The fields that the shared operations on tables and bays leave alone. -/
structure Ambient where
  pending         : List Instr
  power           : Bool
  rx              : Receiver
  intake          : List Frame
  resetStage      : ResetStage
  resetCause      : ResetCause
  linkErrors      : Nat
  recordsLost     : Bool
  entrySeq        : Nat
  nextWindow      : Nat
  selection       : Selection
  supplyLevel     : Nat
  supply          : Supply
  supplyCount     : Nat
  lowTimer        : Nat
  abandoned       : Bool
  clock           : Clock
  cutoffs         : List Nat
  cartridgePeriod : Nat
  copyPeriod      : Nat

/-- The ambient fields of a state. -/
def ambient (s : State) : Ambient :=
  ⟨s.pending, s.power, s.rx, s.intake, s.resetStage, s.resetCause, s.linkErrors, s.recordsLost, s.entrySeq, s.nextWindow, s.selection,
    s.supplyLevel, s.supply, s.supplyCount, s.lowTimer, s.abandoned, s.clock, s.cutoffs, s.cartridgePeriod, s.copyPeriod⟩

/-- While the summary has something unread, the attention latch is set (R187). -/
def Latched (s : State) : Prop := unread s = true → s.latch = true

/-- An operation that takes `s` to `t` keeps the ambient fields, the latch rule, the title counts, the capacities, the order of the queues
and of the batch table, the containers' units. -/
structure Keeps (s t : State) : Prop where
  ambient : ambient t = ambient s
  latched : Latched s → Latched t
  sticky  : s.latch = true → t.latch = true
  titles  : s.titlesAgree → t.titlesAgree
  within  : s.Orderly → s.WithinCapacity → t.WithinCapacity
  order   : s.Orderly → t.Orderly
  batches : s.BatchesOrderly → t.BatchesOrderly
  fit     : s.ContainersFit → t.ContainersFit

theorem Keeps.refl (s : State) : Keeps s s := ⟨rfl, id, id, id, fun _ => id, id, id, id⟩

theorem Keeps.trans {s t u : State} (h : Keeps s t) (k : Keeps t u) : Keeps s u :=
  ⟨k.ambient.trans h.ambient, k.latched ∘ h.latched, k.sticky ∘ h.sticky, k.titles ∘ h.titles, fun o w => k.within (h.order o) (h.within o w),
    k.order ∘ h.order, k.batches ∘ h.batches, k.fit ∘ h.fit⟩

theorem keeps_foldl {α : Type} (f : State → α → State) (step : ∀ s x, Keeps s (f s x)) (xs : List α) (s : State) :
    Keeps s (xs.foldl f s) := by
  induction xs generalizing s with
  | nil => exact .refl s
  | cons x xs ih => exact (step s x).trans (ih _)

/-- What an update that touches no flag, no title, no batch and no queue leaves alone. -/
def quiet (s : State) : Ambient × Events × Conditions × Bool × List TitleEntry × List Batch × List Nat × List TitleKey :=
  (Machine.ambient s, s.events, s.changed, s.latch, s.titles, s.batches, s.eligibility, s.surveyQueue)

/-- The lengths of the tables whose capacity is checked where a record is entered. -/
def NoLonger (s t : State) : Prop :=
  t.patrons.length ≤ s.patrons.length ∧ t.shipments.length ≤ s.shipments.length
    ∧ t.cartridges.length ≤ s.cartridges.length ∧ t.copies.length ≤ s.copies.length
    ∧ t.holds.length ≤ s.holds.length ∧ t.containers.length ≤ s.containers.length

/-- Every patron keeps its number, and no list grows. -/
def PatronsKept (a b : List Patron) : Prop :=
  List.Forall₂ (fun p q => q.number = p.number ∧ q.list.length ≤ p.list.length) a b

theorem PatronsKept.refl (a : List Patron) : PatronsKept a a := List.forall₂_same.2 fun _ _ => ⟨rfl, le_rfl⟩

theorem PatronsKept.map (f : Patron → Patron) (h : ∀ p, (f p).number = p.number ∧ (f p).list.length ≤ p.list.length)
    (a : List Patron) : PatronsKept a (a.map f) := by
  induction a with
  | nil => exact .nil
  | cons p a ih => exact .cons (h p) ih

theorem PatronsKept.numbers {a b : List Patron} (h : PatronsKept a b) : b.map (·.number) = a.map (·.number) := by
  induction h with
  | nil => rfl
  | cons h _ ih => simp only [List.map_cons, h.1, ih]

theorem PatronsKept.lists {a b : List Patron} {n : Nat} (h : PatronsKept a b) (w : ∀ p ∈ a, p.list.length ≤ n) :
    ∀ p ∈ b, p.list.length ≤ n := by
  induction h with
  | nil => exact w
  | cons h _ ih =>
    simp only [List.forall_mem_cons] at w ⊢
    exact ⟨h.2.trans w.1, ih w.2⟩

theorem PatronsKept.items {a b : List Patron} (h : PatronsKept a b) :
    (b.map (·.list.length)).sum ≤ (a.map (·.list.length)).sum := by
  induction h with
  | nil => exact le_rfl
  | cons h _ ih =>
    simp only [List.map_cons, List.sum_cons]
    exact Nat.add_le_add h.2 ih

theorem WithinCapacity.of_noLonger {s t : State} (h : NoLonger s t) (ht : t.titles.length ≤ s.titles.length)
    (hb : t.batches.length ≤ s.batches.length) (hj : t.jobs.length ≤ s.jobs.length) (hl : t.loans.length ≤ s.loans.length)
    (hp : PatronsKept s.patrons t.patrons) (_ : s.Orderly) (w : s.WithinCapacity) : t.WithinCapacity :=
  ⟨ht.trans w.titles, h.1.trans w.patrons, h.2.1.trans w.shipments, h.2.2.1.trans w.cartridges,
    h.2.2.2.1.trans w.copies, h.2.2.2.2.1.trans w.holds, h.2.2.2.2.2.trans w.containers, hb.trans w.batches,
    hj.trans w.jobs, hl.trans w.loans, hp.lists w.lists, hp.items.trans w.items⟩

/-- An update of tables alone, none of them longer after it. -/
theorem Keeps.of_quiet {s t : State} (q : quiet t = quiet s) (h : NoLonger s t)
    (hp : PatronsKept s.patrons t.patrons) (hj : t.jobs.length ≤ s.jobs.length) (hl : t.loans.length ≤ s.loans.length)
    (hf : s.ContainersFit → t.ContainersFit) :
    Keeps s t := by
  have ha : Machine.ambient t = Machine.ambient s := congrArg (·.1) q
  have he : t.events = s.events := congrArg (·.2.1) q
  have hc : t.changed = s.changed := congrArg (·.2.2.1) q
  have hL : t.latch = s.latch := congrArg (·.2.2.2.1) q
  have ht : t.titles = s.titles := congrArg (·.2.2.2.2.1) q
  have hb : t.batches = s.batches := congrArg (·.2.2.2.2.2.1) q
  have hg : t.eligibility = s.eligibility := congrArg (·.2.2.2.2.2.2.1) q
  have hs : t.surveyQueue = s.surveyQueue := congrArg (·.2.2.2.2.2.2.2) q
  refine ⟨ha, ?_, fun h => hL.trans h, ?_,
    WithinCapacity.of_noLonger h (Nat.le_of_eq (by rw [ht])) (Nat.le_of_eq (by rw [hb])) hj hl hp, fun o => ?_, ?_, hf⟩
  · simp only [Latched, unread, he, hc, hL]; exact id
  · simp only [State.titlesAgree, ht]; exact id
  · unfold State.Orderly at o ⊢
    rw [ht, hg, hs]
    exact ⟨o.keys, hp.numbers ▸ o.numbers, o.once, hp.numbers ▸ o.eligible, o.surveys, o.room⟩
  · simp only [State.BatchesOrderly, hb]; exact id

/-- An update that lengthens none of those tables: all of them the same. -/
theorem NoLonger.same {s t : State} (h1 : t.patrons = s.patrons) (h2 : t.shipments = s.shipments)
    (h3 : t.cartridges = s.cartridges) (h4 : t.copies = s.copies) (h5 : t.holds = s.holds)
    (h6 : t.containers = s.containers) : NoLonger s t := by
  simp [NoLonger, h1, h2, h3, h4, h5, h6]

/-- An update outside the tables whose capacity counts. -/
theorem Keeps.of_aside {s t : State} (q : quiet t = quiet s) (h1 : t.patrons = s.patrons) (h2 : t.shipments = s.shipments)
    (h3 : t.cartridges = s.cartridges) (h4 : t.copies = s.copies) (h5 : t.holds = s.holds)
    (h6 : t.containers = s.containers) (hj : t.jobs.length ≤ s.jobs.length)
    (hl : t.loans.length ≤ s.loans.length) : Keeps s t :=
  .of_quiet q (.same h1 h2 h3 h4 h5 h6) (h1 ▸ .refl _) hj hl (by simp only [State.ContainersFit, h6]; exact id)

/-! ## The summary (R185-R187) -/

theorem keeps_readyFrame (f : Frame) (s : State) : Keeps s (readyFrame f s) := .of_aside rfl rfl rfl rfl rfl rfl rfl le_rfl le_rfl

/-- An update of the event flags, the changed marks and the bay mask, followed by ATTENTION. -/
theorem keeps_attention (e : Events) (c : Conditions) (m : BitVec 24) (s : State) :
    Keeps s (attention { s with events := e, changed := c, bayMask := m }) := by
  rw [attention_eq]
  exact ⟨rfl, fun _ _ => rfl, fun _ => rfl, id, fun _ w => ⟨w.1, w.2, w.3, w.4, w.5, w.6, w.7, w.8, w.9, w.10, w.11, w.12⟩, id, id, id⟩

theorem keeps_setEvent (f : EventFlag) (s : State) : Keeps s (setEvent f s) := keeps_attention _ s.changed s.bayMask s

theorem keeps_setBayEvent (b : BayId) (s : State) : Keeps s (setBayEvent b s) := keeps_attention _ s.changed _ s

theorem keeps_markChanged (c : Condition) (s : State) : Keeps s (markChanged c s) :=
  keeps_attention s.events _ s.bayMask s

/-! ## Titles -/

/-- The keys of the SURVEYING entries. -/
def surveyedKeys (titles : List TitleEntry) : List TitleKey := (titles.filter (·.state == .surveying)).map (·.key)

/-- Entries changed or deleted, none of them SURVEYING, under their own keys. -/
theorem surveyedKeys_filterMap {f : TitleEntry → Option TitleEntry}
    (stay : ∀ e, e.state = .surveying → ∃ e', f e = some e' ∧ e'.key = e.key ∧ e'.state = .surveying)
    (back : ∀ e e', f e = some e' → e'.state = .surveying → e.state = .surveying) (l : List TitleEntry) :
    surveyedKeys (l.filterMap f) = surveyedKeys l := by
  induction l with
  | nil => rfl
  | cons e l ih =>
    simp only [surveyedKeys] at ih ⊢
    by_cases h : e.state = .surveying
    · obtain ⟨e', he, hk, hs⟩ := stay e h
      simp [he, h, hs, hk, ih]
    · cases he : f e with
      | none => simp [he, h, ih]
      | some e' =>
        have : e'.state ≠ .surveying := fun hs => h (back e e' he hs)
        simp [he, h, this, ih]

theorem keys_filterMap {f : TitleEntry → Option TitleEntry} (key : ∀ e e', f e = some e' → e'.key = e.key) (l : List TitleEntry) :
    ((l.filterMap f).map (·.key)).Sublist (l.map (·.key)) := by
  induction l with
  | nil => exact .refl _
  | cons e l ih =>
    cases he : f e with
    | none => simpa [he] using ih.cons _
    | some e' => simpa [he, key e e' he] using ih

theorem keeps_filterTitles {s : State} (f : TitleEntry → Option TitleEntry)
    (h : ∀ e e', f e = some e' → e.countsAgree → e'.countsAgree) (key : ∀ e e', f e = some e' → e'.key = e.key)
    (stay : ∀ e, e.state = .surveying → ∃ e', f e = some e' ∧ e'.state = .surveying)
    (back : ∀ e e', f e = some e' → e'.state = .surveying → e.state = .surveying) :
    Keeps s { s with titles := s.titles.filterMap f } := by
  refine ⟨rfl, id, id, fun w e he => ?_,
    WithinCapacity.of_noLonger (.same rfl rfl rfl rfl rfl rfl) (List.length_filterMap_le _ _) .refl .refl .refl (.refl _),
    fun o => ?_, id, id⟩
  · obtain ⟨x, hx, hf⟩ := List.mem_filterMap.1 he
    exact h x e hf (w x hx)
  · refine ⟨o.keys.sublist (keys_filterMap key _), o.numbers, o.once, o.eligible, ?_, o.room⟩
    show List.Perm _ (surveyedKeys _)
    rw [surveyedKeys_filterMap (fun e hs => ?_) back]
    · exact o.surveys
    · obtain ⟨e', he, hs'⟩ := stay e hs
      exact ⟨e', he, key e e' he, hs'⟩

/-- An update of entries as a deletion that deletes none. -/
theorem replace_filterMap {α : Type} (hit : α → Bool) (f : α → α) (l : List α) :
    replace hit f l = l.filterMap fun x => some (if hit x then f x else x) := by
  rw [List.filterMap_eq_map']
  rfl

theorem keeps_updateTitle (k : TitleKey) (f : TitleEntry → TitleEntry) (h : ∀ e, e.countsAgree → (f e).countsAgree)
    (s : State) (key : ∀ e, (f e).key = e.key) (state : ∀ e, (f e).state = .surveying ↔ e.state = .surveying) :
    Keeps s (updateTitle k f s) := by
  unfold updateTitle
  rw [replace_filterMap]
  refine keeps_filterTitles _ (fun e e' he w => ?_) (fun e e' he => ?_) (fun e hs => ⟨_, rfl, ?_⟩) (fun e e' he hs => ?_)
  · obtain rfl := Option.some.inj he
    split
    · exact h e w
    · exact w
  · obtain rfl := Option.some.inj he
    split
    · exact key e
    · rfl
  · split
    · exact (state e).2 hs
    · exact hs
  · obtain rfl := Option.some.inj he
    split at hs
    · exact (state e).1 hs
    · exact hs

/-- With one entry for each key, the entry found is the one with its key. -/
theorem findTitle_unique {s : State} (o : s.Orderly) {k : TitleKey} {e x : TitleEntry} (he : findTitle s k = some e)
    (hx : x ∈ s.titles) (hk : x.key = k) : x = e := by
  have hm := List.mem_of_find?_eq_some he
  have hek : e.key = k := by simpa using List.find?_some he
  exact List.inj_on_of_nodup_map o.keys hx hm (hk.trans hek.symm)

/-- The SURVEYING entries are as they were after a change of an entry that is not SURVEYING before or after. -/
theorem surveyedKeys_replace {k : TitleKey} {f : TitleEntry → TitleEntry} {l : List TitleEntry}
    (before : ∀ x ∈ l, x.key = k → x.state ≠ .surveying) (state : ∀ x ∈ l, x.key = k → (f x).state ≠ .surveying) :
    surveyedKeys (replace (·.key == k) f l) = surveyedKeys l := by
  induction l with
  | nil => rfl
  | cons e l ih =>
    simp only [List.forall_mem_cons] at before state
    have ih := ih before.2 state.2
    simp only [surveyedKeys, replace, List.map_cons] at ih ⊢
    by_cases h : e.key = k
    · simp [h, before.1 h, state.1 h]
      simpa using ih
    · simp only [beq_iff_eq, h, if_false, List.filter_cons]
      split
      · simp only [List.map_cons, List.cons.injEq, true_and]
        simpa using ih
      · simpa using ih

/-- A change of the one entry of a key, which is not SURVEYING before or after. -/
theorem keeps_restateTitle {s : State} {k : TitleKey} {e : TitleEntry} (f : TitleEntry → TitleEntry)
    (h : ∀ e, e.countsAgree → (f e).countsAgree) (he : findTitle s k = some e) (hs : e.state ≠ .surveying)
    (key : ∀ e, (f e).key = e.key) (state : ∀ e, (f e).state ≠ .surveying) : Keeps s (updateTitle k f s) := by
  refine ⟨rfl, id, id, fun w x hx => ?_,
    WithinCapacity.of_noLonger (.same rfl rfl rfl rfl rfl rfl) (Nat.le_of_eq (replace_length _ _ _)) .refl .refl .refl (.refl _),
    fun o => ?_, id, id⟩
  · obtain ⟨y, hy, rfl⟩ := List.mem_map.1 hx
    split
    · exact h y (w y hy)
    · exact w y hy
  · refine ⟨?_, o.numbers, o.once, o.eligible, ?_, o.room⟩
    · have : (replace (·.key == k) f s.titles).map (·.key) = s.titles.map (·.key) := by
        simp only [replace, List.map_map]
        refine List.map_congr_left fun x _ => ?_
        simp only [Function.comp_apply]
        split
        · exact key x
        · rfl
      exact this ▸ o.keys
    · show List.Perm _ (surveyedKeys (replace _ _ _))
      rw [surveyedKeys_replace (fun x hx hk => findTitle_unique o he hx hk ▸ hs) fun x _ _ => state x]
      exact o.surveys

theorem keeps_dropTitle {s : State} {k : TitleKey} {e : TitleEntry} (he : findTitle s k = some e) (hs : e.state ≠ .surveying) :
    Keeps s (dropTitle k s) := by
  refine ⟨rfl, id, id, fun w e he => w e (List.mem_filter.1 he).1,
    WithinCapacity.of_noLonger (.same rfl rfl rfl rfl rfl rfl) (List.length_filter_le _ _) .refl .refl .refl (.refl _),
    fun o => ⟨o.keys.sublist (List.filter_sublist.map _), o.numbers, o.once, o.eligible, ?_, o.room⟩, id, id⟩
  show List.Perm _ (List.map _ (List.filter _ (List.filter _ _)))
  have : (s.titles.filter fun x => !(x.key == k)).filter (·.state == .surveying) = s.titles.filter (·.state == .surveying) := by
    rw [List.filter_filter]
    refine List.filter_congr fun x hx => ?_
    by_cases hk : x.key = k
    · simp [findTitle_unique o he hx hk, hs]
    · simp [hk]
  rw [this]
  exact o.surveys

/-- A survey ends: its entry leaves the survey queue, and is SURVEYING no more, or leaves the table. -/
theorem orderly_surveyEnd {titles titles' : List TitleEntry} {patrons : List Patron} {q : List Nat} {v : List TitleKey} (k : TitleKey)
    (o : Machine.Orderly titles patrons q v) (keys : (titles'.map (·.key)).Sublist (titles.map (·.key)))
    (left : surveyedKeys titles' = (surveyedKeys titles).filter (· != k)) :
    Machine.Orderly titles' patrons q (v.filter (· != k)) := by
  refine ⟨o.keys.sublist keys, o.numbers, o.once, o.eligible, ?_, (List.length_filter_le _ _).trans o.room⟩
  show List.Perm _ (surveyedKeys _)
  rw [left]
  exact o.surveys.filter _

theorem surveyedKeys_out {k : TitleKey} {f : TitleEntry → TitleEntry} (state : ∀ e, (f e).state ≠ .surveying) (l : List TitleEntry) :
    surveyedKeys (replace (·.key == k) f l) = (surveyedKeys l).filter (· != k) := by
  induction l with
  | nil => rfl
  | cons e l ih =>
    simp only [surveyedKeys, replace, List.map_cons, List.filter_cons] at ih ⊢
    by_cases h : e.key = k
    · by_cases hs : e.state = .surveying
      · simp only [h, beq_self_eq_true, if_true, state, beq_iff_eq, if_false, hs, List.map_cons, List.filter_cons, bne_self_eq_false,
          Bool.false_eq_true]
        simpa using ih
      · simp only [h, beq_self_eq_true, if_true, state, beq_iff_eq, if_false, hs]
        simpa using ih
    · by_cases hs : e.state = .surveying
      · simp only [h, beq_iff_eq, if_false, hs, if_true, List.map_cons, List.filter_cons]
        simp only [bne_iff_ne, ne_eq, h, not_false_eq_true, if_true, List.cons.injEq, true_and]
        simpa using ih
      · simp only [h, beq_iff_eq, if_false, hs]
        simpa using ih

/-- The survey of an entry ends with a state of the entry that is not SURVEYING (R15). -/
theorem keeps_surveyOut (k : TitleKey) (f : TitleEntry → TitleEntry) (h : ∀ e, e.countsAgree → (f e).countsAgree)
    (key : ∀ e, (f e).key = e.key) (state : ∀ e, (f e).state ≠ .surveying) (s : State) :
    Keeps s { updateTitle k f s with surveyQueue := s.surveyQueue.filter (· != k) } := by
  refine ⟨rfl, id, id, fun w x hx => ?_,
    WithinCapacity.of_noLonger (.same rfl rfl rfl rfl rfl rfl) (Nat.le_of_eq (replace_length _ _ _)) .refl .refl .refl (.refl _),
    fun o => orderly_surveyEnd k o ?_ (surveyedKeys_out state _), id, id⟩
  · obtain ⟨y, hy, rfl⟩ := List.mem_map.1 hx
    split
    · exact h y (w y hy)
    · exact w y hy
  · show List.Sublist ((replace _ _ _).map _) _
    rw [replace_filterMap]
    refine keys_filterMap (fun e e' he => ?_) _
    obtain rfl := Option.some.inj he
    split
    · exact key e
    · rfl

/-- The survey of an entry ends with its deletion (R17). -/
theorem keeps_surveyDrop (k : TitleKey) (g : Option Grant) (s : State) :
    Keeps s { s with
      titles := s.titles.filter fun e => !(e.key == k)
      surveyQueue := s.surveyQueue.filter (· != k)
      grant := g } := by
  refine ⟨rfl, id, id, fun w e he => w e (List.mem_filter.1 he).1,
    WithinCapacity.of_noLonger (.same rfl rfl rfl rfl rfl rfl) (List.length_filter_le _ _) .refl .refl .refl (.refl _),
    fun o => orderly_surveyEnd k o (List.filter_sublist.map _) ?_, id, id⟩
  simp only [surveyedKeys, List.filter_filter, List.filter_map]
  congr 1
  refine List.filter_congr fun x _ => ?_
  simp only [Function.comp_apply, Bool.and_comm, bne]

theorem keeps_raiseRef (k : TitleKey) (s : State) : Keeps s (raiseRef k s) := keeps_updateTitle k (fun e => { e with refs := e.refs + 1 }) (fun _ w => w) s
  (fun _ => rfl) fun _ => .rfl

theorem keeps_lowerRef (k : TitleKey) (s : State) : Keeps s (lowerRef k s) := by
  refine keeps_filterTitles _ (fun e e' h w => ?_) (fun e e' h => ?_) (fun e hs => ?_) (fun e e' h hs => ?_)
  · split at h
    · split at h <;> cases h
      exact w
    · cases h; exact w
  · split at h
    · split at h <;> cases h
      rfl
    · cases h; rfl
  · simp only [hs]
    split
    · exact ⟨_, rfl, rfl⟩
    · exact ⟨_, rfl, hs⟩
  · split at h
    · split at h <;> cases h
      exact hs
    · cases h; exact hs

theorem keeps_retireReady (title : Nat) (m : Medium) (keep : Nat) (s : State) : Keeps s (retireReady title m keep s) := by
  refine keeps_filterTitles _ (fun e e' h w => ?_) (fun e e' h => ?_) (fun e hs => ?_) (fun e e' h hs => ?_)
  · split at h
    · split at h <;> cases h
      exact w
    · cases h; exact w
  · split at h
    · split at h <;> cases h
      rfl
    · cases h; rfl
  · refine ⟨e, ?_, hs⟩
    simp [hs]
  · split at h
    · split at h <;> cases h
      cases hs
    · cases h; exact hs

end Sys2Proof.Machine
end

