-- ==== Sys2Proof/Laws/KeepsOps.lean ====
section
/-! SUPPORT. The operations on tables, holds, batches, containers, shipments and bays, each shown once to keep what `Keeps` names. -/

namespace Sys2Proof.Machine

/-! ## Ops -/

/-- The change keeps a patron's number, and lengthens no list. -/
def KeepsPatron (f : Patron → Patron) : Prop := ∀ p, (f p).number = p.number ∧ (f p).list.length ≤ p.list.length

theorem KeepsPatron.comp {f g : Patron → Patron} (hf : KeepsPatron f) (hg : KeepsPatron g) : KeepsPatron fun p => g (f p) :=
  fun p => ⟨(hg _).1.trans (hf p).1, (hg _).2.trans (hf p).2⟩

theorem keepsPatron_setItem (title : Nat) (m : Medium) (st : ItemState) : KeepsPatron (setItem title m st) :=
  fun _ => ⟨rfl, (replace_length _ _ _).le⟩

theorem keepsPatron_clearHold : KeepsPatron clearHold := fun p => by
  unfold clearHold
  split <;> exact ⟨rfl, le_rfl⟩

theorem keepsPatron_setItems (keys : List TitleKey) :
    KeepsPatron fun p => keys.foldl (fun q key => setItem key.title key.medium .inShipment q) p := by
  induction keys with
  | nil => exact fun _ => ⟨rfl, le_rfl⟩
  | cons k keys ih => exact (keepsPatron_setItem k.title k.medium .inShipment).comp ih

theorem keeps_updatePatron (n : Nat) (f : Patron → Patron) (s : State) (h : KeepsPatron f) : Keeps s (updatePatron n f s) :=
  .of_quiet rfl ⟨(replace_length _ _ _).le, .refl, .refl, .refl, .refl, .refl⟩
    (.map _ (fun p => by
      dsimp only
      split
      · exact h p
      · exact ⟨rfl, le_rfl⟩) _) le_rfl le_rfl id

theorem keeps_updateShipment (n : Nat) (f : Shipment → Shipment) (s : State) : Keeps s (updateShipment n f s) :=
  .of_quiet rfl ⟨.refl, (replace_length _ _ _).le, .refl, .refl, .refl, .refl⟩ (.refl _) le_rfl le_rfl id

theorem keeps_updateCart (n : Nat) (f : Cartridge → Cartridge) (s : State) : Keeps s (updateCart n f s) :=
  .of_quiet rfl ⟨.refl, .refl, (replace_length _ _ _).le, .refl, .refl, .refl⟩ (.refl _) le_rfl le_rfl id

theorem keeps_updateCopy (n : Nat) (f : Copy → Copy) (s : State) : Keeps s (updateCopy n f s) :=
  .of_quiet rfl ⟨.refl, .refl, .refl, (replace_length _ _ _).le, .refl, .refl⟩ (.refl _) le_rfl le_rfl id

/-- A change of containers that keeps the units of each in agreement with its items and its kind. -/
theorem fit_replace {s : State} (hit : Container → Bool) (f : Container → Container)
    (h : ∀ c ∈ s.containers, hit c = true → c.fits → (f c).fits) (w : s.ContainersFit) : ∀ c ∈ replace hit f s.containers, c.fits := by
  intro c hc
  obtain ⟨x, hx, rfl⟩ := List.mem_map.1 hc
  split
  · exact h x hx ‹_› (w x hx)
  · exact w x hx

theorem keeps_updateContainer (n : Nat) (f : Container → Container) (s : State)
    (h : ∀ c, c.fits → (f c).fits) : Keeps s (updateContainer n f s) :=
  .of_quiet rfl ⟨.refl, .refl, .refl, .refl, .refl, (replace_length _ _ _).le⟩ (.refl _) le_rfl le_rfl
    (fit_replace _ f fun c _ _ => h c)

theorem keeps_updateJob (n : Nat) (f : Job → Job) (s : State) : Keeps s (updateJob n f s) :=
  .of_aside rfl rfl rfl rfl rfl rfl rfl (replace_length _ _ _).le le_rfl

theorem keeps_jobs {x : List Job} {s : State} (h : x.length ≤ s.jobs.length) : Keeps s { s with jobs := x } :=
  .of_aside rfl rfl rfl rfl rfl rfl rfl h le_rfl

theorem keeps_pickList (x : List Nat) (s : State) : Keeps s { s with pickList := x } :=
  .of_aside rfl rfl rfl rfl rfl rfl rfl le_rfl le_rfl

theorem keeps_eligibility {x : List Nat} {s : State}
    (h : s.eligibility.Nodup → (∀ n ∈ s.eligibility, n ∈ s.patrons.map (·.number)) →
      x.Nodup ∧ ∀ n ∈ x, n ∈ s.patrons.map (·.number)) : Keeps s { s with eligibility := x } :=
  ⟨rfl, id, id, id, fun _ w => ⟨w.1, w.2, w.3, w.4, w.5, w.6, w.7, w.8, w.9, w.10, w.11, w.12⟩,
    fun o => ⟨o.keys, o.numbers, (h o.once o.eligible).1, (h o.once o.eligible).2, o.surveys, o.room⟩, id, id⟩

theorem mem_numbers {s : State} {n : Nat} {p : Patron} (h : findPatron s n = some p) : n ∈ s.patrons.map (·.number) := by
  have hn : p.number = n := by simpa using List.find?_some h
  exact List.mem_map.2 ⟨p, List.mem_of_find?_eq_some h, hn⟩

/-- A patron not in the queue is appended at its tail. -/
theorem keeps_enqueue {s : State} {n : Nat} {p : Patron} (h : findPatron s n = some p) (new : n ∉ s.eligibility) :
    Keeps s { s with eligibility := s.eligibility ++ [n] } := by
  refine keeps_eligibility fun ho hm => ⟨?_, fun m hx => ?_⟩
  · rw [List.nodup_append]
    exact ⟨ho, List.nodup_singleton n, fun a ha b hb => by rw [List.mem_singleton.1 hb]; rintro rfl; exact new ha⟩
  · rcases List.mem_append.1 hx with hx | hx
    · exact hm m hx
    · rw [List.mem_singleton.1 hx]
      exact mem_numbers h

theorem keeps_grant (x : Option Grant) (s : State) : Keeps s { s with grant := x } :=
  .of_aside rfl rfl rfl rfl rfl rfl rfl le_rfl le_rfl

theorem keeps_loans {x : List Loan} {s : State} (h : x.length ≤ s.loans.length) : Keeps s { s with loans := x } :=
  .of_aside rfl rfl rfl rfl rfl rfl rfl le_rfl h

theorem keeps_setBay (b : BayId) (x : Bay) (s : State) : Keeps s (setBay b x s) := .of_aside rfl rfl rfl rfl rfl rfl rfl le_rfl le_rfl

theorem keeps_updateBay (b : BayId) (f : Bay → Bay) (s : State) : Keeps s (updateBay b f s) := keeps_setBay b _ s

theorem keeps_setEntry (b : BayId) (e : CartState) (s : State) : Keeps s (setEntry b e s) := by
  unfold setEntry
  split
  · exact keeps_updateCart _ _ s
  · exact .refl s

theorem keeps_appendEligible (n : Nat) (s : State) : Keeps s (appendEligible n s) := by
  unfold appendEligible
  split
  · rename_i p hp
    split
    · rename_i h
      simp only [mayQueue, Bool.and_eq_true, Bool.not_eq_true', List.contains_eq_mem, decide_eq_false_iff_not] at h
      have hn : p.number = n := by simpa using List.find?_some hp
      exact keeps_enqueue hp (hn ▸ h.1.2)
    · exact .refl s
  · exact .refl s

theorem keeps_closeLoan (l : Loan) (s : State) : Keeps s (closeLoan l s) :=
  (keeps_loans (List.length_filter_le _ _)).trans (keeps_updatePatron _ _ _ fun p => by
    refine ⟨(keepsPatron_clearHold _).1.trans ?_, (keepsPatron_clearHold _).2.trans ?_⟩ <;> split <;> simp)

/-! ## Holds -/

theorem keeps_dropHold (title patron : Nat) (s : State) : Keeps s (dropHold title patron s) :=
  .of_quiet rfl ⟨.refl, .refl, .refl, .refl, List.length_filter_le _ _, .refl⟩ (.refl _) le_rfl le_rfl id

theorem keeps_unpick (id : Nat) (s : State) : Keeps s (unpick id s) := keeps_pickList _ s

theorem keeps_allocateCopy (id patron shipment : Nat) (s : State) : Keeps s (allocateCopy id patron shipment s) :=
  (keeps_updateCopy _ _ s).trans (keeps_pickList _ _)

theorem keeps_allocateInto (c : Copy) (p : Patron) (sh : Shipment) (s : State) : Keeps s (allocateInto c p sh s) :=
  ((keeps_allocateCopy _ _ _ s).trans (keeps_updateShipment _ _ _)).trans (keeps_updatePatron _ _ _ (by exact fun _ => ⟨rfl, (replace_length _ _ _).le⟩))

theorem keeps_reserveFor (c : Copy) (p : Patron) (s : State) : Keeps s (reserveFor c p s) :=
  (((keeps_updateCopy _ _ s).trans (keeps_updatePatron _ _ _ (by exact fun _ => ⟨rfl, (replace_length _ _ _).le⟩))).trans (keeps_setEvent _ _)).trans
    (keeps_appendEligible _ _)

theorem keeps_holdService (id : Nat) (s : State) : Keeps s (holdService id s) := by
  unfold holdService
  split
  · exact .refl s
  · split
    · exact .refl s
    · split
      · exact .refl s
      · dsimp only
        split
        · exact ((keeps_dropHold _ _ s).trans (keeps_updatePatron _ _ _ (by exact fun _ => ⟨rfl, le_rfl⟩))).trans (keeps_allocateInto _ _ _ _)
        · exact ((keeps_dropHold _ _ s).trans (keeps_updatePatron _ _ _ (by exact fun _ => ⟨rfl, le_rfl⟩))).trans (keeps_reserveFor _ _ _)

theorem keeps_toShelf (id : Nat) (s : State) : Keeps s (toShelf id s) :=
  ((keeps_updateCopy _ _ s).trans (keeps_unpick _ _)).trans (keeps_holdService _ _)

/-! ## Batches -/

theorem keeps_batches {x : List Batch} {s : State} (h : x.length ≤ s.batches.length)
    (ho : Machine.BatchesOrderly s.batches → Machine.BatchesOrderly x) : Keeps s { s with batches := x } :=
  ⟨rfl, id, id, id, fun _ w => ⟨w.1, w.2, w.3, w.4, w.5, w.6, w.7, h.trans w.8, w.9, w.10, w.11, w.12⟩, id, ho, id⟩

/-- A change of batches that keeps their numbers and opens none. -/
theorem batchesOrderly_replace {l : List Batch} (hit : Batch → Bool) (f : Batch → Batch) (number : ∀ b, (f b).number = b.number)
    (state : ∀ b, (f b).state = .open → b.state = .open) (o : Machine.BatchesOrderly l) :
    Machine.BatchesOrderly (replace hit f l) := by
  refine ⟨?_, le_trans ?_ o.oneOpen⟩
  · have : (replace hit f l).map (·.number) = l.map (·.number) := by
      simp only [replace, List.map_map]
      refine List.map_congr_left fun b _ => ?_
      simp only [Function.comp_apply]
      split
      · exact number b
      · rfl
    exact this ▸ o.numbers
  · rw [replace, List.filter_map, List.length_map]
    refine (List.monotone_filter_right l fun b hb => ?_).length_le
    simp only [Function.comp_apply, beq_iff_eq] at hb ⊢
    split at hb
    · exact state b hb
    · exact hb

theorem keeps_replaceBatches {s : State} (hit : Batch → Bool) (f : Batch → Batch)
    (number : ∀ b, (f b).number = b.number)
    (state : ∀ b, (f b).state = .open → b.state = .open) :
    Keeps s { s with batches := replace hit f s.batches } :=
  keeps_batches (replace_length _ _ _).le (batchesOrderly_replace hit f number state)

theorem keeps_joinBatch (container batch : Nat) (s : State) : Keeps s (joinBatch container batch s) :=
  (keeps_updateContainer container (fun c => { c with state := .batched, batch := some batch }) s fun _ w => w).trans
    (keeps_replaceBatches (s := updateContainer _ _ s) _ _ (fun _ => rfl) fun _ h => h)

theorem keeps_takeSealed (container : Nat) (s : State) : Keeps s (takeSealed container s) := by
  unfold takeSealed
  split
  · exact keeps_joinBatch _ _ s
  · exact .refl s

/-- A new batch, with a number that no batch has, while none is OPEN (R153, R154). -/
theorem batchesOrderly_insert {l : List Batch} {before : Batch → Batch → Bool} {b : Batch} (new : b.number ∉ l.map (·.number))
    (none : l.find? (·.state == .open) = none) (o : Machine.BatchesOrderly l) : Machine.BatchesOrderly (insertBy before b l) := by
  have hp := insertBy_perm before b l
  refine ⟨(hp.map _).nodup_iff.2 (List.nodup_cons.2 ⟨new, o.numbers⟩), ?_⟩
  have hn : l.filter (·.state == .open) = [] := by
    rw [List.filter_eq_nil_iff]
    exact List.find?_eq_none.1 none
  rw [(hp.filter _).length_eq, List.filter_cons, hn]
  split <;> simp

theorem keeps_openNewBatch {s : State} (cutoff : Nat) (none : openBatch s = none) (room : s.batches.length < batchCapacity) :
    Keeps s (openNewBatch cutoff s) := by
  refine Keeps.trans ?_ (keeps_foldl (fun t (c : Container) => joinBatch c.number (newBatchNumber s) t)
    (fun t c => keeps_joinBatch c.number _ t) _ _)
  refine ⟨rfl, id, id, id, fun _ w => ⟨w.1, w.2, w.3, w.4, w.5, w.6, w.7, ?_, w.9, w.10, w.11, w.12⟩, id,
    batchesOrderly_insert (takeNumber_free _ _ _ ?_) none, id⟩
  · show (insertBy _ _ _).length ≤ _
    rw [insertBy_length]
    omega
  · rw [List.length_map]
    exact room.trans (by decide)

theorem keeps_createBatch (s : State) : Keeps s (createBatch s) := by
  unfold createBatch
  split
  · rename_i h
    simp only [Bool.and_eq_true, decide_eq_true_eq, Option.isNone_iff_eq_none] at h
    split
    · exact keeps_openNewBatch _ h.1.2 h.2
    · exact .refl s
  · exact .refl s

theorem keeps_closeBatch (n : Nat) (s : State) : Keeps s (closeBatch n s) :=
  ((keeps_replaceBatches _ _ (by exact fun _ => rfl) (by exact fun _ h => by cases h)).trans (keeps_setEvent _ _)).trans (keeps_createBatch _)

theorem keeps_cutoffReached (s : State) : Keeps s (cutoffReached s) := by
  unfold cutoffReached
  split
  · split
    · split
      · exact keeps_closeBatch _ s
      · exact keeps_replaceBatches _ _ (by exact fun _ => rfl) (by exact fun _ h => h)
    · exact .refl s
  · exact .refl s

theorem keeps_choices (n : Nat) (s : State) : Keeps s { s with choices := n } := .of_aside rfl rfl rfl rfl rfl rfl rfl le_rfl le_rfl

theorem keeps_betweenSeals (s : State) : Keeps s (betweenSeals s) := by
  unfold betweenSeals
  split
  · dsimp only
    split
    · exact (keeps_choices _ s).trans (keeps_cutoffReached _)
    · exact keeps_choices _ s
  · exact .refl s

theorem keeps_closeIfLate (s : State) : Keeps s (closeIfLate s) := by
  unfold closeIfLate
  split
  · split
    · exact keeps_closeBatch _ s
    · exact .refl s
  · exact .refl s

theorem keeps_sweepLoan (s : State) (l : Loan) : Keeps s (sweepLoan s l) := by
  unfold sweepLoan
  split
  · exact (keeps_loans (replace_length _ _ _).le).trans (keeps_updatePatron _ _ _ fun p => by
      dsimp only
      split <;> exact ⟨rfl, le_rfl⟩)
  · exact .refl s

theorem keeps_sweep (s : State) : Keeps s (sweep s) := (keeps_foldl _ keeps_sweepLoan _ s).trans (keeps_setEvent _ _)

/-! ## Containers -/

theorem keeps_sealContainer (n : Nat) (final : Bool) (s : State) : Keeps s (sealContainer n final s) := by
  refine Keeps.trans ?_ (keeps_takeSealed _ _)
  exact .of_quiet rfl ⟨.refl, .refl, .refl, .refl, .refl, (replace_length _ _ _).le⟩ (.refl _) le_rfl le_rfl
    (fit_replace _ _ fun _ _ _ w => w)

theorem keeps_refreshDeadline (shipment : Nat) (s : State) : Keeps s (refreshDeadline shipment s) := by
  unfold refreshDeadline
  split
  · split
    · split
      · exact keeps_updateContainer _ _ s (by exact fun _ w => w)
      · exact .refl s
    · exact .refl s
  · exact .refl s

theorem keeps_unpackItem (s : State) (i : Item) : Keeps s (unpackItem s i) := by
  cases i with
  | cartridge serial => exact keeps_updateCart _ _ s
  | volume id volume =>
    refine (keeps_updateCopy id (setMark volume false) s).trans ?_
    simp only [unpackItem]
    split
    · split
      · exact (keeps_updateCopy _ _ _).trans (keeps_pickList _ _)
      · exact .refl _
    · exact .refl _

theorem keeps_afterDissolve (shipment : Nat) (s : State) : Keeps s (afterDissolve shipment s) := by
  unfold afterDissolve
  split
  · split
    · split
      · exact (keeps_updateShipment _ _ s).trans (keeps_setEvent _ _)
      · exact keeps_updateShipment _ _ s
    · exact .refl s
  · exact .refl s

theorem keeps_filterContainers (keep : Container → Bool) (s : State) :
    Keeps s { s with containers := s.containers.filter keep } :=
  .of_quiet rfl ⟨.refl, .refl, .refl, .refl, .refl, List.length_filter_le _ _⟩ (.refl _) le_rfl le_rfl
    (fun w c hc => w c (List.mem_filter.1 hc).1)

theorem keeps_dissolve (c : Container) (s : State) : Keeps s (dissolve c s) :=
  (((keeps_foldl _ keeps_unpackItem c.items s).trans (keeps_updateShipment _ _ _)).trans
    (keeps_filterContainers _ _)).trans (keeps_afterDissolve _ _)

theorem keeps_dissolveDue (s : State) : Keeps s (dissolveDue s) := keeps_foldl _ (fun t c => keeps_dissolve c t) _ s

theorem keeps_dissolveAll (s : State) : Keeps s (dissolveAll s) := keeps_foldl _ (fun t c => keeps_dissolve c t) _ s

/-! ## Shipments -/

theorem keeps_deleteJob (n : Nat) (s : State) : Keeps s (deleteJob n s) := by
  unfold deleteJob
  split
  · exact (keeps_foldl (fun u (p : Part) => lowerRef p.key u) (fun u p => keeps_lowerRef p.key u) _ s).trans
      (keeps_jobs (List.length_filter_le _ _))
  · exact .refl s

theorem keeps_filterShipments (keep : Shipment → Bool) (s : State) :
    Keeps s { s with shipments := s.shipments.filter keep } :=
  .of_quiet rfl ⟨.refl, List.length_filter_le _ _, .refl, .refl, .refl, .refl⟩ (.refl _) le_rfl le_rfl id

theorem keeps_freeShipment (n : Nat) (s : State) : Keeps s (freeShipment n s) := by
  unfold freeShipment
  split
  · exact (keeps_filterShipments _ s).trans (keeps_updatePatron _ _ _ (by exact fun _ => ⟨rfl, le_rfl⟩))
  · exact .refl s

theorem keeps_freeAndAppend (n : Nat) (s : State) : Keeps s (freeAndAppend n s) := by
  unfold freeAndAppend
  split
  · exact (keeps_freeShipment _ s).trans (keeps_appendEligible _ _)
  · exact .refl s

theorem keeps_readyCheck (n : Nat) (s : State) : Keeps s (readyCheck n s) := by
  unfold readyCheck
  split
  · split
    · exact (keeps_updateShipment _ _ s).trans (keeps_setEvent _ _)
    · exact .refl s
  · exact .refl s

theorem keeps_sealShipment (n : Nat) (s : State) : Keeps s (sealShipment n s) :=
  (keeps_updateShipment _ _ s).trans (keeps_setEvent _ _)

theorem keeps_deleteLines (lines : List JobLine) (s : State) :
    Keeps s (lines.foldl (fun t l => deleteJob l.job t) s) :=
  keeps_foldl (fun t (l : JobLine) => deleteJob l.job t) (fun t l => keeps_deleteJob l.job t) lines s

theorem keeps_completeShipment (sh : Shipment) (s : State) : Keeps s (completeShipment sh s) := by
  unfold completeShipment
  split
  · exact (keeps_sealContainer _ _ s).trans (keeps_sealShipment _ _)
  · split
    · exact (keeps_updateContainer _ _ s (by exact fun _ w => w)).trans (keeps_sealShipment _ _)
    · exact ((keeps_deleteLines _ s).trans (keeps_sealShipment _ _)).trans (keeps_freeAndAppend _ _)

theorem keeps_afterDrop (n : Nat) (s : State) : Keeps s (afterDrop n s) := by
  unfold afterDrop
  split
  · exact .refl s
  · split
    · exact keeps_freeAndAppend _ s
    · split
      · exact keeps_readyCheck _ s
      · split
        · exact keeps_completeShipment _ s
        · exact keeps_refreshDeadline _ s
      · exact .refl s
      · exact .refl s

theorem keeps_dropLine (j : Job) (s : State) : Keeps s (dropLine j s) := by
  unfold dropLine
  split
  · exact .refl s
  · exact ((keeps_updateShipment _ _ s).trans (keeps_updatePatron _ _ _ (by exact fun _ => ⟨rfl, (replace_length _ _ _).le⟩))).trans (keeps_afterDrop _ _)

/-! ## Bays: writes and verification -/

theorem keeps_discardGrant (b : BayId) (s : State) : Keeps s (discardGrant b s) := by
  unfold discardGrant
  split
  · split
    · exact keeps_grant _ s
    · exact .refl s
  · exact .refl s

theorem keeps_pauseBay (b : BayId) (f : PausedFrom) (s : State) : Keeps s (pauseBay b f s) :=
  (keeps_discardGrant b s).trans (keeps_updateBay _ _ _)

theorem keeps_beginWrite (b : BayId) (block : Nat) (data : List Byte) (s : State) : Keeps s (beginWrite b block data s) :=
  keeps_updateBay _ _ s

theorem keeps_writeDirectoryBlock (b : BayId) (block : Nat) (s : State) : Keeps s (writeDirectoryBlock b block s) := by
  unfold writeDirectoryBlock
  split
  · exact keeps_beginWrite _ _ _ s
  · exact .refl s

theorem keeps_writeDirectory (b : BayId) (s : State) : Keeps s (writeDirectory b s) := keeps_writeDirectoryBlock b _ s

theorem keeps_enterDirectory (b : BayId) (s : State) : Keeps s (enterDirectory b s) := by
  unfold enterDirectory
  dsimp only
  split
  · exact (keeps_updateBay _ _ s).trans (keeps_pauseBay _ _ _)
  · exact (keeps_updateBay _ _ s).trans (keeps_writeDirectory _ _)

theorem keeps_enterVerifying (b : BayId) (s : State) : Keeps s (enterVerifying b s) := by
  unfold enterVerifying
  dsimp only
  split
  · exact (keeps_updateBay _ _ s).trans (keeps_enterDirectory _ _)
  · exact keeps_updateBay _ _ s

theorem keeps_startWrite (b : BayId) (s : State) : Keeps s (startWrite b s) := by
  unfold startWrite
  dsimp only
  split
  · exact .refl s
  · split
    · split
      · exact keeps_enterVerifying _ s
      · split
        · split
          · exact keeps_beginWrite _ _ _ s
          · exact .refl s
        · exact .refl s
    · split
      · exact keeps_beginWrite _ _ _ s
      · exact .refl s
    · exact .refl s

/-! ## Bays: jobs -/

theorem keeps_enterWiping (b : BayId) (s : State) : Keeps s (enterWiping b s) :=
  (keeps_setEntry _ _ s).trans (keeps_updateBay _ _ _)

theorem keeps_enterWriting (b : BayId) (s : State) : Keeps s (enterWriting b s) := keeps_updateBay _ _ s

theorem keeps_assignJob (b : BayId) (job : Nat) (s : State) : Keeps s (assignJob b job s) :=
  (((keeps_updateJob _ _ s).trans (keeps_updateBay _ _ _)).trans (keeps_setEntry _ _ _)).trans (keeps_enterWriting _ _)

theorem keeps_offerJob (n : Nat) (s : State) : Keeps s (offerJob n s) := by
  unfold offerJob
  split
  · split
    · exact keeps_assignJob _ _ s
    · exact .refl s
  · exact .refl s

theorem keeps_enterLoaded (b : BayId) (s : State) : Keeps s (enterLoaded b s) := by
  unfold enterLoaded
  dsimp only
  split
  · split
    · exact (keeps_updateBay _ _ s).trans (keeps_assignJob _ _ _)
    · exact keeps_updateBay _ _ s
  · exact keeps_updateBay _ _ s

theorem keeps_giveBack (b : BayId) (s : State) : Keeps s (giveBack b s) := by
  unfold giveBack
  split
  · dsimp only
    split
    · exact ((keeps_updateBay _ _ s).trans (keeps_updateJob _ _ _)).trans (keeps_offerJob _ _)
    · exact keeps_updateBay _ _ s
  · exact .refl s

theorem keeps_chargeOccupant (o : Option Nat) (f : Cartridge → Cartridge) (s : State) :
    Keeps s (match o with
      | some serial => updateCart serial f s
      | none => s) := by
  cases o
  · exact .refl s
  · exact keeps_updateCart _ _ s

theorem keeps_faultBay (b : BayId) (reason : BayFault) (s : State) : Keeps s (faultBay b reason s) :=
  ((((keeps_discardGrant b s).trans (keeps_updateBay _ _ _)).trans (keeps_chargeOccupant _ _ _)).trans
    (keeps_giveBack _ _)).trans (keeps_setBayEvent _ _)

theorem keeps_finishBay (b : BayId) (s : State) : Keeps s (finishBay b s) := by
  refine Keeps.trans ?_ (keeps_setBayEvent _ _)
  split
  · exact (((keeps_updateBay _ _ s).trans (keeps_updateCart _ _ _)).trans (keeps_updateJob _ _ _)).trans
      (keeps_updateShipment _ _ _)
  · exact keeps_updateBay _ _ s

theorem keeps_cartWritten (serial : Nat) (s : State) : Keeps s (cartWritten serial s) := by
  unfold cartWritten
  split
  · split
    · split
      · exact (keeps_readyCheck _ s).trans (keeps_refreshDeadline _ _)
      · exact .refl s
    · exact .refl s
  · exact .refl s

/-! ## Suspect cancellation -/

theorem keeps_abortBay (b : BayId) (s : State) : Keeps s (abortBay b s) := by
  unfold abortBay
  dsimp only
  split
  · exact (((keeps_discardGrant b s).trans (keeps_updateBay _ _ _)).trans (keeps_setEntry _ _ _)).trans
      (keeps_updateBay _ _ _)
  · exact ((keeps_discardGrant b s).trans (keeps_updateBay _ _ _)).trans (keeps_enterWiping _ _)
  · exact ((keeps_discardGrant b s).trans (keeps_updateBay _ _ _)).trans (keeps_enterWiping _ _)
  · exact (keeps_discardGrant b s).trans (keeps_updateBay _ _ _)

theorem keeps_cancelJob (n : Nat) (s : State) : Keeps s (cancelJob n s) := by
  unfold cancelJob
  split
  · split
    · exact .refl s
    · refine (keeps_deleteJob n s).trans (Keeps.trans ?_ (keeps_dropLine _ _))
      split
      · exact keeps_abortBay _ _
      · exact .refl _
  · exact .refl s

theorem keeps_mapPatrons {f : Patron → Patron} (h : KeepsPatron f) (s : State) : Keeps s { s with patrons := s.patrons.map f } :=
  .of_quiet rfl ⟨(List.length_map f).le, .refl, .refl, .refl, .refl, .refl⟩ (.map f h _) le_rfl le_rfl id

theorem keeps_suspectItems (k : TitleKey) (s : State) : Keeps s (suspectItems k s) := by
  unfold suspectItems
  split
  · exact .refl s
  · exact keeps_mapPatrons (f := awaitMaster _ _) (fun _ => ⟨rfl, (replace_length _ _ _).le⟩) s

theorem keeps_cancelEntry (k : TitleKey) (s : State) : Keeps s (cancelEntry k s) :=
  (keeps_foldl (fun t n => cancelJob n t) (fun t n => keeps_cancelJob n t) _ s).trans (keeps_suspectItems _ _)

end Sys2Proof.Machine
end

