-- ==== Sys2Proof/Laws/KeepsRules.lean ====
section
/-! SUPPORT. The commands' own rules, each shown once to keep what `Keeps` names: bays, supply, master port, survey, titles, patrons,
selection, shipments, stock, recall, returns, packing, dispatch. -/

namespace Sys2Proof.Machine

/-! ## Bays -/

theorem keeps_insertCartridge (b : BayId) (s : State) : Keeps s (insertCartridge b s) := by
  unfold insertCartridge
  split
  · exact keeps_updateBay _ _ s
  · exact keeps_updateBay _ _ s
  · exact .refl s

theorem keeps_rejectBay (b : BayId) (r : RejectReason) (serial : Option Nat) (s : State) :
    Keeps s (rejectBay b r serial s) := (keeps_updateBay _ _ s).trans (keeps_setBayEvent _ _)

theorem keeps_admitCart (b : BayId) (serial : Nat) (k : Kind) (s : State) : Keeps s (admitCart b serial k s) :=
  (keeps_updateCart _ _ s).trans (keeps_updateBay _ _ _)

theorem keeps_seenAgain (b : BayId) (c : Cartridge) (k : Kind) (s : State) : Keeps s (seenAgain b c k s) := by
  unfold seenAgain
  dsimp only
  split
  · exact (((keeps_admitCart _ _ _ s).trans (keeps_updateBay _ _ _)).trans (keeps_setBayEvent _ _)).trans
      (keeps_refreshDeadline _ _)
  · exact ((keeps_admitCart _ _ _ s).trans (keeps_updateBay _ _ _)).trans (keeps_setBayEvent _ _)

theorem keeps_enroll {s : State} (c : Cartridge) (room : s.cartridges.length < cartridgeCapacity) :
    Keeps s { s with cartridges := insertBy cartBefore c s.cartridges } := by
  refine ⟨rfl, id, id, id, fun _ w => ⟨w.1, w.2, w.3, ?_, w.5, w.6, w.7, w.8, w.9, w.10, w.11, w.12⟩, id, id, id⟩
  show (insertBy _ _ _).length ≤ _
  rw [insertBy_length]
  omega

theorem keeps_identify (b : BayId) (serial : Nat) (k : Kind) (s : State) : Keeps s (identify b serial k s) := by
  unfold identify
  split
  · split
    · exact (keeps_admitCart _ _ _ s).trans (keeps_enterLoaded _ _)
    · exact (keeps_admitCart _ _ _ s).trans (keeps_enterWiping _ _)
    · exact (keeps_admitCart _ _ _ s).trans (keeps_enterWiping _ _)
    · exact keeps_seenAgain _ _ _ s
    all_goals exact keeps_rejectBay _ _ _ s
  · split
    · rename_i room
      exact ((keeps_enroll _ room).trans (keeps_admitCart _ _ _ _)).trans (keeps_enterWiping _ _)
    · exact keeps_rejectBay _ _ _ s

theorem keeps_identityRead (b : BayId) (serial : Nat) (kind : Option Kind) (s : State) :
    Keeps s (identityRead b serial kind s) := by
  unfold identityRead
  split
  · split
    · split
      · exact keeps_rejectBay _ _ _ s
      · exact keeps_identify _ _ _ s
    · exact keeps_rejectBay _ _ _ s
  · exact .refl s

theorem keeps_identityLate (b : BayId) (s : State) : Keeps s (identityLate b s) := by
  unfold identityLate
  split
  · exact keeps_rejectBay _ _ _ s
  · exact .refl s

theorem keeps_vacateBay (b : BayId) (s : State) : Keeps s (vacateBay b s) := by
  unfold vacateBay
  dsimp only
  refine Keeps.trans ?_ (keeps_updateBay _ _ _)
  split
  · exact (keeps_discardGrant _ s).trans (keeps_updateCart _ _ _)
  · exact keeps_discardGrant _ s

theorem keeps_removeCartridge (b : BayId) (s : State) : Keeps s (removeCartridge b s) := by
  unfold removeCartridge
  dsimp only
  split
  · exact .refl s
  · exact .refl s
  · exact keeps_updateBay _ _ s
  · split
    · exact (keeps_vacateBay _ s).trans (keeps_cartWritten _ _)
    · exact keeps_vacateBay _ s
  · exact (keeps_vacateBay _ s).trans (keeps_giveBack _ _)

theorem keeps_wipeDone (b : BayId) (s : State) : Keeps s (wipeDone b s) := by
  unfold wipeDone
  dsimp only
  split
  · exact (keeps_chargeOccupant _ wiped s).trans (keeps_enterLoaded _ _)
  · exact .refl s

theorem keeps_wipeFailed (b : BayId) (s : State) : Keeps s (wipeFailed b s) := by
  unfold wipeFailed
  split
  · exact keeps_faultBay _ _ s
  · exact .refl s

theorem keeps_wipeLate (b : BayId) (s : State) : Keeps s (wipeLate b s) := by
  unfold wipeLate
  split
  · exact keeps_faultBay _ _ s
  · exact .refl s

theorem keeps_passFill (b : BayId) (s : State) : Keeps s (passFill b s) := by
  unfold passFill
  split
  · exact (keeps_updateBay _ _ s).trans (keeps_startWrite _ _)
  · exact .refl s

theorem keeps_ackData (b : BayId) (s : State) : Keeps s (ackData b s) := by
  unfold ackData
  dsimp only
  split
  · exact (keeps_updateBay _ _ s).trans (keeps_pauseBay _ _ _)
  · exact (keeps_updateBay _ _ s).trans (keeps_startWrite _ _)

theorem keeps_ackRewrite (b : BayId) (s : State) : Keeps s (ackRewrite b s) := by
  unfold ackRewrite
  dsimp only
  split
  · exact (keeps_updateBay _ _ s).trans (keeps_pauseBay _ _ _)
  · exact keeps_updateBay _ _ s

theorem keeps_ackDirectory (b : BayId) (s : State) : Keeps s (ackDirectory b s) := by
  unfold ackDirectory
  dsimp only
  split
  · exact (keeps_updateBay _ _ s).trans (keeps_pauseBay _ _ _)
  · split
    · exact keeps_updateBay _ _ s
    · exact (keeps_updateBay _ _ s).trans (keeps_writeDirectory _ _)

theorem keeps_writeDone (b : BayId) (write : Nat) (s : State) : Keeps s (writeDone b write s) := by
  unfold writeDone
  dsimp only
  split
  · exact .refl s
  · split
    · exact keeps_ackData _ s
    · split
      · exact keeps_ackRewrite _ s
      · exact keeps_ackDirectory _ s
    · exact .refl s

theorem keeps_retryWrite (b : BayId) (f : PausedFrom) (s : State) : Keeps s (retryWrite b f s) := by
  unfold retryWrite
  split
  · exact (keeps_updateBay _ _ s).trans (keeps_pauseBay _ _ _)
  · exact keeps_updateBay _ _ s

theorem keeps_ackLate (b : BayId) (s : State) : Keeps s (ackLate b s) := by
  unfold ackLate
  dsimp only
  split
  · exact .refl s
  · split
    · split
      · exact keeps_retryWrite _ _ s
      · exact keeps_faultBay _ _ s
    · split
      · exact keeps_retryWrite _ _ s
      · exact keeps_faultBay _ _ s
    · exact .refl s

theorem keeps_readNext (b : BayId) (block : Nat) (s : State) : Keeps s (readNext b block s) := by
  unfold readNext
  dsimp only
  split
  · exact keeps_finishBay _ s
  · split
    · exact keeps_updateBay _ _ s
    · exact keeps_enterDirectory _ s

theorem keeps_blockDiffers (b : BayId) (e : CheckEntry) (s : State) : Keeps s (blockDiffers b e s) := by
  unfold blockDiffers
  dsimp only
  split
  · exact keeps_faultBay _ _ s
  · split
    · exact (keeps_updateBay _ _ s).trans (keeps_pauseBay _ _ _)
    · split
      · exact (keeps_updateBay _ _ s).trans (keeps_writeDirectoryBlock _ _ _)
      · exact keeps_updateBay _ _ s

theorem keeps_readBackData (b : BayId) (data : List Byte) (s : State) : Keeps s (readBackData b data s) := by
  unfold readBackData
  split
  · split
    · exact (keeps_updateBay _ _ s).trans (keeps_readNext _ _ _)
    · exact keeps_blockDiffers _ _ s
  · exact .refl s

theorem keeps_readBackLate (b : BayId) (s : State) : Keeps s (readBackLate b s) := by
  unfold readBackLate
  split
  · exact keeps_blockDiffers _ _ s
  · exact .refl s

theorem keeps_serviceOut (bay action : Nat) (s : State) : Keeps s (serviceOutRule bay action s).1 := by
  unfold serviceOutRule
  split
  · exact .refl s
  · split
    · exact .refl s
    · split
      · exact keeps_setBay _ _ s
      · exact .refl s

theorem keeps_serviceIn (bay : Nat) (s : State) : Keeps s (serviceInRule bay s).1 := by
  unfold serviceInRule
  split
  · exact .refl s
  · split
    · exact keeps_setBay _ _ s
    · exact .refl s

/-! ## Supply -/

theorem keeps_lowBay (s : State) (b : BayId) : Keeps s (lowBay s b) := by
  unfold lowBay
  dsimp only
  split
  · split
    · exact keeps_pauseBay _ _ s
    · exact .refl s
  · exact keeps_pauseBay _ _ s
  · split
    · exact keeps_pauseBay _ _ s
    · exact .refl s
  · exact .refl s

theorem keeps_resumeVerifying (b : BayId) (s : State) : Keeps s (resumeVerifying b s) := by
  unfold resumeVerifying
  dsimp only
  split
  · exact keeps_writeDirectoryBlock _ _ s
  · exact keeps_startWrite _ s
  · split
    · exact keeps_writeDirectory _ s
    · exact .refl s
  · exact .refl s

theorem keeps_resumeBay (s : State) (b : BayId) : Keeps s (resumeBay s b) := by
  unfold resumeBay
  dsimp only
  split
  · split
    · exact (keeps_updateBay _ _ s).trans (keeps_startWrite _ _)
    · exact (keeps_updateBay _ _ s).trans (keeps_resumeVerifying _ _)
    · exact keeps_enterWiping _ s
    · exact .refl s
  · exact .refl s

theorem keeps_abandonBay (s : State) (b : BayId) : Keeps s (abandonBay s b) :=
  ((keeps_setEntry _ _ s).trans (keeps_updateBay _ _ _)).trans (keeps_giveBack _ _)

/-! ## The master port -/

theorem keeps_grantBay (b : BayId) (s : State) : Keeps s (grantBay b s) := by
  unfold grantBay
  split
  · exact .of_aside rfl rfl rfl rfl rfl rfl rfl le_rfl le_rfl
  · exact .refl s

theorem keeps_grantSurvey (s : State) : Keeps s (grantSurvey s) := keeps_grant _ s

theorem keeps_feedWindow (s : State) : Keeps s (feedWindow s) := by
  unfold feedWindow
  split
  · exact keeps_grantBay _ s
  · split
    · exact keeps_grantSurvey s
    · exact .refl s

theorem keeps_feedData (data : List Byte) (s : State) : Keeps s (feedData data s) := by
  unfold feedData
  split
  · split
    · dsimp only
      split
      · exact keeps_grant _ s
      · exact ((keeps_grant _ s).trans (keeps_updateBay _ _ _)).trans (keeps_startWrite _ _)
    · exact .refl s
  · exact .refl s

theorem keeps_markSuspect (g : Grant) (s : State) : Keeps s (markSuspect g s) := by
  unfold markSuspect
  split
  · split
    · rename_i e he _ hs
      exact ((keeps_restateTitle (fun x => { x with state := .suspect }) (fun _ w => w) (Option.filter_eq_some_iff.1 he).1
        (by simp [hs]) (fun _ => rfl) (fun _ h => by cases h)).trans (keeps_setEvent _ _)).trans (keeps_cancelEntry _ _)
    · exact (keeps_setEvent _ s).trans (keeps_cancelEntry _ _)
    · exact .refl s
  · exact .refl s

theorem keeps_feedError (s : State) : Keeps s (feedError s) := by
  unfold feedError
  split
  · split
    · exact (keeps_grant _ s).trans (keeps_markSuspect _ _)
    · exact .refl s
  · exact .refl s

/-! ## Titles and the survey -/

theorem keeps_faultTitle (k : TitleKey) (why : TitleFault) (s : State) : Keeps s (faultTitle k why s) :=
  (keeps_surveyOut k (fun e => { e with state := .faulted, fault := some why }) (fun _ w => w) (fun _ => rfl)
    (fun _ h => by cases h) s).trans (keeps_setEvent _ _)

theorem keeps_wakePatrons (title : Nat) (m : Medium) (s : State) : Keeps s (wakePatrons title m s) :=
  (keeps_mapPatrons (f := wakeItem _ _) (fun _ => ⟨rfl, (replace_length _ _ _).le⟩) s).trans (keeps_foldl (fun t n => appendEligible n t) (fun t n => keeps_appendEligible n t) _ _)

theorem keeps_titleReady (k : TitleKey) (excess : Bool) (s : State) : Keeps s (titleReady k excess s) :=
  (((keeps_surveyOut k (fun e => { e with state := .ready, excess := excess }) (fun _ w => w) (fun _ => rfl)
    (fun _ h => by cases h) s).trans (keeps_setEvent _ _)).trans (keeps_retireReady _ _ _ _)).trans (keeps_wakePatrons _ _ _)

theorem keeps_surveyNext (e : TitleEntry) (s : State) : Keeps s (surveyNext e s) := by
  unfold surveyNext
  split
  · exact keeps_titleReady _ _ s
  · split
    · exact keeps_faultTitle _ _ s
    · exact .refl s

theorem keeps_indexRead (e : TitleEntry) (walk : List Extent × WalkEnd) (s : State) : Keeps s (indexRead e walk s) := by
  have h := keeps_updateTitle e.key (fun x => { x with extents := walk.1 }) (fun _ w => w) s (fun _ => rfl) fun _ => .rfl
  unfold indexRead
  dsimp only
  split
  · exact h.trans (keeps_surveyNext _ _)
  · exact h.trans (keeps_faultTitle _ _ _)
  · exact h.trans (keeps_faultTitle _ _ _)

theorem keeps_indexBlockDone (r : ReadResult) (s : State) : Keeps s (indexBlockDone r s) := by
  unfold indexBlockDone
  split
  · split
    · dsimp only
      split
      · split
        · exact (keeps_grant _ s).trans (keeps_indexRead _ _ _)
        · exact (keeps_grant _ s).trans (keeps_faultTitle _ _ _)
      · exact keeps_grant _ s
    · exact .refl s
  · exact .refl s

/-- One more in one of the counts adds one to their sum. -/
theorem sum_modify_succ (l : List Nat) (i : Nat) (h : i < l.length) : (l.modify i (· + 1)).sum = l.sum + 1 := by
  induction l generalizing i with
  | nil => simp at h
  | cons x xs ih =>
    cases i with
    | zero => simp; omega
    | succ i =>
      have := ih i (by simpa using h)
      simp only [List.modify_succ_cons, List.sum_cons, this]
      omega

/-- Surveying one block keeps the counts in agreement with the fill map (R2, R12). -/
theorem blockSurveyed_countsAgree (data : List Byte) (e : TitleEntry) (h : e.countsAgree) :
    (blockSurveyed data e).countsAgree := by
  obtain ⟨h1, h2, h3, h4, h5⟩ := h
  unfold blockSurveyed
  split
  · exact ⟨h1, h2, h3, h4, fun i hi => Nat.lt_succ_of_lt (h5 i hi)⟩
  · refine ⟨by simp [h1], by simp [h2], ?_, ?_, fun i hi => ?_⟩
    rotate_left
    · rw [List.pairwise_append]
      exact ⟨h4, List.pairwise_singleton _ _, fun a ha b hb => by rw [List.mem_singleton.1 hb]; exact h5 a ha⟩
    · rcases List.mem_append.1 hi with hi | hi
      · exact Nat.lt_succ_of_lt (h5 i hi)
      · rw [List.mem_singleton.1 hi]
        exact Nat.lt_succ_self _
    have : volumeOf e.breaks e.progress < e.volOcc.length := by
      rw [h2]
      exact Nat.lt_succ_of_le (List.length_filter_le _ _)
    show (e.volOcc.modify _ _).sum = _
    rw [sum_modify_succ _ _ this, h3]

theorem blockSurveyed_key (data : List Byte) (e : TitleEntry) : (blockSurveyed data e).key = e.key := by
  unfold blockSurveyed
  split <;> rfl

theorem blockSurveyed_state (data : List Byte) (e : TitleEntry) : (blockSurveyed data e).state = e.state := by
  unfold blockSurveyed
  split <;> rfl

theorem keeps_titleBlockDone (r : ReadResult) (s : State) : Keeps s (titleBlockDone r s) := by
  unfold titleBlockDone
  split
  · split
    · dsimp only
      split
      · split
        · rename_i block
          exact ((keeps_grant _ s).trans
            (keeps_updateTitle _ (blockSurveyed block) (blockSurveyed_countsAgree block) _ (blockSurveyed_key block)
              (fun e => by rw [blockSurveyed_state]))).trans (keeps_surveyNext _ _)
        · exact (keeps_grant _ s).trans (keeps_faultTitle _ _ _)
      · exact keeps_grant _ s
    · exact .refl s
  · exact .refl s

theorem keeps_endSurvey (k : TitleKey) (s : State) : Keeps s (dropTitle k (endSurvey k s)) := by
  unfold endSurvey
  dsimp only
  split
  · split
    · exact keeps_surveyDrop k _ s
    · exact keeps_surveyDrop k s.grant s
  · exact keeps_surveyDrop k s.grant s

theorem keeps_titleRemove (title medium edition : Nat) (s : State) :
    Keeps s (titleRemoveRule title medium edition s).1 := by
  unfold titleRemoveRule
  split
  · exact .refl s
  · dsimp only
    split
    · exact .refl s
    · rename_i e he
      split
      · exact keeps_endSurvey _ s
      · exact .refl s
      · rename_i hs _
        split
        · exact keeps_dropTitle he hs
        · exact keeps_restateTitle (fun x => { x with state := .retiring }) (fun _ w => w) he hs (fun _ => rfl)
            (fun _ h => by cases h)

/-! ## Patrons -/

/-- A new patron, with a number that no patron has and an empty list. -/
theorem keeps_addPatron {s : State} {p : Patron} (new : findPatron s p.number = none) (empty : p.list = [])
    (room : s.patrons.length < patronCapacity) : Keeps s { s with patrons := insertBy patronBefore p s.patrons } := by
  have hp := insertBy_perm patronBefore p s.patrons
  have hn := hp.map (·.number)
  refine ⟨rfl, id, id, id, fun _ w => ⟨w.1, ?_, w.3, w.4, w.5, w.6, w.7, w.8, w.9, w.10, fun q hq => ?_, ?_⟩, fun o => ?_, id, id⟩
  · rw [hp.length_eq]
    exact room
  · rcases List.mem_cons.1 (hp.mem_iff.1 hq) with rfl | hq
    · simp [empty]
    · exact w.lists q hq
  · have := (hp.map (·.list.length)).sum_eq
    simp only [List.map_cons, List.sum_cons, empty, List.length_nil, Nat.zero_add] at this
    exact this.le.trans w.items
  · refine ⟨o.keys, hn.nodup_iff.2 (List.nodup_cons.2 ⟨fun h => ?_, o.numbers⟩), o.once,
      fun n hq => hn.mem_iff.2 (List.mem_cons_of_mem _ (o.eligible n hq)), o.surveys, o.room⟩
    obtain ⟨q, hq, e⟩ := List.mem_map.1 h
    exact absurd (List.find?_eq_none.1 new q hq) (by simp [e])

theorem keeps_patronEnter (n kind cart emb mode card : Nat) (s : State) :
    Keeps s (patronEnterRule n kind cart emb mode card s).1 := by
  unfold patronEnterRule
  split
  · exact .refl s
  · split
    · split
      · exact (keeps_updatePatron _ _ s (by exact fun _ => ⟨rfl, le_rfl⟩)).trans (keeps_appendEligible _ _)
      · split
        · exact .refl s
        · rename_i hn room
          exact (keeps_addPatron hn rfl (by omega)).trans (keeps_appendEligible _ _)
    · exact .refl s

theorem keeps_shelve (ids : List Nat) (s : State) : Keeps s (ids.foldl (fun t id => toShelf id t) s) :=
  keeps_foldl (fun t id => toShelf id t) (fun t id => keeps_toShelf id t) ids s

theorem keeps_patronSuspend (n : Nat) (s : State) : Keeps s (patronSuspendRule n s).1 := by
  unfold patronSuspendRule
  split
  · exact .refl s
  · exact (keeps_updatePatron _ _ s (by exact fun _ => ⟨rfl, (replace_length _ _ _).le⟩)).trans (keeps_shelve _ _)

theorem keeps_patronResume (n : Nat) (s : State) : Keeps s (patronResumeRule n s).1 := by
  unfold patronResumeRule
  split
  · exact .refl s
  · exact (keeps_updatePatron _ _ s (by exact fun _ => ⟨rfl, le_rfl⟩)).trans (keeps_appendEligible _ _)

theorem keeps_patronRemove (n : Nat) (s : State) : Keeps s (patronRemoveRule n s).1 := by
  unfold patronRemoveRule
  split
  · exact .refl s
  · split
    · exact .refl s
    · refine ⟨rfl, id, id, id, fun _ w => ⟨w.1, (List.length_filter_le _ _).trans w.2, w.3, w.4, w.5,
        (List.length_filter_le _ _).trans w.6, w.7, w.8, w.9, w.10, fun q hq => w.lists q (List.mem_filter.1 hq).1,
        ((List.filter_sublist.map _).sum_le_sum fun _ _ => Nat.zero_le _).trans w.items⟩, fun o => ?_, id, id⟩
      refine ⟨o.keys, o.numbers.sublist (List.filter_sublist.map _), o.once.filter _, fun m hm => ?_, o.surveys, o.room⟩
      obtain ⟨hm, hn⟩ := List.mem_filter.1 hm
      obtain ⟨q, hq, rfl⟩ := List.mem_map.1 (o.eligible m hm)
      exact List.mem_map.2 ⟨q, List.mem_filter.2 ⟨hq, hn⟩, rfl⟩

theorem keeps_shipNow (n : Nat) (s : State) : Keeps s (shipNowRule n s).1 := by
  unfold shipNowRule
  split
  · exact .refl s
  · split
    · exact .refl s
    · split
      · exact .refl s
      · rename_i hp _ hq
        exact keeps_enqueue hp (by simpa using hq)

/-- With one record for each patron number, a change reaches the one record found. -/
theorem items_updatePatron {s : State} (o : s.Orderly) {n : Nat} {p : Patron} (hp : findPatron s n = some p) (f : Patron → Patron)
    (h : (f p).list.length ≤ p.list.length + 1) : itemsUsed (updatePatron n f s) ≤ itemsUsed s + 1 := by
  have go : ∀ l : List Patron, (l.map (·.number)).Nodup → (∀ q ∈ l, q.number = n → q = p) →
      ((replace (·.number == n) f l).map (·.list.length)).sum ≤ (l.map (·.list.length)).sum + 1 := by
    intro l
    induction l with
    | nil => simp [replace]
    | cons q l ih =>
      intro hn hu
      simp only [List.map_cons, List.nodup_cons, List.forall_mem_cons] at hn hu
      by_cases hq : q.number = n
      · have rest : replace (·.number == n) f l = l := by
          refine replace_none fun x hx => ?_
          simp only [beq_eq_false_iff_ne, ne_eq]
          intro hx'
          exact hn.1 (List.mem_map.2 ⟨x, hx, hx'.trans hq.symm⟩)
        have e : replace (·.number == n) f (q :: l) = f q :: l := by
          conv_rhs => rw [← rest]
          simp [replace, hq]
        rw [e, List.map_cons, List.sum_cons, List.map_cons, List.sum_cons, hu.1 hq]
        omega
      · have e : replace (·.number == n) f (q :: l) = q :: replace (·.number == n) f l := by simp [replace, hq]
        have := ih hn.2 hu.2
        rw [e, List.map_cons, List.sum_cons, List.map_cons, List.sum_cons]
        omega
  exact go _ o.numbers fun q hq hn => by
    have hm := List.mem_of_find?_eq_some hp
    have hpn : p.number = n := by simpa using List.find?_some hp
    exact List.inj_on_of_nodup_map o.numbers hq hm (hn.trans hpn.symm)

/-- The list of a patron takes one more item, with room in the list and in the pool (R33, R37). -/
theorem keeps_growList {s : State} {n : Nat} {p : Patron} (hp : findPatron s n = some p) (f : Patron → Patron)
    (number : ∀ q, (f q).number = q.number) (grow : (f p).list.length ≤ p.list.length + 1)
    (room : p.list.length < listCapacity) (pool : itemsUsed s < itemPool) : Keeps s (updatePatron n f s) := by
  have hn : (replace (·.number == n) f s.patrons).map (·.number) = s.patrons.map (·.number) := by
    simp only [replace, List.map_map]
    refine List.map_congr_left fun x _ => ?_
    simp only [Function.comp_apply]
    split
    · exact number x
    · rfl
  refine ⟨rfl, id, id, id, fun o w => ⟨w.1, (replace_length _ _ _).le.trans w.2, w.3, w.4, w.5, w.6, w.7, w.8, w.9, w.10,
    fun q hq => ?_, (items_updatePatron o hp f grow).trans pool⟩,
    fun o => ⟨o.keys, hn ▸ o.numbers, o.once, hn ▸ o.eligible, o.surveys, o.room⟩, id, id⟩
  obtain ⟨x, hx, rfl⟩ := List.mem_map.1 hq
  split
  · rename_i hx'
    have hm := List.mem_of_find?_eq_some hp
    have hpn : p.number = n := by simpa using List.find?_some hp
    have : x = p := List.inj_on_of_nodup_map o.numbers hx hm ((beq_iff_eq.1 hx').trans hpn.symm)
    rw [this]
    exact grow.trans room
  · exact w.lists x hx

theorem insertItem_length (position : Nat) (i : ListItem) (l : List ListItem) : (insertItem position i l).length = l.length + 1 := by
  simp only [insertItem, List.length_append, List.length_cons, List.length_take, List.length_drop]
  omega

theorem keeps_listAdd (n title medium position : Nat) (s : State) :
    Keeps s (listAddRule n title medium position s).1 := by
  unfold listAddRule
  split
  · exact .refl s
  · split
    · exact .refl s
    · split
      · exact .refl s
      · split
        · exact .refl s
        · split
          · exact .refl s
          · split
            · exact .refl s
            · rename_i p hp _ _ _ _ _ room pool
              refine Keeps.trans (keeps_growList hp (fun q => { q with list := insertItem _ _ q.list }) (fun _ => rfl)
                (insertItem_length _ _ _).le (by omega) (by omega)) (keeps_appendEligible _ _)

theorem keepsPatron_removeItem (title : Nat) (m : Medium) : KeepsPatron (removeItem title m) :=
  fun _ => ⟨rfl, List.length_filter_le _ _⟩

theorem keeps_listDrop (n title medium : Nat) (s : State) : Keeps s (listDropRule n title medium s).1 := by
  unfold listDropRule
  split
  · exact .refl s
  · split
    · exact .refl s
    · split
      · exact .refl s
      · split
        · exact .refl s
        · exact .refl s
        · exact (keeps_updatePatron _ _ s (keepsPatron_removeItem _ _)).trans (keeps_dropHold _ _ _)
        · exact keeps_updatePatron _ _ s (keepsPatron_removeItem _ _)
        · exact keeps_updatePatron _ _ s (keepsPatron_removeItem _ _)

/-! ## Selection -/

theorem keeps_takeReserved (n shipment : Nat) (w : Walk) (i : ListItem) :
    Keeps w.state (takeReserved n shipment w i).state := by
  unfold takeReserved
  split
  · split
    · exact (keeps_allocateCopy _ _ _ _).trans (keeps_updatePatron _ _ _ (by exact fun _ => ⟨rfl, (replace_length _ _ _).le⟩))
    · exact .refl _
  · exact .refl _

theorem keeps_addHold {s : State} (h : Hold) (room : s.holds.length < holdPool) :
    Keeps s { s with holds := s.holds ++ [h] } := by
  refine ⟨rfl, id, id, id, fun _ w => ⟨w.1, w.2, w.3, w.4, w.5, ?_, w.7, w.8, w.9, w.10, w.11, w.12⟩, id, id, id⟩
  show (s.holds ++ [h]).length ≤ _
  simp
  omega

theorem keeps_walkItem (n shipment : Nat) (w : Walk) (i : ListItem) :
    Keeps w.state (walkItem n shipment w i).state := by
  unfold walkItem
  split
  · split
    · unfold walkEmbossed
      split
      · exact ((keeps_allocateCopy _ _ _ _).trans (keeps_dropHold _ _ _)).trans (keeps_updatePatron _ _ _ (by exact fun _ => ⟨rfl, (replace_length _ _ _).le⟩))
      · split
        · rename_i h
          simp only [Bool.and_eq_true, decide_eq_true_eq] at h
          exact (keeps_addHold _ h.2).trans (keeps_updatePatron _ _ _ (by exact fun _ => ⟨rfl, (replace_length _ _ _).le⟩))
        · exact .refl _
    · exact .refl _
  · split
    · split
      · exact .refl _
      · exact keeps_updatePatron _ _ _ (by exact fun _ => ⟨rfl, (replace_length _ _ _).le⟩)
    · exact .refl _

theorem keeps_walk (f : Walk → ListItem → Walk) (step : ∀ w i, Keeps w.state (f w i).state) (xs : List ListItem)
    (w : Walk) : Keeps w.state (xs.foldl f w).state := by
  induction xs generalizing w with
  | nil => exact .refl _
  | cons x xs ih => exact (step w x).trans (ih _)

theorem keeps_firstStages (n shipment : Nat) (s : State) : Keeps s (firstStages n shipment s).state :=
  (keeps_walk _ (keeps_takeReserved n shipment) _ ⟨s, [], []⟩).trans (keeps_walk _ (keeps_walkItem n shipment) _ _)

/-- Stages 1 and 2 create and delete no shipment. -/
theorem shipments_walk (f : Walk → ListItem → Walk) (step : ∀ w i, (f w i).state.shipments = w.state.shipments)
    (xs : List ListItem) (w : Walk) : (xs.foldl f w).state.shipments = w.state.shipments := by
  induction xs generalizing w with
  | nil => rfl
  | cons x xs ih => exact (ih _).trans (step w x)

theorem allocateCopy_shipments (id patron shipment : Nat) (s : State) :
    (allocateCopy id patron shipment s).shipments = s.shipments := rfl

theorem takeReserved_shipments (n shipment : Nat) (w : Walk) (i : ListItem) :
    (takeReserved n shipment w i).state.shipments = w.state.shipments := by
  unfold takeReserved
  split
  · split
    · simp only [updatePatron_shipments, allocateCopy_shipments]
    · rfl
  · rfl

theorem walkItem_shipments (n shipment : Nat) (w : Walk) (i : ListItem) :
    (walkItem n shipment w i).state.shipments = w.state.shipments := by
  unfold walkItem
  split
  · split
    · unfold walkEmbossed
      split
      · simp only [updatePatron_shipments, dropHold_shipments, allocateCopy_shipments]
      · split
        · simp only [updatePatron_shipments]
        · rfl
    · rfl
  · split
    · split
      · rfl
      · simp only [updatePatron_shipments]
    · rfl

theorem firstStages_shipments (n shipment : Nat) (s : State) :
    (firstStages n shipment s).state.shipments = s.shipments := by
  refine (shipments_walk _ (fun w i => ?_) _ _).trans (shipments_walk _ (fun w i => ?_) _ ⟨s, [], []⟩)
  · exact walkItem_shipments n shipment w i
  · exact takeReserved_shipments n shipment w i

theorem keeps_createJob (shipment : Nat) (k : Kind) (target : Option Nat) {s : State} (cart : Nat × List Part)
    (room : s.jobs.length < jobCapacity) : Keeps s (createJob shipment k target s cart) := by
  unfold createJob
  dsimp only
  refine Keeps.trans (Keeps.trans ?_ (keeps_updateShipment _ _ _))
    (keeps_foldl (fun u (p : Part) => raiseRef p.key u) (fun u p => keeps_raiseRef p.key u) _ _)
  refine ⟨rfl, id, id, id, fun _ w => ⟨w.1, w.2, w.3, w.4, w.5, w.6, w.7, w.8, ?_, w.10, w.11, w.12⟩, id, id, id⟩
  show (insertBy _ _ _).length ≤ _
  rw [insertBy_length]
  omega

theorem raiseRefs_jobs (parts : List Part) (s : State) : (parts.foldl (fun u p => raiseRef p.key u) s).jobs = s.jobs := by
  induction parts generalizing s with
  | nil => rfl
  | cons p parts ih => exact ih _

theorem createJob_jobs_length (shipment : Nat) (k : Kind) (target : Option Nat) (s : State) (cart : Nat × List Part) :
    (createJob shipment k target s cart).jobs.length = s.jobs.length + 1 := by
  unfold createJob
  dsimp only
  rw [raiseRefs_jobs]
  exact insertBy_length _ _ _

/-- Jobs for a plan's cartridges, with room for all of them (R59, R60). -/
theorem keeps_createJobs (shipment : Nat) (k : Kind) (target : Option Nat) (carts : List (Nat × List Part)) {s : State}
    (room : carts.length ≤ jobCapacity - s.jobs.length) : Keeps s (carts.foldl (createJob shipment k target) s) := by
  induction carts generalizing s with
  | nil => exact .refl s
  | cons c carts ih =>
    rw [List.length_cons] at room
    refine (keeps_createJob shipment k target c (by omega)).trans (ih ?_)
    rw [createJob_jobs_length]
    omega

/-! ### The cap of a plan (R52-R55) -/

theorem placeWhole_length {k : Kind} {cap : Nat} {e : TitleEntry} {carts got : List PlanCart} (h : placeWhole k cap e carts = some got) :
    got.length ≤ max carts.length cap := by
  unfold placeWhole at h
  split at h
  · split at h
    · cases h
      exact le_max_left _ _
    · split at h <;> cases h
      simp only [List.length_cons] at *
      omega
  · cases h

theorem openStage_length {k : Kind} {cap : Nat} {key : TitleKey} {vols behind : List Volume} {carts got : List PlanCart}
    (h : openStage k cap key vols carts = some (behind, got)) : got.length ≤ max carts.length cap := by
  unfold openStage at h
  split at h
  · split at h <;> cases h
    simp only [List.length_cons]
    omega
  · cases h

theorem splitStage_length {k : Kind} {cap : Nat} {key : TitleKey} {vols behind : List Volume} {carts got : List PlanCart}
    (h : splitStage k cap key vols carts = some (behind, got)) : got.length ≤ max carts.length cap := by
  unfold splitStage at h
  split at h
  · cases h
  · split at h
    · exact openStage_length h
    · split at h
      · cases h
        exact le_max_left _ _
      · exact openStage_length h

theorem placeSplit_length {k : Kind} {cap : Nat} {key : TitleKey} (fuel : Nat) {vols : List Volume} {carts got : List PlanCart}
    (h : placeSplit k cap key fuel vols carts = some got) : got.length ≤ max carts.length cap := by
  induction fuel generalizing vols carts with
  | zero =>
    unfold placeSplit at h
    split at h <;> cases h
    exact le_max_left _ _
  | succ fuel ih =>
    unfold placeSplit at h
    split at h
    · cases h
      exact le_max_left _ _
    · split at h
      · rename_i hs
        exact (ih h).trans (max_le (splitStage_length hs) (le_max_right _ _))
      · cases h

theorem placeCandidate_length (k : Kind) (cap : Nat) (w : Working) (e : TitleEntry) :
    (placeCandidate k cap w e).carts.length ≤ max w.carts.length cap := by
  unfold placeCandidate
  dsimp only
  split
  · rename_i h
    split at h
    · exact placeWhole_length h
    · exact placeSplit_length _ h
  · exact le_max_left _ _

/-- A plan holds no more cartridges than the cap (R52). -/
theorem makePlan_length (k : Kind) (cap : Nat) (candidates : List TitleEntry) : (makePlan k cap candidates).carts.length ≤ cap := by
  have go : ∀ (l : List TitleEntry) (w : Working), (l.foldl (placeCandidate k cap) w).carts.length ≤ max w.carts.length cap := by
    intro l
    induction l with
    | nil => exact fun w => le_max_left _ _
    | cons e l ih => exact fun w => (ih _).trans (max_le (placeCandidate_length k cap w e) (le_max_right _ _))
  unfold makePlan
  split
  · exact Nat.zero_le _
  · rename_i h
    refine (List.length_filter_le _ _).trans ?_
    rw [List.length_map, List.length_reverse]
    refine (go candidates _).trans (max_le ?_ le_rfl)
    simp only [not_or] at h
    exact Nat.one_le_iff_ne_zero.2 h.1

theorem keeps_addShipment {s : State} (sh : Shipment) (next : Nat) (room : s.shipments.length < shipmentCapacity) :
    Keeps s { s with shipments := s.shipments ++ [sh], shipmentCounter := next } := by
  refine ⟨rfl, id, id, id, fun _ w => ⟨w.1, w.2, ?_, w.4, w.5, w.6, w.7, w.8, w.9, w.10, w.11, w.12⟩, id, id, id⟩
  show (s.shipments ++ [sh]).length ≤ _
  simp
  omega

theorem keeps_commit (n number : Nat) (k : Kind) (copies : List Nat) (plan : Plan) {s : State}
    (room : s.shipments.length < shipmentCapacity) (jobs : plan.carts.length ≤ jobCapacity - s.jobs.length) :
    Keeps s (commit n number k copies plan s) := by
  unfold commit
  dsimp only
  refine Keeps.trans ?_ (keeps_foldl (fun t j => offerJob j t) (fun t j => keeps_offerJob j t) _ _)
  have h := ((keeps_addShipment ⟨number, n, if plan.carts.isEmpty then .ready else .assembling, [], copies,
    targetCutoff s (shipmentEstimate plan), [], plan.carts.length + volumesOf s copies⟩ (numberAfter 65535 number)
    room).trans (keeps_updatePatron n (fun p =>
      plan.placed.foldl (fun q key => setItem key.title key.medium .inShipment q)
        { p with shipment := some number, commCarts := p.commCarts + plan.carts.length }) _
      (KeepsPatron.comp (f := fun p => { p with shipment := some number, commCarts := p.commCarts + plan.carts.length })
        (fun _ => ⟨rfl, le_rfl⟩) (keepsPatron_setItems plan.placed)))).trans
    (keeps_createJobs number k (targetCutoff s (shipmentEstimate plan)) (indexed plan.carts) (by simpa [indexed] using jobs))
  split
  · rename_i e
    simp only [e, if_true] at h
    exact h.trans (keeps_setEvent _ _)
  · rename_i e
    simp only [e] at h
    exact h

theorem keeps_servePatron (n : Nat) {s : State} (room : s.shipments.length < shipmentCapacity) :
    Keeps s (servePatron n s) := by
  unfold servePatron
  dsimp only
  split
  · split
    · exact keeps_firstStages _ _ s
    · exact (keeps_firstStages _ _ s).trans (keeps_commit _ _ _ _ _ (by rw [firstStages_shipments]; exact room)
        ((makePlan_length _ _ _).trans ((min_le_right _ _).trans (min_le_left _ _))))
  · exact keeps_firstStages _ _ s

theorem keeps_selectionStep (s : State) : Keeps s (selectionStep s) := by
  unfold selectionStep
  split
  · rename_i h
    simp only [gateOpen, Bool.and_eq_true, decide_eq_true_eq] at h
    split
    · rename_i n rest he
      have k : Keeps s { s with eligibility := rest } := by
        refine keeps_eligibility fun ho hm => ?_
        rw [he] at ho hm
        exact ⟨(List.nodup_cons.1 ho).2, fun m hq => hm m (List.mem_cons_of_mem _ hq)⟩
      dsimp only
      split
      · split
        · exact k
        · exact k.trans (keeps_servePatron _ h.2)
      · exact k
    · exact .refl s
  · exact .refl s

/-! ## Shipments -/

theorem keepsPatron_releaseCopyItems (s : State) (sh : Shipment) : KeepsPatron (releaseCopyItems s sh) := by
  have go : ∀ ids : List Nat, KeepsPatron fun p => ids.foldl (fun q id =>
      match findCopy s id with
      | some c => setItem c.title .embossed .waiting q
      | none => q) p := by
    intro ids
    induction ids with
    | nil => exact fun _ => ⟨rfl, le_rfl⟩
    | cons id ids ih =>
      refine KeepsPatron.comp (f := fun q =>
        match findCopy s id with
        | some c => setItem c.title .embossed .waiting q
        | none => q) (fun p => ?_) ih
      cases findCopy s id with
      | none => exact ⟨rfl, le_rfl⟩
      | some c => exact keepsPatron_setItem _ _ _ p
  exact KeepsPatron.comp (f := fun p => { p with commCopies := p.commCopies - sh.copyLines.length }) (fun _ => ⟨rfl, le_rfl⟩)
    (go sh.copyLines)

theorem keeps_cancelShipment (sh : Shipment) (s : State) : Keeps s (cancelShipment sh s) :=
  (((keeps_deleteLines _ s).trans (keeps_updatePatron _ _ _ (KeepsPatron.comp
    (f := fun p => releaseItems _ (shipmentParts s sh) { p with commCarts := p.commCarts - sh.jobLines.length })
    (fun _ => ⟨rfl, (replace_length _ _ _).le⟩) (keepsPatron_releaseCopyItems s sh)))).trans (keeps_freeShipment _ _)).trans (keeps_shelve _ _)

theorem keeps_shipmentCancel (n : Nat) (s : State) : Keeps s (shipmentCancelRule n s).1 := by
  unfold shipmentCancelRule
  split
  · exact .refl s
  · split
    · exact .refl s
    · exact keeps_cancelShipment _ s

/-! ## Registry and stock -/

theorem keeps_cartridgeWithdraw (serial : Nat) (s : State) : Keeps s (cartridgeWithdrawRule serial s).1 := by
  unfold cartridgeWithdrawRule
  split
  · exact .refl s
  · split
    · exact .refl s
    · split
      · exact keeps_updateCart _ _ s
      · exact .refl s

theorem keeps_addCopy {s : State} (c : Copy) (room : s.copies.length < copyCapacity) :
    Keeps s { s with copies := insertBy copyBefore c s.copies } := by
  refine ⟨rfl, id, id, id, fun _ w => ⟨w.1, w.2, w.3, w.4, ?_, w.6, w.7, w.8, w.9, w.10, w.11, w.12⟩, id, id, id⟩
  show (insertBy _ _ _).length ≤ _
  rw [insertBy_length]
  omega

theorem keeps_copyEnter (id title volumes : Nat) (s : State) : Keeps s (copyEnterRule id title volumes s).1 := by
  unfold copyEnterRule
  split
  · exact .refl s
  · split
    · split
      · exact (keeps_updateCopy _ _ s).trans (keeps_holdService _ _)
      · exact .refl s
    · split
      · exact .refl s
      · exact (keeps_addCopy _ (by omega)).trans (keeps_holdService _ _)

theorem keeps_copyWithdraw (id : Nat) (s : State) : Keeps s (copyWithdrawRule id s).1 := by
  unfold copyWithdrawRule
  split
  · exact .refl s
  · split
    · exact .refl s
    · split
      · exact keeps_updateCopy _ _ s
      · exact .refl s

/-! ## Recall, returns -/

theorem keeps_slots (x : Vector RecallSlot 16) (s : State) : Keeps s { s with slots := x } :=
  .of_aside rfl rfl rfl rfl rfl rfl rfl le_rfl le_rfl

theorem keeps_counters (x : Counters) (s : State) : Keeps s { s with counters := x } :=
  .of_aside rfl rfl rfl rfl rfl rfl rfl le_rfl le_rfl

theorem keeps_recallSet (r : RecallRequest) (s : State) : Keeps s (recallSetRule r s).1 := by
  unfold recallSetRule
  split
  · split
    · exact .refl s
    · split
      · exact .refl s
      · exact keeps_slots _ s
  · exact .refl s

theorem keeps_recallClear (slot : Nat) (s : State) : Keeps s (recallClearRule slot s).1 := by
  unfold recallClearRule
  split
  · exact keeps_slots _ s
  · split
    · exact .refl s
    · exact keeps_slots _ s

theorem keeps_clearCounters (s : State) : Keeps s (clearCounters s) := (keeps_slots _ s).trans (keeps_counters _ _)

theorem keeps_countMatches (c : Cartridge) (s : State) : Keeps s (countMatches c s) := keeps_slots _ s

theorem keeps_returnCart (k : ReturnClass) (c : Cartridge) (l : Loan) (s : State) : Keeps s (returnCart k c l s) :=
  ((((keeps_countMatches c s).trans (keeps_updateCart _ _ _)).trans (keeps_closeLoan _ _)).trans
    (keeps_appendEligible _ _)).trans (keeps_counters _ _)

theorem keeps_returnCopy (k : ReturnClass) (id : Nat) (l : Loan) (s : State) : Keeps s (returnCopy k id l s) := by
  unfold returnCopy
  refine ((keeps_closeLoan l s).trans ?_).trans ((keeps_appendEligible _ _).trans (keeps_counters _ _))
  split
  · exact keeps_updateCopy _ _ _
  · exact keeps_toShelf _ _

theorem keeps_returnScan (form item damaged : Nat) (s : State) : Keeps s (returnScanRule form item damaged s).1 := by
  unfold returnScanRule
  split
  · exact .refl s
  · split
    · exact .refl s
    · split
      · split
        · exact .refl s
        · unfold returnCartRule
          split
          · exact keeps_counters _ s
          · split
            · exact keeps_counters _ s
            · exact keeps_returnCart _ _ _ s
      · split
        · exact .refl s
        · unfold returnCopyRule
          split
          · exact keeps_counters _ s
          · split
            · exact keeps_counters _ s
            · exact keeps_returnCopy _ _ _ s
      · exact .refl s

/-! ## Packing -/

theorem keeps_packItem (i : Item) (s : State) : Keeps s (packItem i s) := by
  cases i with
  | cartridge serial => exact keeps_updateCart _ _ s
  | volume id volume => exact (keeps_updateCopy _ _ s).trans (keeps_unpick _ _)

/-- A new container holds its first item (R134, R139). -/
theorem firstContainer_fits (n : Nat) (sh : Shipment) (i : Item) (minute : Nat) : (firstContainer n sh i minute).fits := by
  refine ⟨by simp [firstContainer], ?_⟩
  cases i with
  | cartridge serial =>
    simp only [firstContainer, newKind, itemUnits]
    split <;> decide
  | volume id volume =>
    simp only [firstContainer, newKind, itemUnits]
    decide

theorem keeps_openFor (n : Nat) (sh : Shipment) (i : Item) {s : State} (room : s.containers.length < containerCapacity) :
    Keeps s (openFor n sh i s) := by
  refine Keeps.trans (t := { s with
      containers := insertBy containerBefore (firstContainer n sh i (now s)) s.containers
      containerCounter := numberAfter 65535 n }) ?_ (keeps_updateShipment _ _ _)
  refine ⟨rfl, id, id, id, fun _ w => ⟨w.1, w.2, w.3, w.4, w.5, w.6, ?_, w.8, w.9, w.10, w.11, w.12⟩, id, id, fun w c hc => ?_⟩
  · show (insertBy _ _ _).length ≤ _
    rw [insertBy_length]
    omega
  · rcases (mem_insertBy _ _ _ _).1 hc with rfl | hc
    · exact firstContainer_fits n sh i (now s)
    · exact w c hc

theorem keeps_sealAsItStands (shipment : Nat) (s : State) : Keeps s (sealAsItStands shipment s) := by
  unfold sealAsItStands
  split
  · exact keeps_sealContainer _ _ s
  · exact .refl s

/-- Sealing neither creates nor deletes a container. -/
theorem takeSealed_containers_length (n : Nat) (s : State) : (takeSealed n s).containers.length = s.containers.length := by
  unfold takeSealed
  split
  · exact replace_length _ _ _
  · rfl

theorem sealAsItStands_containers_length (shipment : Nat) (s : State) :
    (sealAsItStands shipment s).containers.length = s.containers.length := by
  unfold sealAsItStands
  split
  · exact (takeSealed_containers_length _ _).trans (replace_length _ _ _)
  · rfl

theorem keeps_placeItem (sh : Shipment) (i : Item) {s : State}
    (room : ¬ ((fitting s sh.number (itemUnits i)).isNone = true ∧ containerCapacity ≤ s.containers.length)) :
    Keeps s (placeItem sh i s).state := by
  unfold placeItem
  split
  · rename_i c hc
    have hf := (Option.filter_eq_some_iff.1 hc).2
    refine .of_quiet rfl ⟨.refl, .refl, .refl, .refl, .refl, (replace_length _ _ _).le⟩ (.refl _) le_rfl le_rfl
      (fit_replace _ _ fun x _ hx w => ?_)
    obtain rfl := beq_iff_eq.1 hx
    exact ⟨by simp [addItem, w.1], of_decide_eq_true hf⟩
  · rename_i h
    refine (keeps_sealAsItStands sh.number s).trans (keeps_openFor _ _ _ ?_)
    rw [sealAsItStands_containers_length]
    simp only [h, Option.isNone_none, true_and, not_le] at room
    exact room

theorem keeps_sealAfter (shipment container sealedOld : Nat) (s : State) :
    Keeps s (sealAfter shipment container sealedOld s) := by
  have k : Keeps s (if sealedOld = 0 then s else betweenSeals s) := by
    split
    · exact .refl s
    · exact keeps_betweenSeals s
  unfold sealAfter
  split
  · dsimp only
    split
    · exact (k.trans (keeps_sealContainer _ _ _)).trans (keeps_sealShipment _ _)
    · split
      · exact k.trans (keeps_sealContainer _ _ _)
      · exact keeps_updateContainer _ _ s (by exact fun _ w => w)
  · exact .refl s

/-- Marking an item PACKED touches no container. -/
theorem packItem_containers (i : Item) (s : State) : (packItem i s).containers = s.containers := by cases i <;> rfl

theorem keeps_acceptItem (x : Scanned) (sh : Shipment) {s : State}
    (room : ¬ ((fitting s sh.number (itemUnits x.item)).isNone = true ∧ containerCapacity ≤ s.containers.length)) :
    Keeps s (acceptItem x sh s).1 := by
  refine Keeps.trans ?_ (keeps_sealAfter _ _ _ _)
  refine ((keeps_packItem x.item s).trans (keeps_updateShipment _ _ _)).trans (keeps_placeItem _ _ ?_)
  have e : (updateShipment sh.number (fun y => { y with toScan := y.toScan - 1 }) (packItem x.item s)).containers
      = s.containers := packItem_containers _ _
  simpa only [fitting, openContainer, e] using room

theorem keeps_roomThenAccept (x : Scanned) (count : State → State) (s : State) (h : Keeps s (count s))
    (same : (count s).containers = s.containers) : Keeps s (roomThenAccept x count s).1 := by
  unfold roomThenAccept
  split
  · split
    · exact .refl s
    · rename_i room
      exact h.trans (keeps_acceptItem _ _ (by simpa only [fitting, openContainer, same] using room))
  · exact .refl s

theorem keeps_recallAtPack (c : Cartridge) (st : CartState) (s : State) : Keeps s (recallAtPack c st s) := by
  have h := (keeps_countMatches c s).trans (keeps_updateCart c.serial (recallAtPack.leaveRecord st) _)
  unfold recallAtPack
  dsimp only
  split
  · exact (h.trans (keeps_deleteJob _ _)).trans (keeps_dropLine _ _)
  · exact h

theorem keeps_packScan (form serial id volume : Nat) (s : State) :
    Keeps s (packScanRule form serial id volume s).1 := by
  unfold packScanRule
  split
  · exact .refl s
  · split
    · split
      · exact .refl s
      · unfold packCartridge
        split
        · exact .refl s
        · split
          · exact .refl s
          · split
            · exact keeps_recallAtPack _ _ s
            · split
              · exact keeps_roomThenAccept _ _ s (keeps_countMatches _ s) rfl
              · exact .refl s
    · split
      · exact .refl s
      · unfold packVolume
        split
        · exact .refl s
        · split
          · exact .refl s
          · split
            · exact .refl s
            · split
              · exact .refl s
              · split
                · exact keeps_roomThenAccept _ _ s (.refl s) rfl
                · exact .refl s
    · exact .refl s

theorem keeps_packTimeout (n : Nat) (s : State) : Keeps s (packTimeout n s) := by
  unfold packTimeout
  split
  · split
    · exact keeps_dissolve _ s
    · exact .refl s
  · exact .refl s

/-! ## Dispatch and loans -/

/-- The copies of `out` that are PACKED: those that a release has still to lend. -/
def stillPacked (out : List Nat) (copies : List Copy) : Nat :=
  (out.filter fun id => (copies.find? (·.id == id)).any (·.state == .packed)).length

/-- Lending a copy of `out` leaves fewer of them PACKED. -/
theorem stillPacked_lend {out : List Nat} {copies : List Copy} {id : Nat} {c : Copy} (f : Copy → Copy) (hid : id ∈ out)
    (hc : copies.find? (·.id == id) = some c) (hp : c.state = .packed) (key : ∀ c, (f c).id = c.id)
    (state : ∀ c, (f c).state ≠ .packed) : stillPacked out (replace (·.id == id) f copies) + 1 ≤ stillPacked out copies := by
  have look : ∀ m, m ≠ id → (replace (·.id == id) f copies).find? (·.id == m) = copies.find? (·.id == m) := fun m hm =>
    find?_replace_other _ _ f (fun x hx => by simpa [beq_iff_eq.1 hx] using hm.symm)
      (fun x hx => by simpa [key, beq_iff_eq.1 hx] using hm.symm) _
  have self : (replace (·.id == id) f copies).find? (·.id == id) = some (f c) := by
    rw [find?_replace _ f (fun x => by simp [key]), hc]
    rfl
  have sub : ((out.filter fun m => ((replace (·.id == id) f copies).find? (·.id == m)).any (·.state == .packed))).Sublist
      ((out.filter fun m => (copies.find? (·.id == m)).any (·.state == .packed)).filter (· != id)) := by
    rw [List.filter_filter]
    refine List.monotone_filter_right out fun m hm => ?_
    by_cases e : m = id
    · rw [e, self] at hm
      simp [state] at hm
    · rw [look m e] at hm
      simpa [e] using hm
  have lt : ((out.filter fun m => (copies.find? (·.id == m)).any (·.state == .packed)).filter (· != id)).length
      < (out.filter fun m => (copies.find? (·.id == m)).any (·.state == .packed)).length := by
    refine List.length_filter_lt_length_iff_exists.2 ⟨id, List.mem_filter.2 ⟨hid, ?_⟩, by simp⟩
    simp [hc, hp]
  exact lt_of_le_of_lt sub.length_le lt

/-- What one item of a release changes: records of cartridges or copies, and one loan more at most, which for a copy is one fewer of the
copies still to lend. -/
theorem lendItem_eq (out : List Nat) (s : State) (x : Item × Nat) :
    ∃ cs ps ls, lendItem out s x = { s with cartridges := cs, copies := ps, loans := ls }
      ∧ cs.length = s.cartridges.length ∧ ps.length = s.copies.length
      ∧ ls.length + stillPacked out ps ≤ s.loans.length + stillPacked out s.copies + (batchSerials [x]).length := by
  obtain ⟨i, n⟩ := x
  cases i with
  | cartridge serial =>
    refine ⟨_, _, _, rfl, replace_length _ _ _, rfl, ?_⟩
    rw [insertBy_length]
    simp only [batchSerials, List.filterMap_cons, List.filterMap_nil, List.length_singleton, updateCart_loans, updateCart_copies]
    omega
  | volume id volume =>
    unfold lendItem
    dsimp only
    split
    · rename_i hid
      split
      · rename_i c hc
        split
        · rename_i hp
          simp only [lendCopy, hc]
          refine ⟨_, _, _, rfl, rfl, replace_length _ _ _, ?_⟩
          rw [insertBy_length]
          have := stillPacked_lend (fun x => { x with state := .out, marks := noMarks x.volumes }) (by simpa using hid) hc hp
            (fun _ => rfl) (fun _ h => by cases h)
          show _ + 1 + stillPacked out (replace _ _ _) ≤ _
          simp only [batchSerials, List.filterMap_cons, List.filterMap_nil, List.length_nil]
          show s.loans.length + 1 + _ ≤ _
          omega
        · exact ⟨_, _, _, rfl, rfl, rfl, Nat.le_add_right _ _⟩
      · exact ⟨_, _, _, rfl, rfl, rfl, Nat.le_add_right _ _⟩
    · exact ⟨_, _, _, rfl, rfl, rfl, Nat.le_add_right _ _⟩

theorem lendItems_eq (out : List Nat) (items : List (Item × Nat)) (s : State) :
    ∃ cs ps ls, items.foldl (lendItem out) s = { s with cartridges := cs, copies := ps, loans := ls }
      ∧ cs.length = s.cartridges.length ∧ ps.length = s.copies.length
      ∧ ls.length + stillPacked out ps ≤ s.loans.length + stillPacked out s.copies + (batchSerials items).length := by
  induction items generalizing s with
  | nil => exact ⟨_, _, _, rfl, rfl, rfl, Nat.le_add_right _ _⟩
  | cons x items ih =>
    obtain ⟨cs, ps, ls, e, h1, h2, h3⟩ := lendItem_eq out s x
    obtain ⟨cs', ps', ls', e', h1', h2', h3'⟩ := ih (lendItem out s x)
    refine ⟨cs', ps', ls', ?_, h1'.trans ?_, h2'.trans ?_, ?_⟩
    · rw [List.foldl_cons, e', e]
    · rw [e]
      exact h1
    · rw [e]
      exact h2
    · rw [e] at h3'
      have : (batchSerials (x :: items)).length = (batchSerials [x]).length + (batchSerials items).length := by
        simp only [batchSerials, ← List.length_append, ← List.filterMap_append, List.singleton_append]
      dsimp only at h3'
      omega

/-- The loans of a release, with room for as many as it counts (R157, check 4). -/
theorem keeps_lendBatch {batch : Nat} {s : State} (room : s.loans.length + releaseLoans s batch ≤ loanCapacity) :
    Keeps s (lendBatch batch s) := by
  obtain ⟨cs, ps, ls, e, h1, h2, h3⟩ :=
    lendItems_eq ((batchCopies (batchItems s batch)).filter (goesOut s batch)) (batchItems s batch) s
  have hs : stillPacked ((batchCopies (batchItems s batch)).filter (goesOut s batch)) s.copies
      ≤ ((batchCopies (batchItems s batch)).filter (goesOut s batch)).length := List.length_filter_le _ _
  simp only [releaseLoans] at room
  unfold lendBatch
  dsimp only
  rw [e]
  exact ⟨rfl, id, id, id, fun _ w => ⟨w.1, w.2, w.3, h1.le.trans w.4, h2.le.trans w.5, w.6, w.7, w.8, w.9,
    by show ls.length ≤ _; omega, w.11, w.12⟩, id, id, id⟩

theorem keeps_dropContainers (gone : List Nat) (s : State) : Keeps s (dropContainers gone s) :=
  .of_quiet rfl ⟨.refl, (List.length_map _).le, .refl, .refl, .refl, List.length_filter_le _ _⟩ (.refl _) le_rfl le_rfl
    (fun w c hc => w c (List.mem_filter.1 hc).1)

theorem keeps_freeReleased (s : State) (sh : Shipment) : Keeps s (freeReleased s sh) :=
  (keeps_deleteLines _ s).trans (keeps_freeAndAppend _ _)

theorem keeps_dropBatch (batch : Nat) (s : State) : Keeps s (dropBatch batch s) :=
  ((keeps_batches (List.length_filter_le _ _) (fun o => ⟨o.numbers.sublist (List.filter_sublist.map _),
    (List.filter_sublist.filter _).length_le.trans o.oneOpen⟩)).trans (keeps_closeIfLate _)).trans (keeps_createBatch _)

theorem keeps_strikeItems (s : State) (x : Item × Nat) : Keeps s (strikeItems s x) :=
  keeps_updatePatron _ _ s fun _ => ⟨rfl, List.length_filter_le _ _⟩

theorem keeps_refreshDeadlines (named : List Nat) (s : State) : Keeps s (refreshDeadlines named s) :=
  keeps_foldl _ (fun t n => keeps_refreshDeadline n t) _ _

theorem keeps_releaseBatch {batch : Nat} {s : State} (room : s.loans.length + releaseLoans s batch ≤ loanCapacity) :
    Keeps s (releaseBatch batch s).1 :=
  ((((keeps_lendBatch room).trans (keeps_foldl _ keeps_strikeItems _ _)).trans
    ((keeps_dropContainers _ _).trans (keeps_refreshDeadlines _ _))).trans (keeps_foldl _ keeps_freeReleased _ _)).trans (keeps_dropBatch _ _)

theorem keeps_batchRelease (batch : Nat) (s : State) : Keeps s (batchReleaseRule batch s).1 := by
  unfold batchReleaseRule
  split
  · exact .refl s
  · split
    · exact .refl s
    · split
      · exact .refl s
      · split
        · exact .refl s
        · exact keeps_releaseBatch (by omega)

theorem keeps_writeOff (l : Loan) (s : State) : Keeps s (writeOff l s) := by
  refine Keeps.trans (Keeps.trans ?_ (keeps_closeLoan l _)) (keeps_appendEligible _ _)
  unfold writeOffItem
  split
  · exact keeps_updateCart _ _ s
  · exact keeps_updateCopy _ _ s

theorem keeps_loanWriteOff (form item : Nat) (s : State) : Keeps s (loanWriteOffRule form item s).1 := by
  unfold loanWriteOffRule
  split
  · exact .refl s
  · split
    · exact .refl s
    · exact keeps_writeOff _ s

end Sys2Proof.Machine
end

