-- ==== Sys2Proof/Laws/Preserved.lean ====
section
/-! SUPPORT. What every command preserves: the queue of commands, the bounds of `State.Legal`, the title counts, the capacities. Here are the
rules that move the fields `Keeps` holds still (clock, link, settings, supply, windows, resets). -/

namespace Sys2Proof.Machine

/-- The queue is as it was; the bounds, the title counts, the capacities, the order of the queues and of the batch table and the
containers' units hold after if they held before. -/
structure Preserves (s t : State) : Prop where
  pending : t.pending = s.pending
  legal   : s.Legal → t.Legal
  titles  : s.titlesAgree → t.titlesAgree
  within  : s.Orderly → s.WithinCapacity → t.WithinCapacity
  order   : s.Orderly → t.Orderly
  batches : s.BatchesOrderly → t.BatchesOrderly
  fit     : s.ContainersFit → t.ContainersFit

theorem Preserves.refl (s : State) : Preserves s s := ⟨rfl, id, id, fun _ => id, id, id, id⟩

theorem Preserves.trans {s t u : State} (h : Preserves s t) (k : Preserves t u) : Preserves s u :=
  ⟨k.pending.trans h.pending, k.legal ∘ h.legal, k.titles ∘ h.titles, fun o w => k.within (h.order o) (h.within o w),
    k.order ∘ h.order, k.batches ∘ h.batches, k.fit ∘ h.fit⟩

/-- An operation that keeps the ambient fields keeps the bounds. -/
theorem Keeps.preserves {s t : State} (h : Keeps s t) : Preserves s t := by
  have a := h.ambient
  have hp : t.pending = s.pending := congrArg Ambient.pending a
  have hi : t.intake = s.intake := congrArg Ambient.intake a
  have hl : t.linkErrors = s.linkErrors := congrArg Ambient.linkErrors a
  have hw : t.nextWindow = s.nextWindow := congrArg Ambient.nextWindow a
  have hv : t.supplyLevel = s.supplyLevel := congrArg Ambient.supplyLevel a
  have hn : t.supplyCount = s.supplyCount := congrArg Ambient.supplyCount a
  have ht : t.lowTimer = s.lowTimer := congrArg Ambient.lowTimer a
  have hc : t.clock = s.clock := congrArg Ambient.clock a
  have hu : t.cutoffs = s.cutoffs := congrArg Ambient.cutoffs a
  have h1 : t.cartridgePeriod = s.cartridgePeriod := congrArg Ambient.cartridgePeriod a
  have h2 : t.copyPeriod = s.copyPeriod := congrArg Ambient.copyPeriod a
  refine ⟨hp, fun g => ⟨?_, ?_, ?_, ?_, ?_, ?_⟩, h.titles, h.within, h.order, h.batches, h.fit⟩
  · rw [hc]; exact g.clock
  · exact ⟨by rw [hi]; exact g.link.1, by rw [hl]; exact g.link.2.1, h.latched g.link.2.2⟩
  · simpa only [State.settingsLegal, hu, h1, h2, hv] using g.settings
  · rw [hw]; exact g.window
  · rw [hn]; exact g.samples
  · rw [ht]; exact g.lowTimer

/-- Answering a request takes it from the intake queue and makes a reply ready. -/
theorem preserves_answered {s : State} (f : Frame) {a : Answer} (h : Preserves s a.1) : Preserves s (answered f a) := by
  refine h.trans ⟨rfl, fun g => ⟨g.clock, ⟨?_, g.link.2.1, g.link.2.2⟩, g.settings, g.window, g.samples, g.lowTimer⟩, id,
    fun _ w => ⟨w.1, w.2, w.3, w.4, w.5, w.6, w.7, w.8, w.9, w.10, w.11, w.12⟩, id, id, id⟩
  have := g.link.1
  simp only [answered, List.length_tail]
  omega

/-- Serving a request preserves what its rule preserves. -/
theorem preserves_serve (c : Instr) (f : Frame) (rule : State → Answer) (s : State) (h : Preserves s (rule s).1) :
    ∃ t, serve c f rule s = .next t ∧ Preserves s t := by
  rcases serve_cases c f rule s with e | e | e
  · exact ⟨_, e, .refl s⟩
  · exact ⟨_, e, preserves_answered f (.refl s)⟩
  · exact ⟨_, e, preserves_answered f h⟩

theorem preserves_stamped (s : State) : Preserves s s.stamped :=
  ⟨rfl, fun g => ⟨g.clock, g.link, g.settings, g.window, g.samples, g.lowTimer⟩, id,
    fun _ w => ⟨w.1, w.2, w.3, w.4, w.5, w.6, w.7, w.8, w.9, w.10, w.11, w.12⟩, id, id, id⟩

/-- An event preserves what its change preserves. -/
theorem preserves_event (change : State → State) (s : State) (h : Preserves s (change s)) :
    ∃ t, event change s = .next t ∧ Preserves s t := by
  rcases event_cases change s with e | e
  · exact ⟨_, e, .refl s⟩
  · exact ⟨_, e, h.trans (preserves_stamped _)⟩

/-! ## The clock -/

theorem preserves_clock {s : State} (c : Clock) (h : c.legal) : Preserves s { s with clock := c } :=
  ⟨rfl, fun g => ⟨h, g.link, g.settings, g.window, g.samples, g.lowTimer⟩, id,
    fun _ w => ⟨w.1, w.2, w.3, w.4, w.5, w.6, w.7, w.8, w.9, w.10, w.11, w.12⟩, id, id, id⟩

theorem preserves_setClock {day minute : Nat} (hd : day ≤ maxDay) (hm : minute ≤ 1439) (s : State) :
    Preserves s (setClock day minute s) := by
  have h : Preserves s (putClock day minute s) := by
    unfold putClock
    dsimp only
    split
    · exact preserves_clock _ ⟨hd, hm, by simp⟩
    · exact (preserves_clock _ ⟨hd, hm, by simp⟩).trans (keeps_markChanged _ _).preserves
  unfold setClock
  dsimp only
  refine h.trans ?_
  split
  · exact (((keeps_sweep _).trans (keeps_cutoffReached _)).trans
      ((keeps_createBatch _).trans (keeps_dissolveDue _))).preserves
  · exact ((keeps_cutoffReached _).trans ((keeps_createBatch _).trans (keeps_dissolveDue _))).preserves

theorem preserves_clockSet (day minute : Nat) (s : State) : Preserves s (clockSetRule day minute s).1 := by
  unfold clockSetRule
  split
  · exact .refl s
  · exact preserves_setClock (by omega) (by omega) s

theorem preserves_advanceMinute (s : State) : Preserves s (advanceMinute s) := by
  by_cases hs : s.clock.set = false
  · simp only [advanceMinute, hs, Bool.not_false, if_true]
    exact .refl s
  · have hs : s.clock.set = true := by simpa using hs
    have hc : ∀ c : Clock, (s.clock.legal → c.legal) → Preserves s { s with clock := c } := fun c h =>
      ⟨rfl, fun g => ⟨h g.clock, g.link, g.settings, g.window, g.samples, g.lowTimer⟩, id,
        fun _ w => ⟨w.1, w.2, w.3, w.4, w.5, w.6, w.7, w.8, w.9, w.10, w.11, w.12⟩, id, id, id⟩
    simp only [advanceMinute, hs, Bool.not_true, Bool.false_eq_true, if_false]
    split
    · exact hc _ fun g => ⟨g.1, by simp only; omega, fun h => by simp_all⟩
    · split
      · exact (hc _ fun _ => ⟨by simp only; omega, by simp, by simp⟩).trans (keeps_sweep _).preserves
      · exact .refl s

/-! ## Settings -/

theorem mem_mergeMinute (m x : Nat) (l : List Nat) : x ∈ mergeMinute m l ↔ x = m ∨ x ∈ l := by
  unfold mergeMinute
  split
  · rename_i h
    simp only [List.contains_iff_mem] at h
    constructor
    · exact .inr
    · rintro (rfl | h') <;> assumption
  · exact mem_insertBy _ _ _ _

theorem mem_keptMinutes (x : Nat) (l : List Nat) : x ∈ keptMinutes l ↔ x ∈ l := by
  have go : ∀ (l acc : List Nat), x ∈ l.foldl (fun acc m => mergeMinute m acc) acc ↔ x ∈ acc ∨ x ∈ l := by
    intro l
    induction l with
    | nil => simp
    | cons m ms ih =>
      intro acc
      rw [List.foldl_cons, ih, mem_mergeMinute, List.mem_cons]
      tauto
  simpa [keptMinutes] using go l []

theorem mergeMinute_length (m : Nat) (l : List Nat) : (mergeMinute m l).length ≤ l.length + 1 := by
  unfold mergeMinute
  split
  · omega
  · rw [insertBy_length]

theorem keptMinutes_length (l : List Nat) : (keptMinutes l).length ≤ l.length := by
  have go : ∀ (l acc : List Nat), (l.foldl (fun acc m => mergeMinute m acc) acc).length ≤ acc.length + l.length := by
    intro l
    induction l with
    | nil => simp
    | cons m ms ih =>
      intro acc
      have := ih (mergeMinute m acc)
      have := mergeMinute_length m acc
      simp only [List.foldl_cons, List.length_cons]
      omega
  simpa [keptMinutes] using go l []

/-- A minute put into a strictly rising list leaves it strictly rising. -/
theorem mergeMinute_rising (m : Nat) (l : List Nat) (h : l.Pairwise (· < ·)) : (mergeMinute m l).Pairwise (· < ·) := by
  unfold mergeMinute
  split
  · exact h
  · rename_i hm
    simp only [List.contains_iff_mem] at hm
    induction l with
    | nil => simp [insertBy]
    | cons y ys ih =>
      obtain ⟨h1, h2⟩ := List.pairwise_cons.1 h
      simp only [List.mem_cons, not_or] at hm
      simp only [insertBy]
      split
      · rename_i hy
        simp only [decide_eq_true_eq] at hy
        refine List.pairwise_cons.2 ⟨fun z hz => ?_, h⟩
        rcases List.mem_cons.1 hz with rfl | hz
        · exact hy
        · exact hy.trans (h1 z hz)
      · rename_i hy
        simp only [decide_eq_true_eq] at hy
        refine List.pairwise_cons.2 ⟨fun z hz => ?_, ih h2 hm.2⟩
        rcases (mem_insertBy _ _ _ _).1 hz with rfl | hz
        · omega
        · exact h1 z hz

/-- The minutes kept are strictly rising (R152). -/
theorem keptMinutes_rising (l : List Nat) : (keptMinutes l).Pairwise (· < ·) := by
  have go : ∀ (l acc : List Nat), acc.Pairwise (· < ·) →
      (l.foldl (fun acc m => mergeMinute m acc) acc).Pairwise (· < ·) := by
    intro l
    induction l with
    | nil => exact fun _ h => h
    | cons m ms ih => exact fun acc h => ih _ (mergeMinute_rising m acc h)
  exact go l [] .nil

theorem preserves_cutoffSet (minutes : List Nat) (s : State) : Preserves s (cutoffSetRule minutes s).1 := by
  unfold cutoffSetRule
  split
  · exact .refl s
  · rename_i h
    simp only [List.any_eq_true, decide_eq_true_eq, not_or, not_exists, not_and, not_le] at h
    have hc : Preserves s { s with cutoffs := keptMinutes minutes } :=
      ⟨rfl, fun g => ⟨g.clock, g.link, ⟨(keptMinutes_length minutes).trans (by omega), keptMinutes_rising _,
          fun m hm => h.2 m ((mem_keptMinutes m minutes).1 hm), g.settings.2.2.2⟩, g.window, g.samples, g.lowTimer⟩,
        id, fun _ w => ⟨w.1, w.2, w.3, w.4, w.5, w.6, w.7, w.8, w.9, w.10, w.11, w.12⟩, id, id, id⟩
    refine hc.trans ?_
    show Preserves _ (putCutoffs _ s)
    unfold putCutoffs
    dsimp only
    split
    · exact ((keeps_closeIfLate _).trans (keeps_createBatch _)).preserves
    · exact (keeps_createBatch _).preserves

theorem preserves_loanPeriod (a b : Nat) (s : State) : Preserves s (loanPeriodRule a b s).1 := by
  refine ⟨rfl, fun g => ⟨g.clock, g.link, ⟨g.settings.1, g.settings.2.1, g.settings.2.2.1, ?_, ?_, ?_, ?_,
      g.settings.2.2.2.2.2.2.2⟩, g.window, g.samples, g.lowTimer⟩, id, fun _ w => ⟨w.1, w.2, w.3, w.4, w.5, w.6, w.7, w.8, w.9, w.10, w.11, w.12⟩, id, id, id⟩
  all_goals
    show _ ≤ _
    simp only [loanPeriodRule, okWith, clampPeriod]
    omega

theorem preserves_supplyLevel (level : Nat) (s : State) : Preserves s (supplyLevelRule level s).1 := by
  refine ⟨rfl, fun g => ⟨g.clock, g.link, ⟨g.settings.1, g.settings.2.1, g.settings.2.2.1, g.settings.2.2.2.1,
      g.settings.2.2.2.2.1, g.settings.2.2.2.2.2.1, g.settings.2.2.2.2.2.2.1, ?_⟩, g.window, ?_, g.lowTimer⟩, id,
    fun _ w => ⟨w.1, w.2, w.3, w.4, w.5, w.6, w.7, w.8, w.9, w.10, w.11, w.12⟩, id, id, id⟩
  · show min 7 level ≤ 7
    omega
  · show 0 ≤ 2
    omega

/-- The selection setting, alone. -/
theorem preserves_setSelection (x : Selection) (s : State) : Preserves s (setSelection x s) := by
  unfold setSelection
  split
  · exact .refl s
  · refine Preserves.trans (t := { s with selection := x }) ?_ (keeps_markChanged _ _).preserves
    exact ⟨rfl, fun g => ⟨g.clock, g.link, g.settings, g.window, g.samples, g.lowTimer⟩, id,
      fun _ w => ⟨w.1, w.2, w.3, w.4, w.5, w.6, w.7, w.8, w.9, w.10, w.11, w.12⟩, id, id, id⟩

/-! ## Titles entered -/

/-- A new entry's counts agree (R4). -/
theorem newTitle_countsAgree (k : TitleKey) (r : TitleRequest) (seq : Nat) : (newTitle k r seq).countsAgree := by
  simp [TitleEntry.countsAgree, newTitle]

theorem preserves_titleEnter (r : TitleRequest) (s : State) : Preserves s (titleEnterRule r s).1 := by
  unfold titleEnterRule
  split
  · exact .refl s
  · dsimp only
    split
    · exact .refl s
    · split
      · exact .refl s
      · split
        · exact .refl s
        · rename_i new room queue
          have h := (keeps_retireReady r.title ((titleMedium r.medium).getD .audio) r.edition s)
          have hn : (retireReady r.title ((titleMedium r.medium).getD .audio) r.edition s).titles.length ≤ s.titles.length :=
            List.length_filterMap_le _ _
          refine h.preserves.trans ⟨rfl, fun g => ⟨g.clock, g.link, g.settings, g.window, g.samples, g.lowTimer⟩,
            fun h e he => ?_, fun _ w => ⟨?_, w.2, w.3, w.4, w.5, w.6, w.7, w.8, w.9, w.10, w.11, w.12⟩, fun o => ?_, id, id⟩
          · rcases List.mem_append.1 he with he | he
            · exact h e he
            · rw [List.mem_singleton.1 he]
              exact newTitle_countsAgree _ _ _
          · show (State.titles _ ++ [_]).length ≤ _
            rw [List.length_append, List.length_singleton]
            exact (Nat.add_le_add_right hn 1).trans (by omega)
          · have hk : ∀ e ∈ s.titles, e.key ≠ ⟨r.title, (titleMedium r.medium).getD .audio, r.edition⟩ := by
              simpa [findTitle] using new
            have hk' : ∀ e ∈ (retireReady r.title ((titleMedium r.medium).getD .audio) r.edition s).titles,
                e.key ≠ ⟨r.title, (titleMedium r.medium).getD .audio, r.edition⟩ := by
              intro e he
              obtain ⟨x, hx, hf⟩ := List.mem_filterMap.1 he
              have : e.key = x.key := by
                split at hf
                · split at hf <;> cases hf
                  rfl
                · cases hf
                  rfl
              rw [this]
              exact hk x hx
            refine ⟨?_, o.numbers, o.once, o.eligible, ?_, ?_⟩
            · show ((State.titles _ ++ [_]).map _).Nodup
              rw [List.map_append, List.nodup_append]
              refine ⟨o.keys, List.nodup_singleton _, fun a ha b hb => ?_⟩
              obtain ⟨e, he, rfl⟩ := List.mem_map.1 ha
              rw [List.mem_singleton.1 hb]
              exact hk' e he
            · show (State.surveyQueue _ ++ [_]).Perm (List.map _ (List.filter _ (State.titles _ ++ [_])))
              rw [List.filter_append, List.map_append]
              exact o.surveys.append (.refl _)
            · show (s.surveyQueue ++ [_]).length ≤ _
              rw [List.length_append, List.length_singleton]
              omega

/-! ## The link -/

theorem preserves_rx {s : State} (x : Receiver) : Preserves s { s with rx := x } :=
  ⟨rfl, fun g => ⟨g.clock, g.link, g.settings, g.window, g.samples, g.lowTimer⟩, id,
    fun _ w => ⟨w.1, w.2, w.3, w.4, w.5, w.6, w.7, w.8, w.9, w.10, w.11, w.12⟩, id, id, id⟩

theorem preserves_discardFrame (s : State) : Preserves s (discardFrame s) := by
  refine Preserves.trans (t := { s with rx := .hunting, linkErrors := min 255 (s.linkErrors + 1) }) ?_
    (keeps_setEvent _ _).preserves
  refine ⟨rfl, fun g => ⟨g.clock, ⟨g.link.1, ?_, g.link.2.2⟩, g.settings, g.window, g.samples, g.lowTimer⟩, id,
    fun _ w => ⟨w.1, w.2, w.3, w.4, w.5, w.6, w.7, w.8, w.9, w.10, w.11, w.12⟩, id, id, id⟩
  show min 255 _ ≤ 255
  omega

theorem preserves_takeFrame (f : Frame) (s : State) : Preserves s (takeFrame f s) := by
  unfold takeFrame
  split
  · refine ⟨rfl, fun g => ⟨g.clock, ⟨?_, g.link.2.1, g.link.2.2⟩, g.settings, g.window, g.samples, g.lowTimer⟩, id,
      fun _ w => ⟨w.1, w.2, w.3, w.4, w.5, w.6, w.7, w.8, w.9, w.10, w.11, w.12⟩, id, id, id⟩
    show (s.intake ++ [f]).length ≤ _
    simp
    omega
  · exact (keeps_readyFrame _ s).preserves

theorem preserves_receiveFrame (f : Frame) (check : Check) (s : State) : Preserves s (receiveFrame f check s) := by
  unfold receiveFrame
  split
  · exact preserves_discardFrame s
  · exact (preserves_rx .hunting).trans (preserves_takeFrame _ _)

theorem preserves_receiveByte (b : Byte) (s : State) : Preserves s (receiveByte b s) := by
  unfold receiveByte
  split
  · split
    · exact preserves_rx _
    · exact .refl s
  · unfold frameBytes
    dsimp only
    split
    · exact preserves_rx _
    · split
      · exact preserves_discardFrame s
      · split
        · exact preserves_rx _
        · exact preserves_receiveFrame _ _ s

theorem preserves_gapTooLong (s : State) : Preserves s (gapTooLong s) := by
  unfold gapTooLong
  split
  · exact .refl s
  · exact preserves_discardFrame s

theorem preserves_lengthTooLong (length : Nat) (s : State) : Preserves s (lengthTooLong length s) := by
  unfold lengthTooLong
  split
  · exact preserves_discardFrame s
  · exact .refl s

theorem preserves_frameSent (s : State) : Preserves s (frameSent s) := by
  unfold frameSent
  split
  · exact ⟨rfl, fun g => ⟨g.clock, g.link, g.settings, g.window, g.samples, g.lowTimer⟩, id,
      fun _ w => ⟨w.1, w.2, w.3, w.4, w.5, w.6, w.7, w.8, w.9, w.10, w.11, w.12⟩, id, id, id⟩
  · exact .refl s

/-- A summary that has been read has nothing unread (R188). -/
theorem preserves_clearSummary (s : State) : Preserves s (clearSummary s) := by
  refine ⟨rfl, fun g => ⟨g.clock, ⟨g.link.1, Nat.zero_le _, fun h => ?_⟩, g.settings, g.window, g.samples, g.lowTimer⟩, id,
    fun _ w => ⟨w.1, w.2, w.3, w.4, w.5, w.6, w.7, w.8, w.9, w.10, w.11, w.12⟩, id, id, id⟩
  exact absurd h (by simp [unread, clearSummary, eventBits, conditionBits, Events.clear, Conditions.clear, bit])

theorem preserves_controllerResetRequest (s : State) : Preserves s (controllerResetRule s).1 :=
  ⟨rfl, fun g => ⟨g.clock, g.link, g.settings, g.window, g.samples, g.lowTimer⟩, id,
    fun _ w => ⟨w.1, w.2, w.3, w.4, w.5, w.6, w.7, w.8, w.9, w.10, w.11, w.12⟩, id, id, id⟩

/-! ## The master port's windows and the supply -/

theorem preserves_startWindow (s : State) : Preserves s (startWindow s) := by
  have next : ∀ t : State, Keeps s t → Preserves s { t with nextWindow := (s.nextWindow + 1) % 16 } := fun t h =>
    h.preserves.trans ⟨rfl, fun g => ⟨g.clock, g.link, g.settings, Nat.mod_lt _ (by omega), g.samples, g.lowTimer⟩, id,
      fun _ w => ⟨w.1, w.2, w.3, w.4, w.5, w.6, w.7, w.8, w.9, w.10, w.11, w.12⟩, id, id, id⟩
  unfold startWindow
  split
  · exact .refl s
  · dsimp only
    split
    · exact next _ (keeps_grantSurvey s)
    · exact next _ (keeps_feedWindow s)

/-- The supply's own fields, in their bounds. -/
theorem preserves_supply {s : State} (x : Supply) (count timer : Nat) (done : Bool) (hc : count ≤ 2)
    (ht : timer ≤ lowTime) :
    Preserves s { s with supply := x, supplyCount := count, lowTimer := timer, abandoned := done } :=
  ⟨rfl, fun g => ⟨g.clock, g.link, g.settings, g.window, hc, ht⟩, id,
    fun _ w => ⟨w.1, w.2, w.3, w.4, w.5, w.6, w.7, w.8, w.9, w.10, w.11, w.12⟩, id, id, id⟩

theorem preserves_becomeLow (s : State) : Preserves s (becomeLow s) :=
  ((preserves_supply .low 0 0 false (by omega) (by omega)).trans (keeps_foldl _ keeps_lowBay _ _).preserves).trans
    (keeps_markChanged _ _).preserves

theorem preserves_becomeNormal (s : State) : Preserves s (becomeNormal s) :=
  ((preserves_supply .normal 0 0 s.abandoned (by omega) (by omega)).trans
    (keeps_foldl _ keeps_resumeBay _ _).preserves).trans (keeps_markChanged _ _).preserves

theorem preserves_sampleSupply (mv : Nat) (s : State) : Preserves s (sampleSupply mv s) := by
  have count : ∀ n, n ≤ 2 → Preserves s { s with supplyCount := n } := fun n h =>
    ⟨rfl, fun g => ⟨g.clock, g.link, g.settings, g.window, h, g.lowTimer⟩, id,
      fun _ w => ⟨w.1, w.2, w.3, w.4, w.5, w.6, w.7, w.8, w.9, w.10, w.11, w.12⟩, id, id, id⟩
  unfold sampleSupply
  split
  · split
    · unfold changeSupply
      split
      · exact preserves_becomeLow s
      · exact preserves_becomeNormal s
    · exact count _ (by omega)
  · exact count _ (by omega)

theorem preserves_lowTooLong (s : State) : Preserves s (lowTooLong s) := by
  unfold lowTooLong
  split
  · have h : Preserves s { s with abandoned := true, lowTimer := lowTime } :=
      ⟨rfl, fun g => ⟨g.clock, g.link, g.settings, g.window, g.samples, le_refl _⟩, id,
        fun _ w => ⟨w.1, w.2, w.3, w.4, w.5, w.6, w.7, w.8, w.9, w.10, w.11, w.12⟩, id, id, id⟩
    exact h.trans (keeps_foldl _ keeps_abandonBay _ _).preserves
  · exact .refl s

/-! ## Resets and record memory -/

theorem preserves_resetLink (cause : ResetCause) (s : State) : Preserves s (resetLink cause s) :=
  ⟨rfl, fun g => ⟨g.clock, ⟨Nat.zero_le _, Nat.zero_le _, fun _ => rfl⟩, g.settings, g.window, g.samples, g.lowTimer⟩, id,
    fun _ w => ⟨w.1, w.2, w.3, w.4, w.5, w.6, w.7, w.8, w.9, w.10, w.11, w.12⟩, id, id, id⟩

theorem preserves_bays {s : State} (x : Vector Bay 24) : Preserves s { s with bays := x } :=
  ⟨rfl, fun g => ⟨g.clock, g.link, g.settings, g.window, g.samples, g.lowTimer⟩, id,
    fun _ w => ⟨w.1, w.2, w.3, w.4, w.5, w.6, w.7, w.8, w.9, w.10, w.11, w.12⟩, id, id, id⟩

theorem keeps_convertCarts (s : State) : Keeps s (convertCarts s) :=
  .of_quiet rfl ⟨.refl, .refl, (List.length_map _).le, .refl, .refl, .refl⟩ (.refl _) le_rfl le_rfl id

theorem keeps_readyShipments (s : State) : Keeps s (readyShipments s) :=
  keeps_foldl (fun t n => readyCheck n t) (fun t n => keeps_readyCheck n t) _ s

theorem keeps_restartSurveys (s : State) : Keeps s (restartSurveys s) := by
  refine ⟨rfl, id, id, fun h e he => ?_,
    fun _ w => ⟨(List.length_map _).le.trans w.1, w.2, w.3, w.4, w.5, w.6, w.7, w.8, w.9, w.10, w.11, w.12⟩, fun o => ?_, id, id⟩
  rotate_left
  · have hm : ∀ e : TitleEntry, (restartEntry e).key = e.key ∧ (restartEntry e).state = e.state := fun e => by
      unfold restartEntry
      split <;> exact ⟨rfl, rfl⟩
    have hp := (sortBy_perm (fun a b => decide (a.seq < b.seq)) (s.titles.filter (·.state == .surveying))).map (·.key)
    have hs : surveyedKeys (s.titles.map restartEntry) = surveyedKeys s.titles := by
      simp only [surveyedKeys, List.filter_map, List.map_map]
      have h1 : (fun x : TitleEntry => x.state == .surveying) ∘ restartEntry = fun x => x.state == .surveying := by
        funext x
        simp [(hm x).2]
      have h2 : (fun x : TitleEntry => x.key) ∘ restartEntry = fun x => x.key := by
        funext x
        exact (hm x).1
      rw [h1, h2]
    refine ⟨?_, o.numbers, o.once, o.eligible, ?_, ?_⟩
    · show ((s.titles.map restartEntry).map _).Nodup
      have h2 : (fun x : TitleEntry => x.key) ∘ restartEntry = fun x => x.key := by
        funext x
        exact (hm x).1
      rw [List.map_map, h2]
      exact o.keys
    · show List.Perm _ (surveyedKeys (s.titles.map restartEntry))
      rw [hs]
      exact hp
    · exact hp.length_eq.le.trans (o.surveys.length_eq.symm.le.trans o.room)
  obtain ⟨x, hx, rfl⟩ := List.mem_map.1 he
  unfold restartEntry
  split
  · simp [TitleEntry.countsAgree]
  · exact h x hx

theorem preserves_resetPort (s : State) : Preserves s (resetPort s) :=
  ⟨rfl, fun g => ⟨g.clock, g.link, g.settings, Nat.zero_lt_succ _, g.samples, g.lowTimer⟩, id,
    fun _ w => ⟨w.1, w.2, w.3, w.4, w.5, w.6, w.7, w.8, w.9, w.10, w.11, w.12⟩, id, id, id⟩

theorem preserves_resetUnits (s : State) : Preserves s (resetUnits s) :=
  (keeps_clearCounters s).preserves.trans
    ⟨rfl, fun g => ⟨g.clock, g.link, g.settings, g.window, Nat.zero_le _, Nat.zero_le _⟩, id,
      fun _ w => ⟨w.1, w.2, w.3, w.4, w.5, w.6, w.7, w.8, w.9, w.10, w.11, w.12⟩, id, id, id⟩

theorem keeps_rebuildEligibility (s : State) : Keeps s (rebuildEligibility s) := by
  refine ⟨rfl, id, id, id, fun _ w => ⟨w.1, w.2, w.3, w.4, w.5, w.6, w.7, w.8, w.9, w.10, w.11, w.12⟩, fun o => ?_, id, id⟩
  refine ⟨o.keys, o.numbers, o.numbers.sublist (List.filter_sublist.map _), fun n hn => ?_, o.surveys, o.room⟩
  obtain ⟨p, hp, rfl⟩ := List.mem_map.1 hn
  exact List.mem_map.2 ⟨p, (List.mem_filter.1 hp).1, rfl⟩

theorem preserves_resetBlocks (s : State) : Preserves s (resetBlocks s) :=
  ((((((preserves_bays _).trans (keeps_jobs (List.length_map _).le).preserves).trans (keeps_convertCarts _).preserves).trans
    ((keeps_readyShipments _).trans (keeps_dissolveAll _)).preserves).trans
    ((keeps_pickList _ _).trans (keeps_restartSurveys _)).preserves).trans (preserves_resetPort _)).trans
    (((keeps_rebuildEligibility _).preserves.trans (preserves_resetUnits _)).trans (preserves_bays _))

theorem identifyPresent_latch (s : State) : (identifyPresent s).latch = s.latch := rfl
theorem resetUnits_latch (s : State) : (resetUnits s).latch = s.latch := rfl
theorem rebuildEligibility_latch (s : State) : (rebuildEligibility s).latch = s.latch := rfl
theorem resetPort_latch (s : State) : (resetPort s).latch = s.latch := rfl
theorem restartSurveys_latch (s : State) : (restartSurveys s).latch = s.latch := rfl
theorem rebuildPickList_latch (s : State) : (rebuildPickList s).latch = s.latch := rfl
theorem convertCarts_latch (s : State) : (convertCarts s).latch = s.latch := rfl
theorem resetJobs_latch (s : State) : (resetJobs s).latch = s.latch := rfl
theorem resetBays_latch (s : State) : (resetBays s).latch = s.latch := rfl

/-- No block's reset action clears the latch. -/
theorem resetBlocks_latch {s : State} (h : s.latch = true) : (resetBlocks s).latch = true := by
  simp only [resetBlocks, identifyPresent_latch, resetUnits_latch, rebuildEligibility_latch, resetPort_latch,
    restartSurveys_latch, rebuildPickList_latch]
  refine (keeps_dissolveAll _).sticky ((keeps_readyShipments _).sticky ?_)
  simp only [convertCarts_latch, resetJobs_latch, resetBays_latch, h]

/-- Setting every changed mark is in order while the latch is set (R187, R189). -/
theorem preserves_markAll {s t : State} (h : Preserves s t) (hl : t.latch = true) : Preserves s (markAll t) :=
  h.trans ⟨rfl, fun g => ⟨g.clock, ⟨g.link.1, g.link.2.1, fun _ => hl⟩, g.settings, g.window, g.samples, g.lowTimer⟩, id,
    fun _ w => ⟨w.1, w.2, w.3, w.4, w.5, w.6, w.7, w.8, w.9, w.10, w.11, w.12⟩, id, id, id⟩

theorem preserves_controllerReset (s : State) : Preserves s (controllerReset s) :=
  preserves_markAll ((preserves_resetLink _ s).trans (preserves_resetBlocks _)) (resetBlocks_latch rfl)

theorem preserves_takeReset (s : State) : Preserves s (takeReset s) := by
  unfold takeReset
  split
  · exact preserves_controllerReset s
  · exact .refl s

theorem preserves_recordsLost {s : State} (x : Bool) : Preserves s { s with recordsLost := x } :=
  ⟨rfl, fun g => ⟨g.clock, g.link, g.settings, g.window, g.samples, g.lowTimer⟩, id,
    fun _ w => ⟨w.1, w.2, w.3, w.4, w.5, w.6, w.7, w.8, w.9, w.10, w.11, w.12⟩, id, id, id⟩

theorem preserves_power {s : State} (x : Bool) : Preserves s { s with power := x } :=
  ⟨rfl, fun g => ⟨g.clock, g.link, g.settings, g.window, g.samples, g.lowTimer⟩, id,
    fun _ w => ⟨w.1, w.2, w.3, w.4, w.5, w.6, w.7, w.8, w.9, w.10, w.11, w.12⟩, id, id, id⟩

/-- Empty tables and queues, with the settings at their defaults, meet every bound (R190). -/
theorem preserves_emptied {s t : State} (pending : t.pending = s.pending) (legal : s.Legal → t.Legal) (h1 : t.titles = [])
    (h2 : t.patrons = []) (h3 : t.shipments = []) (h4 : t.cartridges = []) (h5 : t.copies = []) (h6 : t.holds = [])
    (h7 : t.containers = []) (h8 : t.batches = []) (h9 : t.jobs = []) (h10 : t.loans = []) (h11 : t.eligibility = [])
    (h12 : t.surveyQueue = []) : Preserves s t := by
  refine ⟨pending, legal, fun _ => ?_, fun _ _ => ?_, fun _ => ?_, fun _ => ?_, fun _ => ?_⟩
  · simp [State.titlesAgree, h1]
  · constructor <;> simp [itemsUsed, *]
  · unfold State.Orderly
    rw [h1, h2, h11, h12]
    exact ⟨.nil, .nil, .nil, by simp, .refl _, Nat.zero_le _⟩
  · unfold State.BatchesOrderly
    rw [h8]
    exact ⟨.nil, Nat.zero_le _⟩
  · simp [State.ContainersFit, h7]

/-- The settings of emptied records (R190). -/
theorem settingsLegal_emptyRecords (s : State) : (emptyRecords s).settingsLegal := by simp [State.settingsLegal, emptyRecords]

/-- With no shipment and no container there is nothing to make READY and nothing to dissolve. -/
theorem resetBlocks_empty {t : State} (h1 : t.shipments = []) (h2 : t.containers = []) :
    resetBlocks t = identifyPresent (resetUnits (rebuildEligibility (resetPort (restartSurveys (rebuildPickList
      (convertCarts (resetJobs (resetBays t)))))))) := by
  have e1 : readyShipments (convertCarts (resetJobs (resetBays t))) = convertCarts (resetJobs (resetBays t)) := by
    simp [readyShipments, convertCarts, resetJobs, resetBays, h1]
  have e2 : dissolveAll (convertCarts (resetJobs (resetBays t))) = convertCarts (resetJobs (resetBays t)) := by
    simp [dissolveAll, openContainers, convertCarts, resetJobs, resetBays, h2]
  simp only [resetBlocks, e1, e2]

/-- Power-up's reset actions on emptied records leave them empty (R190). -/
theorem preserves_powerEmpty {s u : State} (modules sensed : BitVec 24) (pending : u.pending = s.pending)
    (settings : u.settingsLegal) (h1 : u.titles = []) (h2 : u.patrons = []) (h3 : u.shipments = [])
    (h4 : u.cartridges = []) (h5 : u.copies = []) (h6 : u.holds = []) (h7 : u.containers = []) (h8 : u.batches = [])
    (h9 : u.jobs = []) (h10 : u.loans = []) :
    Preserves s (markAll (resetBlocks (stopClock (senseModules modules sensed (resetLink .power u))))) := by
  rw [resetBlocks_empty (t := stopClock (senseModules modules sensed (resetLink .power u))) h3 h7]
  simp only [stopClock, senseModules, resetLink, resetBays, resetJobs, convertCarts, rebuildPickList, restartSurveys, resetPort,
    rebuildEligibility, resetUnits, clearCounters, clearHits, identifyPresent, markAll, h1, h2, h4, h9]
  exact preserves_emptied pending (fun _ => ⟨⟨Nat.zero_le _, Nat.zero_le _, fun _ => ⟨rfl, rfl⟩⟩,
    ⟨Nat.zero_le _, Nat.zero_le _, fun _ => rfl⟩, settings, Nat.zero_lt_succ _, Nat.zero_le _, Nat.zero_le _⟩)
    rfl rfl h3 rfl h5 h6 h7 h8 rfl h10 rfl rfl

theorem preserves_powerUp (found : Option Nat) (modules sensed : BitVec 24) (s : State) :
    Preserves s (powerUp found modules sensed s) := by
  unfold powerUp checkRecords
  refine Preserves.trans ?_ (preserves_stamped _)
  split
  · exact preserves_markAll (((((preserves_power true).trans (preserves_recordsLost false)).trans
      (preserves_resetLink .power _)).trans (preserves_bays _)).trans
      (preserves_clock _ ⟨Nat.zero_le _, Nat.zero_le _, fun _ => ⟨rfl, rfl⟩⟩) |>.trans (preserves_resetBlocks _))
      (resetBlocks_latch rfl)
  · exact preserves_powerEmpty modules sensed rfl (settingsLegal_emptyRecords { s with power := true }) rfl rfl rfl rfl rfl rfl rfl
      rfl rfl rfl

theorem preserves_clearRecords (s : State) : Preserves s (clearRecords s) := by
  have h : Preserves s
      { orphanGrant (emptyRecords s) with surveyQueue := [], eligibility := [], pickList := [], counters := Counters.zero } :=
    preserves_emptied rfl (fun g => ⟨g.clock, g.link, settingsLegal_emptyRecords s, g.window, g.samples, g.lowTimer⟩)
      rfl rfl rfl rfl rfl rfl rfl rfl rfl rfl rfl rfl
  refine h.trans ?_
  unfold clearRecords clearRecordsLost
  dsimp only
  split
  · exact (preserves_recordsLost false).trans (keeps_markChanged _ _).preserves
  · exact .refl _

theorem preserves_recordsClear (s : State) : Preserves s (recordsClearRule s).1 := by
  unfold recordsClearRule
  split
  · exact preserves_clearRecords s
  · exact .refl s

/-! ## The idle millisecond -/

theorem preserves_tick (s : State) : Preserves s (tick s) := by
  unfold tick
  split
  · refine ⟨rfl, fun g => ⟨g.clock, g.link, g.settings, g.window, g.samples, ?_⟩, id,
      fun _ w => ⟨w.1, w.2, w.3, w.4, w.5, w.6, w.7, w.8, w.9, w.10, w.11, w.12⟩, id, id, id⟩
    have := g.lowTimer
    show (if s.supply = .low then min lowTime (s.lowTimer + 1) else s.lowTimer) ≤ lowTime
    split <;> omega
  · exact .refl s

end Sys2Proof.Machine
end

