-- ==== Sys2Proof/Laws/Dissolve.lean ====
section
/-! SUPPORT. What sealing, dissolving and becoming READY leave alone, and that dissolving leaves no container OPEN. -/

namespace Sys2Proof.Machine

/-- The tables that dissolution and readiness never touch: patrons, loans, holds, batches, jobs, bays, titles, the number counters, the
filters, the master port, and what the link shows but for the flags. -/
def beside (s : State) :=
  ((s.patrons, s.loans, s.holds, s.batches, s.jobs, s.bays, s.titles, s.eligibility, s.surveyQueue),
    (s.entrySeq, s.shipmentCounter, s.jobCounter, s.batchCounter, s.containerCounter, s.sealCounter),
    (s.slots, s.counters, s.grant, s.rotation, s.nextWindow, s.changed, s.bayMask), ambient s)

theorem beside_setEvent (f : EventFlag) (s : State) : beside (setEvent f s) = beside s := by
  rw [setEvent_eq]
  rfl

theorem beside_readyCheck (n : Nat) (s : State) : beside (readyCheck n s) = beside s := by
  unfold readyCheck
  split
  · split
    · rw [beside_setEvent]
      rfl
    · rfl
  · rfl

theorem beside_unpackItem (s : State) (i : Item) : beside (unpackItem s i) = beside s := by
  cases i with
  | cartridge serial => rfl
  | volume id volume =>
    simp only [unpackItem]
    split
    · split <;> rfl
    · rfl

theorem beside_foldl {α : Type} (f : State → α → State) (step : ∀ s x, beside (f s x) = beside s) (xs : List α) (s : State) :
    beside (xs.foldl f s) = beside s := by
  induction xs generalizing s with
  | nil => rfl
  | cons x xs ih => rw [List.foldl_cons, ih, step]

theorem beside_afterDissolve (n : Nat) (s : State) : beside (afterDissolve n s) = beside s := by
  unfold afterDissolve
  split
  · split
    · split
      · rw [beside_setEvent]
        rfl
      · rfl
    · rfl
  · rfl

theorem beside_dissolve (c : Container) (s : State) : beside (dissolve c s) = beside s := by
  unfold dissolve
  rw [beside_afterDissolve]
  exact beside_foldl _ beside_unpackItem c.items s

theorem beside_dissolveAll (s : State) : beside (dissolveAll s) = beside s :=
  beside_foldl (fun t c => dissolve c t) (fun t c => beside_dissolve c t) _ s

theorem beside_readyShipments (s : State) : beside (readyShipments s) = beside s :=
  beside_foldl (fun t n => readyCheck n t) (fun t n => beside_readyCheck n t) _ s

/-! ## Containers -/

theorem containers_setEvent (f : EventFlag) (s : State) : (setEvent f s).containers = s.containers := by rw [setEvent_eq]

theorem containers_unpackItem (s : State) (i : Item) : (unpackItem s i).containers = s.containers := by
  cases i with
  | cartridge serial => rfl
  | volume id volume =>
    simp only [unpackItem]
    split
    · split <;> rfl
    · rfl

theorem containers_unpack (xs : List Item) (s : State) : (xs.foldl unpackItem s).containers = s.containers := by
  induction xs generalizing s with
  | nil => rfl
  | cons x xs ih => rw [List.foldl_cons, ih, containers_unpackItem]

theorem containers_afterDissolve (n : Nat) (s : State) : (afterDissolve n s).containers = s.containers := by
  unfold afterDissolve
  split
  · split
    · split
      · rw [containers_setEvent, updateShipment_containers]
      · rfl
    · rfl
  · rfl

/-- A dissolved container's record, and no other, leaves the container table (R146). -/
theorem containers_dissolve (c : Container) (s : State) :
    (dissolve c s).containers = s.containers.filter (·.number != c.number) := by
  unfold dissolve
  rw [containers_afterDissolve]
  simp [containers_unpack]

/-- Dissolving several containers deletes exactly the records with their numbers. -/
theorem containers_dissolveList (l : List Container) (s : State) :
    (l.foldl (fun t c => dissolve c t) s).containers = s.containers.filter fun x => l.all fun c => x.number != c.number := by
  induction l generalizing s with
  | nil => simp
  | cons c l ih => rw [List.foldl_cons, ih, containers_dissolve, List.filter_filter]; simp only [List.all_cons]; congr 1; funext x; rw [Bool.and_comm]

/-- After every OPEN container has been dissolved, none is OPEN (R149). -/
theorem dissolveAll_none_open (s : State) : ∀ c ∈ (dissolveAll s).containers, c.state ≠ .open := by
  intro c hc ho
  rw [dissolveAll, containers_dissolveList, List.mem_filter] at hc
  have := List.all_eq_true.1 hc.2 c (List.mem_filter.2 ⟨hc.1, by simp [ho]⟩)
  simp at this

/-- Readiness checks touch no container. -/
theorem containers_readyCheck (n : Nat) (s : State) : (readyCheck n s).containers = s.containers := by
  unfold readyCheck
  split
  · split
    · rw [containers_setEvent, updateShipment_containers]
    · rfl
  · rfl

end Sys2Proof.Machine
end

