-- ==== Sys2Proof/WellFormed.lean ====
section
/-! DEFINITION. Well-formed commands: operands that the outside can present. -/

namespace Sys2Proof

/-- The bytes of a block: 65,536 (00_scope.md, Terms and units). -/
def isBlock (data : List Byte) : Bool := data.length == 65536

/-- The result of a master store read is a whole block or a media error (R23). -/
def ReadResult.wf : ReadResult → Bool
  | .data block => isBlock block
  | .mediaError => true

/-- What a command's operands must satisfy to be something the link, the lines or the host can present. The meanings are
total: a command that is not well formed has a meaning too, and no statement rests on it. -/
def Instr.wf (c : Instr) : Bool :=
  match c with
  | .unknownKind kind _ body => !isRequestKind kind && decide (body.length ≤ 1020)
  | .goodFrame _ _ body _ => decide (body.length ≤ 1020)
  | .frameLengthDiscard length => decide (length.toNat > 1020)
  | .indexBlockRead r => r.wf
  | .titleBlockRead r => r.wf
  | .feedReadData data => isBlock data
  | .readBackDone _ data => isBlock data
  | .packTimeout container => decide (1 ≤ container ∧ container ≤ 65535)
  | _ =>
    match c.frame? with
    | some f => c.proper && decide (f.body.length ≤ 1020)
    | none => true

end Sys2Proof
end

