-- ==== Sys2Proof/Laws/PerInstr.lean ====
section
/-! SUPPORT. The family `Row`: a well-formed request command is the row that serves its own frame, and its body fits a frame. -/

namespace Sys2Proof

/-- The kind codes as numbers. -/
def requestCodes : List Nat := requestKinds.map BitVec.toNat

theorem code_of_kind {k : Byte} (h : k ∉ requestKinds) : k.toNat ∉ requestCodes := by
  intro hk
  obtain ⟨x, hx, e⟩ := List.mem_map.1 hk
  exact h (BitVec.eq_of_toNat_eq e ▸ hx)

/-- A frame whose kind is no request's is the UNKNOWN KIND row's (R184). -/
theorem headCommand_unknownKind {k : Byte} (tag : Byte) (body : List Byte) (h : k ∉ requestKinds) :
    headCommand ⟨k, tag, body⟩ = .unknownKind k tag body := by
  have hk := code_of_kind h
  unfold headCommand
  dsimp only
  split
  all_goals first
    | rfl
    | (rename_i e; exact absurd (show k.toNat ∈ requestCodes by rw [e]; decide) hk)

/-- A row of the table, as syntax: when its operands are well formed and it serves a frame, that frame's command is the row itself (no body of
another form's row slips in), and the body fits a frame. -/
def Laws.Row.Statement (c : Instr) : Prop :=
  c.wf = true → ∀ f, c.frame? = some f → headCommand f = c ∧ f.body.length ≤ 1020

/-- A well-formed request of the kind table is its own frame's command. -/
theorem row_request {c : Instr} {f : Frame} (h : (c.proper && decide (f.body.length ≤ 1020)) = true) (hf : c.frame? = some f) :
    headCommand f = c ∧ f.body.length ≤ 1020 := by
  simp only [Bool.and_eq_true, decide_eq_true_eq, Instr.proper, hf, beq_iff_eq] at h
  exact h

theorem Laws.Row.clockSet (tag : Byte) (body : List Byte) : Laws.Row.Statement (.clockSet tag body) :=
  fun h _ hf => by cases hf; exact row_request h rfl

theorem Laws.Row.cutoffSet (tag : Byte) (body : List Byte) : Laws.Row.Statement (.cutoffSet tag body) :=
  fun h _ hf => by cases hf; exact row_request h rfl

theorem Laws.Row.loanPeriodSet (tag : Byte) (body : List Byte) : Laws.Row.Statement (.loanPeriodSet tag body) :=
  fun h _ hf => by cases hf; exact row_request h rfl

theorem Laws.Row.supplyLevelSet (tag : Byte) (body : List Byte) : Laws.Row.Statement (.supplyLevelSet tag body) :=
  fun h _ hf => by cases hf; exact row_request h rfl

theorem Laws.Row.selectionHold (tag : Byte) (body : List Byte) : Laws.Row.Statement (.selectionHold tag body) :=
  fun h _ hf => by cases hf; exact row_request h rfl

theorem Laws.Row.selectionRelease (tag : Byte) (body : List Byte) : Laws.Row.Statement (.selectionRelease tag body) :=
  fun h _ hf => by cases hf; exact row_request h rfl

theorem Laws.Row.titleEnter (tag : Byte) (body : List Byte) : Laws.Row.Statement (.titleEnter tag body) :=
  fun h _ hf => by cases hf; exact row_request h rfl

theorem Laws.Row.titleRemove (tag : Byte) (body : List Byte) : Laws.Row.Statement (.titleRemove tag body) :=
  fun h _ hf => by cases hf; exact row_request h rfl

theorem Laws.Row.titleQuery (tag : Byte) (body : List Byte) : Laws.Row.Statement (.titleQuery tag body) :=
  fun h _ hf => by cases hf; exact row_request h rfl

theorem Laws.Row.patronEnter (tag : Byte) (body : List Byte) : Laws.Row.Statement (.patronEnter tag body) :=
  fun h _ hf => by cases hf; exact row_request h rfl

theorem Laws.Row.patronRemove (tag : Byte) (body : List Byte) : Laws.Row.Statement (.patronRemove tag body) :=
  fun h _ hf => by cases hf; exact row_request h rfl

theorem Laws.Row.patronSuspend (tag : Byte) (body : List Byte) : Laws.Row.Statement (.patronSuspend tag body) :=
  fun h _ hf => by cases hf; exact row_request h rfl

theorem Laws.Row.patronResume (tag : Byte) (body : List Byte) : Laws.Row.Statement (.patronResume tag body) :=
  fun h _ hf => by cases hf; exact row_request h rfl

theorem Laws.Row.patronQuery (tag : Byte) (body : List Byte) : Laws.Row.Statement (.patronQuery tag body) :=
  fun h _ hf => by cases hf; exact row_request h rfl

theorem Laws.Row.shipNow (tag : Byte) (body : List Byte) : Laws.Row.Statement (.shipNow tag body) :=
  fun h _ hf => by cases hf; exact row_request h rfl

theorem Laws.Row.listAdd (tag : Byte) (body : List Byte) : Laws.Row.Statement (.listAdd tag body) :=
  fun h _ hf => by cases hf; exact row_request h rfl

theorem Laws.Row.listDrop (tag : Byte) (body : List Byte) : Laws.Row.Statement (.listDrop tag body) :=
  fun h _ hf => by cases hf; exact row_request h rfl

theorem Laws.Row.listQuery (tag : Byte) (body : List Byte) : Laws.Row.Statement (.listQuery tag body) :=
  fun h _ hf => by cases hf; exact row_request h rfl

theorem Laws.Row.copyEnter (tag : Byte) (body : List Byte) : Laws.Row.Statement (.copyEnter tag body) :=
  fun h _ hf => by cases hf; exact row_request h rfl

theorem Laws.Row.copyWithdraw (tag : Byte) (body : List Byte) : Laws.Row.Statement (.copyWithdraw tag body) :=
  fun h _ hf => by cases hf; exact row_request h rfl

theorem Laws.Row.holdQueryQueue (tag : Byte) (body : List Byte) : Laws.Row.Statement (.holdQueryQueue tag body) :=
  fun h _ hf => by cases hf; exact row_request h rfl

theorem Laws.Row.holdQueryCopies (tag : Byte) (body : List Byte) : Laws.Row.Statement (.holdQueryCopies tag body) :=
  fun h _ hf => by cases hf; exact row_request h rfl

theorem Laws.Row.pickList (tag : Byte) (body : List Byte) : Laws.Row.Statement (.pickList tag body) :=
  fun h _ hf => by cases hf; exact row_request h rfl

theorem Laws.Row.shipmentQuery (tag : Byte) (body : List Byte) : Laws.Row.Statement (.shipmentQuery tag body) :=
  fun h _ hf => by cases hf; exact row_request h rfl

theorem Laws.Row.shipmentCancel (tag : Byte) (body : List Byte) : Laws.Row.Statement (.shipmentCancel tag body) :=
  fun h _ hf => by cases hf; exact row_request h rfl

theorem Laws.Row.jobQuery (tag : Byte) (body : List Byte) : Laws.Row.Statement (.jobQuery tag body) :=
  fun h _ hf => by cases hf; exact row_request h rfl

theorem Laws.Row.jobQueryQueue (tag : Byte) (body : List Byte) : Laws.Row.Statement (.jobQueryQueue tag body) :=
  fun h _ hf => by cases hf; exact row_request h rfl

theorem Laws.Row.bayQuery (tag : Byte) (body : List Byte) : Laws.Row.Statement (.bayQuery tag body) :=
  fun h _ hf => by cases hf; exact row_request h rfl

theorem Laws.Row.bayQueryRack (tag : Byte) (body : List Byte) : Laws.Row.Statement (.bayQueryRack tag body) :=
  fun h _ hf => by cases hf; exact row_request h rfl

theorem Laws.Row.bayServiceOut (tag : Byte) (body : List Byte) : Laws.Row.Statement (.bayServiceOut tag body) :=
  fun h _ hf => by cases hf; exact row_request h rfl

theorem Laws.Row.bayServiceIn (tag : Byte) (body : List Byte) : Laws.Row.Statement (.bayServiceIn tag body) :=
  fun h _ hf => by cases hf; exact row_request h rfl

theorem Laws.Row.cartridgeQueryRecord (tag : Byte) (body : List Byte) : Laws.Row.Statement (.cartridgeQueryRecord tag body) :=
  fun h _ hf => by cases hf; exact row_request h rfl

theorem Laws.Row.cartridgeQuerySummary (tag : Byte) (body : List Byte) : Laws.Row.Statement (.cartridgeQuerySummary tag body) :=
  fun h _ hf => by cases hf; exact row_request h rfl

theorem Laws.Row.cartridgeQuerySearch (tag : Byte) (body : List Byte) : Laws.Row.Statement (.cartridgeQuerySearch tag body) :=
  fun h _ hf => by cases hf; exact row_request h rfl

theorem Laws.Row.cartridgeWithdraw (tag : Byte) (body : List Byte) : Laws.Row.Statement (.cartridgeWithdraw tag body) :=
  fun h _ hf => by cases hf; exact row_request h rfl

theorem Laws.Row.packScan (tag : Byte) (body : List Byte) : Laws.Row.Statement (.packScan tag body) :=
  fun h _ hf => by cases hf; exact row_request h rfl

theorem Laws.Row.containerQuery (tag : Byte) (body : List Byte) : Laws.Row.Statement (.containerQuery tag body) :=
  fun h _ hf => by cases hf; exact row_request h rfl

theorem Laws.Row.containerQueryShipment (tag : Byte) (body : List Byte) : Laws.Row.Statement (.containerQueryShipment tag body) :=
  fun h _ hf => by cases hf; exact row_request h rfl

theorem Laws.Row.batchQuery (tag : Byte) (body : List Byte) : Laws.Row.Statement (.batchQuery tag body) :=
  fun h _ hf => by cases hf; exact row_request h rfl

theorem Laws.Row.batchQueryTable (tag : Byte) (body : List Byte) : Laws.Row.Statement (.batchQueryTable tag body) :=
  fun h _ hf => by cases hf; exact row_request h rfl

theorem Laws.Row.batchRelease (tag : Byte) (body : List Byte) : Laws.Row.Statement (.batchRelease tag body) :=
  fun h _ hf => by cases hf; exact row_request h rfl

theorem Laws.Row.loanQueryItem (tag : Byte) (body : List Byte) : Laws.Row.Statement (.loanQueryItem tag body) :=
  fun h _ hf => by cases hf; exact row_request h rfl

theorem Laws.Row.loanQueryPatron (tag : Byte) (body : List Byte) : Laws.Row.Statement (.loanQueryPatron tag body) :=
  fun h _ hf => by cases hf; exact row_request h rfl

theorem Laws.Row.loanWriteOff (tag : Byte) (body : List Byte) : Laws.Row.Statement (.loanWriteOff tag body) :=
  fun h _ hf => by cases hf; exact row_request h rfl

theorem Laws.Row.returnScan (tag : Byte) (body : List Byte) : Laws.Row.Statement (.returnScan tag body) :=
  fun h _ hf => by cases hf; exact row_request h rfl

theorem Laws.Row.recallSet (tag : Byte) (body : List Byte) : Laws.Row.Statement (.recallSet tag body) :=
  fun h _ hf => by cases hf; exact row_request h rfl

theorem Laws.Row.recallClear (tag : Byte) (body : List Byte) : Laws.Row.Statement (.recallClear tag body) :=
  fun h _ hf => by cases hf; exact row_request h rfl

theorem Laws.Row.countersRead (tag : Byte) (body : List Byte) : Laws.Row.Statement (.countersRead tag body) :=
  fun h _ hf => by cases hf; exact row_request h rfl

theorem Laws.Row.countersClear (tag : Byte) (body : List Byte) : Laws.Row.Statement (.countersClear tag body) :=
  fun h _ hf => by cases hf; exact row_request h rfl

theorem Laws.Row.summaryRead (tag : Byte) (body : List Byte) : Laws.Row.Statement (.summaryRead tag body) :=
  fun h _ hf => by cases hf; exact row_request h rfl

theorem Laws.Row.controllerReset (tag : Byte) (body : List Byte) : Laws.Row.Statement (.controllerReset tag body) :=
  fun h _ hf => by cases hf; exact row_request h rfl

theorem Laws.Row.recordsClear (tag : Byte) (body : List Byte) : Laws.Row.Statement (.recordsClear tag body) :=
  fun h _ hf => by cases hf; exact row_request h rfl

theorem Laws.Row.unknownKind (kind tag : Byte) (body : List Byte) : Laws.Row.Statement (.unknownKind kind tag body) := by
  intro h f hf
  simp only [Instr.wf, isRequestKind, Bool.and_eq_true, Bool.not_eq_true', List.contains_eq_mem, decide_eq_false_iff_not, decide_eq_true_eq] at h
  cases hf
  exact ⟨headCommand_unknownKind tag body h.1, h.2⟩

theorem Laws.Row.goodFrame (kind tag : Byte) (body : List Byte) (check : Check) : Laws.Row.Statement (.goodFrame kind tag body check) :=
  fun _ _ hf => nomatch hf

theorem Laws.Row.frameLengthDiscard (length : BitVec 16) : Laws.Row.Statement (.frameLengthDiscard length) :=
  fun _ _ hf => nomatch hf

theorem Laws.Row.frameGapTimeout : Laws.Row.Statement (.frameGapTimeout) :=
  fun _ _ hf => nomatch hf

theorem Laws.Row.frameSent : Laws.Row.Statement (.frameSent) :=
  fun _ _ hf => nomatch hf

theorem Laws.Row.controllerResetTaken : Laws.Row.Statement (.controllerResetTaken) :=
  fun _ _ hf => nomatch hf

theorem Laws.Row.resetLine : Laws.Row.Statement (.resetLine) :=
  fun _ _ hf => nomatch hf

theorem Laws.Row.powerUp (found : Option Nat) (modules sensed : BitVec 24) : Laws.Row.Statement (.powerUp found modules sensed) :=
  fun _ _ hf => nomatch hf

theorem Laws.Row.mainPowerFall : Laws.Row.Statement (.mainPowerFall) :=
  fun _ _ hf => nomatch hf

theorem Laws.Row.windowStart : Laws.Row.Statement (.windowStart) :=
  fun _ _ hf => nomatch hf

theorem Laws.Row.indexBlockRead (result : ReadResult) : Laws.Row.Statement (.indexBlockRead result) :=
  fun _ _ hf => nomatch hf

theorem Laws.Row.titleBlockRead (result : ReadResult) : Laws.Row.Statement (.titleBlockRead result) :=
  fun _ _ hf => nomatch hf

theorem Laws.Row.feedReadData (data : List Byte) : Laws.Row.Statement (.feedReadData data) :=
  fun _ _ hf => nomatch hf

theorem Laws.Row.feedMediaError : Laws.Row.Statement (.feedMediaError) :=
  fun _ _ hf => nomatch hf

theorem Laws.Row.cartridgeInserted (bay : BayId) : Laws.Row.Statement (.cartridgeInserted bay) :=
  fun _ _ hf => nomatch hf

theorem Laws.Row.identityReadDone (bay : BayId) (serial : BitVec 32) (kind : Option Kind) : Laws.Row.Statement (.identityReadDone bay serial kind) :=
  fun _ _ hf => nomatch hf

theorem Laws.Row.identificationTimeout (bay : BayId) : Laws.Row.Statement (.identificationTimeout bay) :=
  fun _ _ hf => nomatch hf

theorem Laws.Row.cartridgeRemoved (bay : BayId) : Laws.Row.Statement (.cartridgeRemoved bay) :=
  fun _ _ hf => nomatch hf

theorem Laws.Row.wipeComplete (bay : BayId) : Laws.Row.Statement (.wipeComplete bay) :=
  fun _ _ hf => nomatch hf

theorem Laws.Row.wipeFailure (bay : BayId) : Laws.Row.Statement (.wipeFailure bay) :=
  fun _ _ hf => nomatch hf

theorem Laws.Row.wipeTimeout (bay : BayId) : Laws.Row.Statement (.wipeTimeout bay) :=
  fun _ _ hf => nomatch hf

theorem Laws.Row.fillBlockPassed (bay : BayId) : Laws.Row.Statement (.fillBlockPassed bay) :=
  fun _ _ hf => nomatch hf

theorem Laws.Row.writeAcknowledged (answered : BlockWrite) : Laws.Row.Statement (.writeAcknowledged answered) :=
  fun _ _ hf => nomatch hf

theorem Laws.Row.ackTimeout (bay : BayId) : Laws.Row.Statement (.ackTimeout bay) :=
  fun _ _ hf => nomatch hf

theorem Laws.Row.readBackDone (bay : BayId) (data : List Byte) : Laws.Row.Statement (.readBackDone bay data) :=
  fun _ _ hf => nomatch hf

theorem Laws.Row.readBackTimeout (bay : BayId) : Laws.Row.Statement (.readBackTimeout bay) :=
  fun _ _ hf => nomatch hf

theorem Laws.Row.supplyLow (millivolts : Nat) : Laws.Row.Statement (.supplyLow millivolts) :=
  fun _ _ hf => nomatch hf

theorem Laws.Row.supplyNormal (millivolts : Nat) : Laws.Row.Statement (.supplyNormal millivolts) :=
  fun _ _ hf => nomatch hf

theorem Laws.Row.lowDurationTimeout : Laws.Row.Statement (.lowDurationTimeout) :=
  fun _ _ hf => nomatch hf

theorem Laws.Row.minuteAdvance : Laws.Row.Statement (.minuteAdvance) :=
  fun _ _ hf => nomatch hf

theorem Laws.Row.batchCutoff : Laws.Row.Statement (.batchCutoff) :=
  fun _ _ hf => nomatch hf

theorem Laws.Row.packTimeout (container : Nat) : Laws.Row.Statement (.packTimeout container) :=
  fun _ _ hf => nomatch hf

theorem Laws.Row.selectionStep : Laws.Row.Statement (.selectionStep) :=
  fun _ _ hf => nomatch hf

theorem Laws.Row.supplySample (millivolts : Nat) : Laws.Row.Statement (.supplySample millivolts) :=
  fun _ _ hf => nomatch hf

theorem Laws.Row.byteReceived (byte : Byte) : Laws.Row.Statement (.byteReceived byte) :=
  fun _ _ hf => nomatch hf

end Sys2Proof
end

