-- ==== Sys2Proof/Tests/Slice0.lean ====
section
/-! SUPPORT. Tests: what the check of well-formed commands refuses, worked examples of the spec, and for each statement with hypotheses
a state and operands that meet them (`witness_…`). -/

open Sys2Proof Sys2Proof.Machine

namespace Sys2Proof.Tests

/-! ## States the tests start from -/

/-- A running part: the clock at day 10, minute 600, selection RELEASED, cut-offs 660 and 930. -/
def running : State :=
  { State.reset with
    recordsLost := false
    tx := []
    clock := ⟨10, 600, true⟩
    selection := .released
    cutoffs := [660, 930] }

def audio (title edition : Nat) : TitleKey := ⟨title, .audio, edition⟩

/-- A title of 3 blocks, of which 0 and 2 are occupied, on master blocks 100 to 102. -/
def entry (k : TitleKey) (st : TitleState) (refs : Nat) : TitleEntry :=
  ⟨k, 3, [], 50, st, [⟨100, 3⟩], [0, 2], 2, [2], false, none, refs, 3, 9⟩

/-- A title whose survey stands at block `at_` of 3, with its extents. -/
def surveyed (k : TitleKey) (extents : List Extent) (at_ : Nat) : TitleEntry :=
  ⟨k, 3, [], 50, .surveying, extents, [], 0, [0], false, none, 0, at_, 9⟩

def patron (n : Nat) (st : PatronState) (shipment : Option Nat) (list : List ListItem) : Patron :=
  ⟨n, .s, 3, 2, .auto, st, 0, 0, 0, shipment, 7, list⟩

def cart (serial : Nat) (st : CartState) : Cartridge := ⟨serial, .s, st, none, none, none, none, [], none, 0, 0⟩

def copy (id title : Nat) (st : CopyState) : Copy := ⟨id, title, 2, st, none, none, [false, false]⟩

/-- A job of shipment 5 for the three blocks of title 7. -/
def job (n : Nat) (st : JobState) (bay : Option BayId) : Job :=
  ⟨n, 5, 1, .s, [⟨audio 7 1, 0, 3, 2⟩], 5, some 15060, false, st, bay, none⟩

def shipment (st : ShipmentState) (lines : List JobLine) (copies : List Nat) (toScan : Nat) : Shipment :=
  ⟨5, 30, st, lines, copies, some 15060, [], toScan⟩

def loan (item : LoanItem) (due : Nat) (overdue : Bool) : Loan := ⟨item, 30, 5, 1, due, overdue⟩

def container (n units : Nat) (st : ContainerState) : Container :=
  ⟨n, 5, .pouch, 1, units, [], st, none, 0, none, none, false⟩

/-- `running` with a bay's record replaced. -/
def withBay0 (x : Bay) : State := running.withBay 0 x

/-- Bay 0 in a state, holding cartridge 41, with a job. -/
def bay0 (st : BayState) (j : Option Nat) : Bay :=
  { Bay.reset with state := st, occupant := some 41, job := j, present := true }

/-- The body of the reply made ready last. -/
def reply (o : Host.Outcome State Fault Refusal) : List Byte :=
  match o with
  | .next t => ((t.tx.getLast?).map (·.body)).getD []
  | .fault _ => []
  | .refused _ => []

/-- The state after a command; `s` if it does not answer one. -/
def nextOf (o : Host.Outcome State Fault Refusal) (s : State) : State :=
  match o with
  | .next t => t
  | .fault _ => s
  | .refused _ => s

/-- Any request can be served in a state with main power, no reset asked for and an empty intake queue. -/
theorem serves {s : State} (f : Frame) (hp : s.power = true) (hr : s.resetStage = .none) (hi : s.intake = []) :
    canServe f s = true := by
  unfold canServe
  rw [hp, hr, hi]
  rfl

theorem witness_serves (f : Frame) : canServe f running = true := rfl

/-! ## Well-formed commands: one term that each check refuses -/

theorem test_wf_known_kind : (Instr.unknownKind 0x60 0 []).wf = false := by decide
theorem test_wf_unknown_kind : (Instr.unknownKind 0x7F 0 []).wf = true := by decide
theorem test_wf_unknown_kind_length : (Instr.unknownKind 0x7F 0 (List.replicate 1021 0)).wf = false := by
  simp only [Instr.wf, List.length_replicate]; decide
theorem test_wf_frame_length : (Instr.goodFrame 0x60 0 (List.replicate 1021 0) 0).wf = false := by
  simp only [Instr.wf, List.length_replicate]; decide
theorem test_wf_length_in_range : (Instr.frameLengthDiscard 1020).wf = false := by decide
theorem test_wf_index_block : (Instr.indexBlockRead (.data [0])).wf = false := by decide
theorem test_wf_title_block : (Instr.titleBlockRead (.data [0])).wf = false := by decide
theorem test_wf_whole_block : (Instr.titleBlockRead (.data (List.replicate 65536 0xFF))).wf = true := by
  simp only [Instr.wf, ReadResult.wf, isBlock, List.length_replicate]; decide
theorem test_wf_feed_block : (Instr.feedReadData [0]).wf = false := by decide
theorem test_wf_read_back_block : (Instr.readBackDone 0 [0]).wf = false := by decide
theorem test_wf_container : (Instr.packTimeout 0).wf = false := by decide
theorem test_wf_other_form : (Instr.jobQuery 0 [0, 0, 1]).wf = false := by simp [Instr.wf, Instr.proper, Instr.frame?, headCommand]
theorem test_wf_body_length : (Instr.summaryRead 0 (List.replicate 1021 0)).wf = false := by
  simp only [Instr.wf, Instr.frame?, List.length_replicate]
  exact Bool.and_false _

/-! ## Frames and their commands -/

/-- R181: over 31h to 39h the check is 29B1h. -/
theorem test_crc_of_the_nine_bytes : crc16 [0x31, 0x32, 0x33, 0x34, 0x35, 0x36, 0x37, 0x38, 0x39] = 0x29B1 := by
  have h1 : crcByte 0xFFFF 0x31 = 0xC782 := by decide
  have h2 : crcByte 0xC782 0x32 = 0x3DBA := by decide
  have h3 : crcByte 0x3DBA 0x33 = 0x5BCE := by decide
  have h4 : crcByte 0x5BCE 0x34 = 0x5349 := by decide
  have h5 : crcByte 0x5349 0x35 = 0x4560 := by decide
  have h6 : crcByte 0x4560 0x36 = 0x2EF4 := by decide
  have h7 : crcByte 0x2EF4 0x37 = 0x7718 := by decide
  have h8 : crcByte 0x7718 0x38 = 0xA12B := by decide
  have h9 : crcByte 0xA12B 0x39 = 0x29B1 := by decide
  simp only [crc16, List.foldl, h1, h2, h3, h4, h5, h6, h7, h8, h9]

/-- The kind table of 10.5: a kind, and the forms of a kind, spell their rows. -/
theorem test_head_commands :
    headCommand ⟨0x10, 3, [1]⟩ = .titleEnter 3 [1] ∧ headCommand ⟨0x2A, 0, [1]⟩ = .holdQueryCopies 0 [1] ∧
      headCommand ⟨0x32, 0, [0, 0, 1]⟩ = .jobQueryQueue 0 [0, 0, 1] ∧ headCommand ⟨0x38, 0, [0xFF]⟩ = .bayQueryRack 0 [0xFF] ∧
      headCommand ⟨0x39, 0, [4, 2]⟩ = .bayServiceIn 0 [4, 2] ∧ headCommand ⟨0x52, 0, [1]⟩ = .loanQueryPatron 0 [1] ∧
      headCommand ⟨0x7F, 0, []⟩ = .unknownKind 0x7F 0 [] :=
  ⟨rfl, rfl, rfl, rfl, rfl, rfl, rfl⟩

/-- R192: multi-byte fields are sent low byte first. -/
theorem test_body_is_low_byte_first : bodyOf [(3, 0x010203), (2, 0x0A0B)] = [0x03, 0x02, 0x01, 0x0B, 0x0A] := by decide

/-! ## Witnesses: the machine, resets, the link -/

theorem witness_StepRunsTheFrontCommand :
    ({ running with pending := [.selectionStep, .windowStart] } : State).pending = [.selectionStep, .windowStart] := rfl

theorem witness_IdleStepRunsTimers :
    running.pending = [] ∧ running.power = true ∧ ({ running with power := false } : State).power = false ∧
      ({ running with rx := .inFrame [1] 10 } : State).rx = .inFrame [1] 10 := ⟨rfl, rfl, rfl, rfl⟩

theorem witness_ControllerReset :
    running.power = true ∧ running.resetStage ≠ .due ∧ ({ running with resetStage := .due } : State).resetStage = .due ∧
      (getBay (withBay0 (bay0 .writing none)) 0).state ≠ .absent ∧ (getBay (withBay0 (bay0 .writing none)) 0).present = true := by decide

/-- A check word that is that of the records, and one that is not. -/
theorem witness_PowerUpChecksTheRecords :
    (none : Option Nat).getD running.stamped.checkWord = recomputed running.stamped ∧
      (some (recomputed running + 1)).getD running.checkWord ≠ recomputed running ∧ (1 : BitVec 24).getLsbD (0 : BayId).val = true ∧
      (1 : BitVec 24).getLsbD (1 : BayId).val = false := ⟨rfl, (by simp), by decide, by decide⟩

/-- A running part whose record memory holds an OPEN pouch of shipment 5, an ASSIGNED job and an IN BAY record, before a controller reset. -/
theorem test_reset_actions :
    let s : State := { running with
      jobs := [⟨8, 5, 1, .s, [], 5, none, false, .assigned, some 0, none⟩]
      cartridges := [⟨41, .s, .inBay, some 0, some .written, none, none, [], none, 0, 0⟩, ⟨42, .s, .packed, none, none, none, none, [], none, 0, 0⟩]
      shipments := [⟨5, 30, .packing, [⟨8, 1, none⟩], [], none, [⟨2, false⟩], 1⟩]
      containers := [⟨2, 5, .pouch, 1, 1, [.cartridge 42], .open, none, 0, none, none, false⟩] }
    let t := nextOf (exec .resetLine s) s
    t.jobs.map (fun j => (j.state, j.requeued)) = [(JobState.queued, true)] ∧ t.cartridges.map (·.state) = [CartState.written, .written] ∧
      t.containers = [] ∧ t.shipments.map (fun x => (x.state, x.toScan)) = [(ShipmentState.assembling, 2)] := by decide

/-- R128: shipment 5, still PACKING, keeps the line of copy 3, which came back and is ALLOCATED to shipment 6. After a reset each copy stands once, at the place of
its own shipment. -/
theorem test_rebuilt_pick_list :
    let own := fun (id n : Nat) => { copy id 7 .allocated with patron := some 30, shipment := some n }
    let s : State := { running with
      copies := [own 3 6, own 4 5]
      shipments := [{ shipment .packing [] [3, 4] 2 with containers := [⟨1, true⟩] }, { shipment .ready [] [3] 2 with number := 6 }]
      pickList := [3, 4] }
    (nextOf (exec .resetLine s) s).pickList = [4, 3] := by decide

theorem witness_ServiceStopsForAReset :
    canServe ⟨0x61, 9, []⟩ running = true ∧ (Instr.summaryRead 1 []).frame? = some ⟨0x60, 1, []⟩ ∧
      ({ running with resetStage := .replying } : State).resetStage ≠ .none := ⟨rfl, rfl, by decide⟩

theorem witness_ServiceStopsWithoutMainPower :
    ({ running with power := false } : State).power = false ∧ (∀ found modules sensed, Instr.windowStart ≠ .powerUp found modules sensed) ∧
      Instr.windowStart ≠ .mainPowerFall :=
  ⟨rfl, (by intro found modules sensed h; cases h), (by intro h; cases h)⟩

/-- Both ends of R191: every bay EMPTY, and one bay LOADED. -/
theorem witness_RecordsClear :
    canServe ⟨0x62, 0, []⟩ running = true ∧ (∀ b, (getBay running b).state = .empty) ∧
      (getBay (withBay0 (bay0 .loaded none)) 0).state = .loaded := ⟨rfl, by decide, by decide⟩

/-- The receiver's cases, at their bounds: SYNC and another byte while hunting; the last byte but one of a frame of length 1,020; the
fourth and the fifth frame of the intake queue; LENGTH 1,021 by its second byte; a CHECK that differs. -/
theorem witness_FramesInAndOut :
    running.power = true ∧ running.rx = .hunting ∧ (0xC4 : Byte) ≠ 0xC3 ∧
      leNat (([0xFC] ++ [0x03] : List Byte).take 2) = 1020 ∧ running.intake.length < 4 ∧
      4 ≤ (List.replicate 4 (⟨0x60, 0, []⟩ : Frame)).length ∧ 1020 < (0xFD : Byte).toNat + 256 * (0x03 : Byte).toNat ∧
      1020 < (1021 : BitVec 16).toNat ∧ running.tx ++ [(⟨0xE1, 0, [0x00]⟩ : Frame)] = [⟨0xE1, 0, [0x00]⟩] ∧
      (0 : Check) ≠ 1 := by decide

/-- A frame with an empty body sent byte by byte, its CHECK right or not. -/
theorem witness_FrameIsReceivedFromItsBytes :
    running.power = true ∧ running.rx = .hunting ∧ ([] : List Byte).length ≤ 1020 := by decide

theorem witness_KindAndLengthChecks :
    (0x7F : Byte) ∉ requestKinds ∧ canServe ⟨0x7F, 0, []⟩ running = true ∧ (Instr.clockSet 0 [1, 2, 3]).frame? = some ⟨0x01, 0, [1, 2, 3]⟩ ∧
      headCommand ⟨0x01, 0, [1, 2, 3]⟩ = .clockSet 0 [1, 2, 3] ∧ (0x01 : Byte) ∈ requestKinds ∧
      canServe ⟨0x01, 0, [1, 2, 3]⟩ running = true ∧ bodyLengthOk ⟨0x01, 0, [1, 2, 3]⟩ = false :=
  ⟨by decide, rfl, rfl, rfl, by decide, rfl, rfl⟩

theorem witness_SummaryRead : canServe ⟨0x60, 0, []⟩ running = true := rfl

/-- R182, R188 after one discarded frame: LINK ERROR (bit 8 of the event flags), count 1. -/
theorem test_summary_after_a_discarded_frame :
    reply (exec (.summaryRead 0 []) (nextOf (exec (.frameLengthDiscard 1021) running) running)) =
      [0x00, 0x00, 0x03, 0x01, 0x00, 0x0F, 0x00, 0x00, 0x00, 0x01] := by decide

/-! ## Witnesses: titles, the survey, the master port -/

/-- `running` with title entries, the survey queue and the outstanding grant. -/
def titled (l : List TitleEntry) (q : List TitleKey) (g : Option Grant) : State :=
  { running with titles := l, surveyQueue := q, grant := g }

/-- TITLE ENTER at its bounds: size 65,520 in two volumes of 32,752 and 32,768 blocks is refused, 32,752 in one is not; a DUPLICATE; a full
table; a full survey queue. -/
theorem witness_TitleEnterChecksAndCreates :
    (∃ v ∈ volumes 65520 [32752], ¬v.2 ≤ 32752) ∧ (∀ v ∈ volumes 32752 [], v.2 ≤ 32752) ∧ ([] : List Nat).Pairwise (· < ·) ∧
      mediumCode .audio = 1 ∧ (∃ e ∈ (titled [entry (audio 7 1) .ready 0] [] none).titles, e.key = audio 7 1) ∧
      (∀ e ∈ (titled [entry (audio 7 1) .ready 0] [] none).titles, e.key ≠ audio 7 2) ∧
      4096 ≤ (List.replicate 4096 (entry (audio 7 1) .ready 0)).length ∧ (∀ e ∈ List.replicate 4096 (entry (audio 7 1) .ready 0), e.key ≠ audio 7 2) ∧
      16 ≤ (List.replicate 16 (audio 8 1)).length :=
  ⟨by decide, by decide, by decide, rfl, by decide, by decide, Nat.le_of_eq List.length_replicate.symm, (by intro e he; rw [List.eq_of_mem_replicate he]; decide), by decide⟩

/-- R3, R4: a title number above 999,999 is RANGE; an accepted entry takes sequence number 1. -/
theorem test_title_enter :
    reply (exec (.titleEnter 0 (bodyOf [(3, 1000000), (1, 1), (1, 1), (2, 3), (3, 50), (1, 0)])) running) = [0x05] ∧
      reply (exec (.titleEnter 0 (bodyOf [(3, 999999), (1, 1), (1, 1), (2, 3), (3, 50), (1, 0)])) running) = [0x00, 1, 0, 0, 0] := by decide

theorem witness_TitleRemoveOutcomes :
    mediumCode .audio = 1 ∧ findTitle running (audio 7 1) = none ∧
      findTitle (titled [surveyed (audio 7 1) [] 0] [audio 7 1] none) (audio 7 1) = some (surveyed (audio 7 1) [] 0) ∧
      (entry (audio 7 1) .retiring 1).state = .retiring ∧ (entry (audio 7 1) .faulted 0).refs = 0 ∧
      findTitle (titled [entry (audio 7 1) .ready 1] [] none) (audio 7 1) = some (entry (audio 7 1) .ready 1) ∧
      0 < (entry (audio 7 1) .ready 1).refs := by decide

/-- A survey grant of the entry with sequence number 9. -/
def surveyGrant (block : Option Nat) (discarded : Bool) : Grant := ⟨.survey, audio 7 1, 9, block, 50, discarded⟩

/-- The index block's cases: a good descriptor that ends at the last master block, one that ends past it, 64 without END. -/
theorem witness_IndexBlockWalk :
    (titled [surveyed (audio 7 1) [] 0] [audio 7 1] (some (surveyGrant none false))).grant = some (surveyGrant none false) ∧
      (surveyGrant none false).requester = .survey ∧ (surveyGrant none false).block = none ∧ (surveyGrant none true).discarded = true ∧
      (titled [surveyed (audio 7 1) [] 0] [audio 7 1] (some (surveyGrant none false))).surveyQueue.head? = some (audio 7 1) ∧
      findTitle (titled [surveyed (audio 7 1) [] 0] [audio 7 1] none) (audio 7 1) = some (surveyed (audio 7 1) [] 0) ∧
      (surveyed (audio 7 1) [] 0).seq = (surveyGrant none false).seq ∧ (surveyed (audio 7 1) [] 0).progress = 0 ∧
      (⟨4194303, 1⟩ : Extent).good ∧ ¬(⟨4194303, 2⟩ : Extent).good ∧ (0x01 : Byte).toNat % 2 = 1 ∧
      (∀ d ∈ List.replicate 64 ((⟨0, 1⟩ : Extent), (0 : Byte)), d.1.good ∧ d.2.toNat % 2 = 0) ∧
      (List.replicate 64 ((⟨0, 1⟩ : Extent), (0 : Byte))).length = 64 :=
  ⟨rfl, rfl, rfl, rfl, rfl, rfl, rfl, rfl, by unfold Extent.good; decide, by unfold Extent.good; decide, by decide,
    (by intro d hd; rw [List.eq_of_mem_replicate hd]; exact ⟨by unfold Extent.good; decide, by decide⟩), by simp⟩

/-- The title block's cases: blocks 0 and 2 of a title of 3 (a block follows, or none does), and an extent list that ends too soon. -/
theorem witness_TitleBlockSurvey :
    (surveyGrant (some 0) false).block ≠ none ∧
      findTitle (titled [surveyed (audio 7 1) [⟨100, 3⟩] 0] [audio 7 1] none) (audio 7 1) = some (surveyed (audio 7 1) [⟨100, 3⟩] 0) ∧
      (surveyed (audio 7 1) [⟨100, 3⟩] 0).progress + 1 < (surveyed (audio 7 1) [⟨100, 3⟩] 0).size ∧
      mapBlock [⟨100, 3⟩] 1 ≠ none ∧ mapBlock [⟨100, 1⟩] 1 = none ∧
      (surveyed (audio 7 1) [⟨100, 3⟩] 2).progress + 1 = (surveyed (audio 7 1) [⟨100, 3⟩] 2).size := by decide

/-- R12: a block of which every byte is FFh is fill, any other is occupied. -/
theorem test_fill_test :
    ((nextOf (exec (.titleBlockRead (.data [0xFF, 0xFF])) (titled [surveyed (audio 7 1) [⟨100, 3⟩] 0] [audio 7 1] (some (surveyGrant (some 0) false)))) running).titles.map
        (·.occupied)) = [[]] ∧
      ((nextOf (exec (.titleBlockRead (.data [0xFF, 0x7F])) (titled [surveyed (audio 7 1) [⟨100, 3⟩] 0] [audio 7 1] (some (surveyGrant (some 0) false)))) running).titles.map
        (·.occupied)) = [[0]] := by decide

/-- The append's cases, for the statement of PATRON RESUME and SHIP NOW. -/
theorem witness_Append :
    findPatron { running with patrons := [patron 30 .active none []] } 30 = some (patron 30 .active none []) ∧
      (patron 30 .active none []).mode = .auto ∧ 30 ∉ running.eligibility ∧
      (patron 30 .suspended none []).state ≠ .active ∧ (patron 30 .active (some 5) []).shipment ≠ none := by decide

/-- A bay writing job 8 from title 7, with its feed buffer and position. -/
def feeding (buffer : List FeedBlock) (fetch : Pos) : State :=
  { (withBay0 { bay0 .writing (some 8) with buffer := buffer, fetchPos := fetch }) with
    titles := [entry (audio 7 1) .ready 1]
    jobs := [job 8 .assigned (some 0)] }

/-- Windows: with a grant outstanding; a survey alone; a survey in window 14 although a bay requests; a bay in window 13; nothing. -/
theorem witness_WindowGoesToItsReader :
    (titled [] [] (some (surveyGrant none false))).grant ≠ none ∧
      surveyRead (titled [surveyed (audio 7 1) [] 0] [audio 7 1] none) = some ⟨.survey, audio 7 1, 9, none, 50, false⟩ ∧
      (∀ b, feedRequest (titled [surveyed (audio 7 1) [] 0] [audio 7 1] none) b = none) ∧ surveyRead running = none ∧
      (∀ b, feedRequest running b = none) ∧ feedRequest (feeding [] ⟨1, 0⟩) 0 = some (audio 7 1, 0, ⟨1, 0⟩) ∧
      surveyRead (feeding [] ⟨1, 0⟩) = none ∧ 14 ≤ ({ feeding [] ⟨1, 0⟩ with nextWindow := 14 } : State).nextWindow ∧
      (∀ c : BayId, (c - (23 : BayId) - 1).val < ((0 : BayId) - (23 : BayId) - 1).val → feedRequest (feeding [] ⟨1, 0⟩) c = none) ∧
      findTitle (feeding [] ⟨1, 0⟩) (audio 7 1) = some (entry (audio 7 1) .ready 1) ∧ mapBlock [⟨100, 3⟩] 0 = some 100 := by decide

/-- What a bay asks for: the next occupied block, block 2 from block 1; none past it; the block to rewrite; a block past the extents. -/
theorem witness_FeedRequests :
    (feeding [] ⟨1, 1⟩).titlesAgree ∧ partAt (jobParts (feeding [] ⟨1, 1⟩) 0) ⟨1, 2⟩ = some ⟨audio 7 1, 0, 3, 2⟩ ∧
      nextOccupied (feeding [] ⟨1, 1⟩) (jobParts (feeding [] ⟨1, 1⟩) 0) ⟨1, 1⟩ = some ⟨1, 2⟩ ∧
      nextOccupied (feeding [] ⟨1, 1⟩) (jobParts (feeding [] ⟨1, 1⟩) 0) ⟨2, 0⟩ = none ∧ (1 : Nat) ≤ (⟨1, 1⟩ : Pos).part ∧
      cartBlock (jobParts (feeding [] ⟨1, 1⟩) 0) ⟨1, 2⟩ = 18 ∧ (2 : Nat) < 3 ∧ (([⟨100, 3⟩] : List Extent).map (·.count)).sum ≤ 3 ∧
      (getBay (feeding [] ⟨1, 1⟩) 0).state = .writing ∧ (getBay (feeding [] ⟨1, 1⟩) 0).buffer.length < 2 ∧ running.supply = .normal :=
  ⟨(by unfold State.titlesAgree TitleEntry.countsAgree; decide), by decide, by decide, by decide, by decide, by decide, by decide, by decide, by decide,
    by decide, rfl⟩

def feedGrant (discarded : Bool) : Grant := ⟨.bay 0, audio 7 1, 9, some 0, 100, discarded⟩

/-- Feed data: discarded; during a write; for the block at the write position, or one further on; for a block to rewrite. -/
theorem witness_FeedDataIsHeldOrWritten :
    (feedGrant false).requester = .bay 0 ∧ (feedGrant true).discarded = true ∧ (feedGrant false).discarded = false ∧
      (getBay (feeding [⟨⟨1, 0⟩, none⟩] ⟨1, 2⟩) 0).state = .writing ∧ (getBay (feeding [⟨⟨1, 0⟩, none⟩] ⟨1, 2⟩) 0).ackTimer = none ∧
      (getBay (feeding [⟨⟨1, 0⟩, none⟩] ⟨1, 2⟩) 0).writePos = ⟨1, 0⟩ ∧ 1 ≤ (jobParts (feeding [⟨⟨1, 0⟩, none⟩] ⟨1, 2⟩) 0).length ∧
      ({ bay0 .writing (some 8) with ackTimer := some 250 } : Bay).ackTimer ≠ none ∧ (⟨1, 2⟩ : Pos) ≠ ⟨1, 0⟩ ∧
      ({ bay0 .verifying (some 8) with phase := some .data, buffer := [⟨⟨1, 0⟩, none⟩], rewriteMark := some 16 } : Bay).rewriteMark = some 16 := by
  decide

/-- A media error on a READY and on a RETIRING entry, on one that is SUSPECT already, and on one that is gone; a job in a WRITING bay. -/
theorem witness_MediaErrorCancelsJobs :
    findTitle (feeding [] ⟨1, 0⟩) (feedGrant false).key = some (entry (audio 7 1) .ready 1) ∧ (entry (audio 7 1) .ready 1).seq = (feedGrant false).seq ∧
      (entry (audio 7 1) .retiring 1).state = .retiring ∧ (entry (audio 7 1) .suspect 1).state ≠ .ready ∧ findTitle running (feedGrant false).key = none ∧
      findJob (feeding [] ⟨1, 0⟩) 8 = some (job 8 .assigned (some 0)) ∧ findJob (feeding [] ⟨1, 0⟩) 9 = none ∧ (job 8 .done none).state = .done ∧
      (job 8 .queued none).bay = none ∧ (getBay (feeding [] ⟨1, 0⟩) 0).state = .writing ∧ (bay0 .paused (some 8)).state = .paused := by decide

/-! ## Witnesses: patrons, lists, selection, shipments -/

def served (l : List Patron) : State := { running with patrons := l }

theorem witness_PatronEnter :
    findPatron (served []) 30 = none ∧ findPatron (served [patron 30 .active none []]) 30 ≠ none ∧ kindCode .s = 1 ∧ modeCode .auto = 1 ∧
      8192 ≤ (List.replicate 8192 (patron 31 .active none [])).length ∧ (served []).patrons.length < 8192 :=
  ⟨rfl, by decide, rfl, rfl, Nat.le_of_eq List.length_replicate.symm, by decide⟩

/-- R26: patron 1,000,000 is RANGE; allowances 0 and 9 are kept as 1 and 3. -/
theorem test_patron_enter :
    reply (exec (.patronEnter 0 (bodyOf [(3, 1000000), (1, 1), (1, 0), (1, 9), (1, 1), (2, 7)])) running) = [0x05] ∧
      (nextOf (exec (.patronEnter 0 (bodyOf [(3, 999999), (1, 1), (1, 0), (1, 9), (1, 1), (2, 7)])) running) running).patrons.map
        (fun p => (p.cartAllow, p.embAllow)) = [(1, 3)] := by decide

/-- PATRON SUSPEND, RESUME, REMOVE and SHIP NOW: unknown and known patrons, BUSY and free ones, overdue counts 2 and 3. -/
theorem witness_PatronRequests :
    findPatron (served [patron 30 .active none []]) 31 = none ∧ findPatron (served [patron 30 .active none []]) 30 = some (patron 30 .active none []) ∧
      (∃ l ∈ ({ served [patron 30 .active none []] with loans := [loan (.cartridge 41) 43 false] } : State).loans, l.patron = 30) ∧
      (∀ l ∈ (served [patron 30 .active none []]).loans, l.patron ≠ 30) ∧ (patron 30 .active none []).shipment = none ∧
      (patron 30 .active (some 5) []).shipment ≠ none ∧ (patron 30 .suspended none []).state ≠ .active ∧
      (∀ c ∈ running.copies, ¬(c.state = .reserved ∧ c.patron = some 30)) := by decide

/-- R30: the state follows the overdue count, 2 and 3, whatever it was. -/
theorem test_patron_resume :
    (nextOf (exec (.patronResume 0 (bodyOf [(3, 30)])) (served [{ patron 30 .suspended none [] with overdue := 2 }])) running).patrons.map (·.state) = [.active] ∧
      (nextOf (exec (.patronResume 0 (bodyOf [(3, 30)])) (served [{ patron 30 .suspended none [] with overdue := 3 }])) running).patrons.map (·.state) =
        [.overdueHold] := by decide

def item (title : Nat) (m : Medium) (st : ItemState) : ListItem := ⟨title, m, st, 10⟩

/-- LIST ADD: DUPLICATE, a list of 30 and of 29 items, a free pool; LIST DROP: an item in each state. -/
theorem witness_ListAddAndDrop :
    findPatron (served [patron 30 .active none [item 7 .audio .waiting]]) 30 = some (patron 30 .active none [item 7 .audio .waiting]) ∧
      (∃ i ∈ [item 7 .audio .waiting], i.title = 7 ∧ i.medium = .audio) ∧ (∀ i ∈ [item 7 .audio .waiting], ¬(i.title = 8 ∧ i.medium = .audio)) ∧
      30 ≤ (List.replicate 30 (item 7 .audio .waiting)).length ∧ (List.replicate 29 (item 7 .audio .waiting)).length < 30 ∧
      ((served [patron 30 .active none [item 7 .audio .waiting]]).patrons.map (·.list.length)).sum < 65536 ∧ mediumCode .embossed = 3 ∧
      [item 7 .audio .inShipment].find? (fun j => j.title = 7 ∧ j.medium = .audio) = some (item 7 .audio .inShipment) ∧
      [item 7 .embossed .onHold].find? (fun j => j.title = 7 ∧ j.medium = .embossed) = some (item 7 .embossed .onHold) := by decide

/-- R37: position 2 of a list of 2 is kept, position 9 is the end. -/
theorem test_list_add_position :
    reply (exec (.listAdd 0 (bodyOf [(3, 30), (3, 9), (1, 1), (1, 2)])) (served [patron 30 .active none [item 7 .audio .waiting, item 8 .audio .waiting]])) = [0, 2] ∧
      reply (exec (.listAdd 0 (bodyOf [(3, 30), (3, 9), (1, 1), (1, 9)])) (served [patron 30 .active none [item 7 .audio .waiting, item 8 .audio .waiting]])) = [0, 3] := by
  decide

/-- A patron in the queue: a shut gate in each way, an open one, one dropped for want of headroom. -/
theorem witness_SelectionGateAndDrop :
    State.reset.selection = .held ∧ ({ running with clock := ⟨0, 0, false⟩ } : State).clock.set = false ∧
      80 ≤ ((List.replicate 80 (job 8 .queued none)).filter fun j => j.state = .queued).length ∧ running.eligibility = [] ∧
      1024 ≤ (List.replicate 1024 (shipment .ready [] [] 0)).length ∧ running.selection = .released ∧ running.clock.set = true ∧
      (running.jobs.filter fun j => j.state = .queued).length < 80 ∧ running.shipments.length < 1024 ∧
      ({ patron 30 .active none [] with commCarts := 3, commCopies := 2 } : Patron).cartAllow ≤ 3 :=
  ⟨rfl, rfl, by decide, rfl, Nat.le_of_eq List.length_replicate.symm, rfl, rfl, by decide, by decide, by decide⟩

/-- A patron of the table; the walk's items: RESERVED with its copy, WAITING with and without a READY entry, EMBOSSED with a copy, with none, without headroom. -/
theorem witness_SelectionWalk :
    findPatron (served [patron 30 .active none []]) 30 = some (patron 30 .active none []) ∧
      [({ copy 3 7 .reserved with patron := some 30 } : Copy)].find? (fun c => c.state = .reserved ∧ c.patron = some 30 ∧ c.title = 7) =
        some { copy 3 7 .reserved with patron := some 30 } ∧
      readyEntry (titled [entry (audio 7 1) .ready 0] [] none) 7 .audio = some (entry (audio 7 1) .ready 0) ∧ readyEntry running 7 .audio = none ∧
      (patron 30 .active none []).commCopies < (patron 30 .active none []).embAllow ∧
      [copy 3 7 .shelf].find? (fun c => c.title = 7 ∧ c.state = .shelf) = some (copy 3 7 .shelf) ∧
      (∀ c ∈ running.copies, ¬(c.title = 7 ∧ c.state = .shelf)) ∧ running.holds.length < 4096 ∧
      4096 ≤ (List.replicate 4096 (⟨7, 31, 9⟩ : Hold)).length ∧ ({ patron 30 .active none [] with commCopies := 2 } : Patron).embAllow ≤ 2 :=
  ⟨by decide, by decide, by decide, by decide, by decide, by decide, by decide, by decide, Nat.le_of_eq List.length_replicate.symm, by decide⟩

/-- 2.4.3, with one item of each kind: an AUDIO title that is READY and a copy on SHELF, one BLANK cartridge of kind S. -/
def selecting : State :=
  { served [patron 30 .active none [item 7 .audio .waiting, item 8 .embossed .waiting, item 9 .ebraille .waiting]] with
    titles := [entry (audio 7 1) .ready 0]
    copies := [copy 3 8 .shelf]
    cartridges := [cart 41 .blank]
    eligibility := [30] }

theorem witness_SelectionStepCommits :
    selecting.power = true ∧ selecting.selection = .released ∧ selecting.clock.set = true ∧
      (selecting.jobs.filter fun j => j.state = .queued).length < 80 ∧ selecting.shipments.length < 1024 ∧ selecting.eligibility = 30 :: [] ∧
      (findPatron selecting 30).map (fun p => (p.state, p.shipment)) = some (PatronState.active, none) ∧
      (findPatron selecting 30).map (fun p => decide (p.commCarts < p.cartAllow)) = some true ∧
      (firstStages 30 1 { selecting with eligibility := [] }).copies = [3] ∧ findCopy selecting (copy 3 8 .shelf).id = some (copy 3 8 .shelf) ∧
      (makePlan .s 1 (firstStages 30 1 { selecting with eligibility := [] }).candidates).carts.length = 1 ∧
      (∀ j ∈ selecting.jobs, j.number ≠ (firstStages 30 1 { selecting with eligibility := [] }).state.jobCounter) := by decide

/-- R59, R62: the job of a commit is offered to the bays, and bay 2, LOADED with a cartridge of its kind, takes it. -/
theorem test_new_job_is_offered :
    let loaded := { bay0 .loaded none with occupant := some 77 }
    let s := selecting.withBay 2 loaded
    let t := nextOf (exec .selectionStep { s with cartridges := s.cartridges ++ [{ cart 77 .inBay with bay := some 2, entry := some .blank }] }) running
    t.jobs.map (fun j => (j.state, j.bay)) = [(JobState.assigned, some 2)] ∧ (getBay t 2).state = .writing := by decide

/-- 2.4.3: the items become IN SHIPMENT, IN SHIPMENT and AWAITING MASTER, and one job and one copy line are made. -/
theorem test_selection_step :
    (nextOf (exec .selectionStep selecting) running).patrons.map (fun p => (p.commCarts, p.commCopies, p.list.map (·.state))) =
        [(1, 1, [ItemState.inShipment, .inShipment, .awaitingMaster])] ∧
      (nextOf (exec .selectionStep selecting) running).shipments.map (fun x => (x.state, x.jobLines.length, x.copyLines)) = [(ShipmentState.assembling, 1, [3])] := by
  decide

/-- A title without its fill map, for the plans of 3.3. -/
def plain (title size : Nat) (breaks occ : List Nat) : TitleEntry :=
  ⟨audio title 1, size, breaks, 0, .ready, [], [], occ.sum, occ, false, none, 0, 0, title⟩

/-- 3.3.1: four titles under a cap of two. -/
theorem test_plan_of_3_3_1 :
    (makePlan .s 2 [plain 1 14000 [] [13200], plain 2 20500 [] [19000], plain 3 9000 [] [8100], plain 4 41000 [13000, 27500] [0, 0, 0]]).carts.map
        (fun c => (c.map (fun q => (q.key.title, q.count)), estimate c)) =
      [([(1, 14000)], 203), ([(2, 20500), (3, 9000)], 413)] := by decide

/-- 3.3.2: a title split over two cartridges. -/
theorem test_plan_of_3_3_2 :
    (makePlan .s 3 [plain 1 41000 [13000, 27500] [12400, 14100, 12900], plain 2 6000 [] [5700]]).carts.map
        (fun c => (c.map (fun q => (q.key.title, q.first, q.count, q.occ)), estimate c)) =
      [([(1, 0, 27500, 26500)], 403), ([(1, 27500, 13500, 12900), (2, 0, 6000, 5700)], 284)] := by decide

/-- 3.3.1: at day 310, minute 620 and at minute 650 with E = 413 s. -/
theorem test_target_of_3_3_1 :
    targetCutoff { running with clock := ⟨310, 620, true⟩ } 413 = some 447060 ∧
      targetCutoff { running with clock := ⟨310, 650, true⟩ } 413 = some 447330 := by decide

theorem witness_JobQueueAndTarget :
    running.cutoffs.Pairwise (· < ·) ∧ (∀ m ∈ running.cutoffs, m < 1440) ∧
      targetCutoff { running with clock := ⟨65535, 1439, true⟩ } 0 = none := by decide

/-- A candidate that fits the current cartridge, one that does not under a cap of 2 and of 1, a full current cartridge; a title above U whose first run fits, or
does not; an empty walk. -/
theorem witness_PlanPlacesAndDefers :
    (plain 1 14000 [] [13200]).size ≤ 32752 ∧ (PlanCart.mk 14000 []).free < 20500 ∧ 14000 ≤ (PlanCart.mk 14000 []).free ∧ ([] : List PlanCart).length + 1 < 2 ∧
      1 ≤ ([] : List PlanCart).length + 1 ∧ 12 ≤ (List.replicate 12 (⟨audio 7 1, 0, 3, 2⟩ : Part)).length ∧ 32752 < (plain 1 41000 [13000, 27500] [0, 0, 0]).size ∧
      (plain 1 41000 [13000, 27500] [0, 0, 0]).volOcc.length = (plain 1 41000 [13000, 27500] [0, 0, 0]).breaks.length + 1 ∧
      takeRun 32752 [⟨0, 13000, 0⟩, ⟨13000, 14500, 0⟩, ⟨27500, 13500, 0⟩] = ([⟨0, 13000, 0⟩, ⟨13000, 14500, 0⟩], [⟨27500, 13500, 0⟩]) ∧
      takeRun 9000 [⟨0, 13000, 0⟩] = ([], [⟨0, 13000, 0⟩]) ∧
      splitStage .s 1 (audio 1 1) [⟨0, 13000, 0⟩] [⟨9000, []⟩] = none ∧ (splitStage .s 2 (audio 1 1) [⟨0, 13000, 0⟩] [⟨9000, []⟩]).isSome = true ∧
      (2 : Nat) ≠ 0 ∧ [plain 1 14000 [] [13200]] ≠ [] := by decide

/-- 3.3.1: the fourth title of the walk, of 41,000 blocks, is rolled back under a cap of two (R55). -/
theorem test_rollback :
    placeCandidate .s 2 ⟨[⟨3252, []⟩, ⟨18752, []⟩], []⟩ (plain 4 41000 [13000, 27500] [0, 0, 0]) = ⟨[⟨3252, []⟩, ⟨18752, []⟩], []⟩ := by decide

/-- Shipments of each sort for a dropped line: none left, ASSEMBLING with its last line written, PACKING with something and with nothing left to scan, and with an OPEN
container, an unreleased one, or released ones alone. -/
theorem witness_DroppedLinesLeaveTheirShipment :
    findJob { running with jobs := [job 8 .done none] } 8 = some (job 8 .done none) ∧
      findShipment { running with shipments := [shipment .assembling [⟨8, 1, none⟩] [3] 3] } 5 = some (shipment .assembling [⟨8, 1, none⟩] [3] 3) ∧
      (job 8 .done none).shipment = (shipment .assembling [⟨8, 1, none⟩] [3] 3).number ∧ (shipment .packing [⟨8, 1, none⟩] [] 0).jobLines ≠ [] ∧
      (shipment .ready [] [] 0).jobLines = [] ∧ (shipment .ready [] [] 0).copyLines = [] ∧ (shipment .packing [] [3] 1).copyLines ≠ [] ∧
      0 < (shipment .packing [] [3] 1).toScan ∧ [container 1 2 .open].find? (fun c => c.shipment = 5 ∧ c.state = .open) = some (container 1 2 .open) ∧
      [container 1 2 .sealed].find? (fun c => c.shipment = 5 ∧ c.state = .open) = none ∧
      (([⟨1, true⟩, ⟨2, false⟩] : List ContainerEntry).filter fun e => e.released = false).getLast? = some ⟨2, false⟩ ∧
      (∀ e ∈ ([⟨1, true⟩] : List ContainerEntry), e.released = true) ∧
      (findJob { running with jobs := [{ job 8 .done none with serial := some 41 }] } 8).map (fun j => (j.state, j.serial)) = some (JobState.done, some 41) ∧
      findCart { running with cartridges := [cart 41 .written] } 41 = some (cart 41 .written) ∧ (cart 41 .packed).state ≠ .written ∧
      ({ cart 41 .written with shipment := some 5 } : Cartridge).shipment = some 5 ∧
      (findCart { running with cartridges := [{ cart 41 .written with shipment := some 5 }] } 41).map (fun c => (c.shipment, c.state)) =
        some (some 5, CartState.written) := by decide

/-- R47, R5: the only line of a shipment goes with its job; the shipment is freed, the item waits again, the reference count falls. -/
theorem test_dropped_line :
    let s : State := { served [{ patron 30 .active (some 5) [item 7 .audio .inShipment] with commCarts := 1 }] with
      titles := [entry (audio 7 1) .ready 1]
      jobs := [job 8 .queued none]
      shipments := [shipment .assembling [⟨8, 1, none⟩] [] 1] }
    let t := dropLine (job 8 .queued none) (deleteJob 8 s)
    t.shipments = [] ∧ t.titles.map (·.refs) = [0] ∧ t.patrons.map (fun p => (p.commCarts, p.list.map (·.state))) = [(0, [ItemState.waiting])] ∧
      t.eligibility = [30] := by decide

/-- Shipments of each sort for SHIPMENT CANCEL. -/
theorem witness_ShipmentCancelUndoes :
    findShipment running 5 = none ∧
      findShipment { running with shipments := [shipment .assembling [⟨8, 1, none⟩] [3] 3] } 5 = some (shipment .assembling [⟨8, 1, none⟩] [3] 3) ∧
      (shipment .assembling [⟨8, 1, none⟩] [3] 3).containers = [] ∧
      (∀ l ∈ [(⟨8, 1, none⟩ : JobLine)], (findJob { running with jobs := [job 8 .queued none] } l.job).map (·.state) = some .queued) ∧
      (∃ l ∈ [(⟨8, 1, none⟩ : JobLine)], (findJob { running with jobs := [job 8 .done none] } l.job).map (·.state) = some .done) ∧
      (patron 30 .active (some 5) []).number = (shipment .assembling [⟨8, 1, none⟩] [3] 3).patron ∧
      (patron 31 .active none []).number ≠ (shipment .assembling [⟨8, 1, none⟩] [3] 3).patron := by decide

/-! ## Witnesses: the duplication bays -/

/-- Bay 0 with a record, the registry holding cartridge 41, a QUEUED job 8. -/
def racked (x : Bay) (c : Cartridge) (js : List Job) : State := { (withBay0 x) with cartridges := [c], jobs := js, titles := [entry (audio 7 1) .ready 1] }

/-- A LOADED bay and a QUEUED job of its kind, and of the other kind. -/
theorem witness_LoadedBaysTakeJobs :
    occupantOf (racked (bay0 .loaded none) (cart 41 .inBay) [job 8 .queued none]) 0 = some (cart 41 .inBay) ∧
      (jobQueue (racked (bay0 .loaded none) (cart 41 .inBay) [job 8 .queued none])).find? (fun j => j.kind = Kind.s) = some (job 8 .queued none) ∧
      (∀ j ∈ [{ job 8 .queued none with kind := .l }], j.state = .queued → j.kind ≠ (cart 41 .inBay).kind) ∧
      findJob (racked (bay0 .loaded none) (cart 41 .inBay) [job 8 .queued none]) 8 = some (job 8 .queued none) ∧
      (getBay (racked (bay0 .loaded none) (cart 41 .inBay) [job 8 .queued none]) 0).state = .loaded ∧
      (∀ e, e < (0 : BayId) → (getBay (racked (bay0 .loaded none) (cart 41 .inBay) []) e).state ≠ .loaded) ∧
      (∀ d, (getBay running d).state ≠ .loaded) := by decide

/-- R78: the bay takes the job, which is ASSIGNED, and starts WRITING; while the supply is LOW it is PAUSED (R99). -/
theorem test_offer :
    ((getBay (offerJob 8 (racked (bay0 .loaded none) (cart 41 .inBay) [job 8 .queued none])) 0).state,
      (offerJob 8 (racked (bay0 .loaded none) (cart 41 .inBay) [job 8 .queued none])).jobs.map (·.state)) = (BayState.writing, [JobState.assigned]) ∧
      (getBay (offerJob 8 { racked (bay0 .loaded none) (cart 41 .inBay) [job 8 .queued none] with supply := .low }) 0).state = .paused := by decide

/-- Each state of the record identified, no record with room and with a full registry, and bays in each state an insertion finds. -/
theorem witness_IdentificationFollowsTheRegistry :
    (getBay running 0).state = .empty ∧ (getBay (withBay0 { Bay.reset with state := .outOfService }) 0).state = .outOfService ∧
      (getBay (withBay0 { Bay.reset with state := .absent }) 0).state = .absent ∧ (getBay (withBay0 { Bay.reset with state := .identifying }) 0).state = .identifying ∧
      (41 : BitVec 32) ≠ 0 ∧ (4294967295 : BitVec 32).toNat = 4294967295 ∧ findCart { running with cartridges := [cart 41 .blank] } (41 : BitVec 32).toNat = some (cart 41 .blank) ∧
      findCart running (41 : BitVec 32).toNat = none ∧ running.cartridges.length < 32768 ∧ 32768 ≤ (List.replicate 32768 (cart 42 .blank)).length ∧
      ({ cart 41 .written with shipment := some 5 } : Cartridge).shipment = some 5 :=
  ⟨rfl, rfl, rfl, rfl, by decide, rfl, rfl, rfl, by decide, Nat.le_of_eq List.length_replicate.symm, rfl⟩

/-- R72, R105: a RETURNED cartridge is wiped; an unknown one is enrolled FOULED and wiped; serial 0 is UNREADABLE. -/
theorem test_identify :
    let s := { withBay0 { Bay.reset with state := .identifying, present := true } with cartridges := [cart 41 .returned] }
    (getBay (nextOf (exec (.identityReadDone 0 41 (some .s)) s) s) 0).state = .wiping ∧
      (nextOf (exec (.identityReadDone 0 42 (some .s)) s) s).cartridges.map (fun c => (c.serial, c.state, c.entry)) =
        [(41, .returned, none), (42, .inBay, some .fouled)] ∧
      (getBay (nextOf (exec (.identityReadDone 0 0 (some .s)) s) s) 0).rejectReason = some .unreadable := by decide

/-- Removal in each state, after two and after three faults, with a job that exists and with one that does not. -/
theorem witness_RemovalVacatesTheBay :
    (getBay running 0).state = .empty ∧ (getBay (withBay0 (bay0 .outOfService none)) 0).state = .outOfService ∧
      (getBay (withBay0 (bay0 .done none)) 0).state = .done ∧ (getBay (withBay0 (bay0 .done none)) 0).occupant = some 41 ∧
      (getBay (withBay0 { bay0 .done none with occupant := none }) 0).occupant = none ∧ (bay0 .writing (some 8)).state ≠ .absent ∧
      findJob (racked (bay0 .writing (some 8)) (cart 41 .inBay) [job 8 .assigned (some 0)]) 8 ≠ none ∧ findJob (withBay0 (bay0 .writing (some 8))) 8 = none ∧
      ({ bay0 .fault none with faults := 3 } : Bay).faults = 3 := by decide

/-- R89, R90: after the third fault in a row the bay is OUT OF SERVICE, after the second it is EMPTY. -/
theorem test_removal_after_faults :
    (getBay (nextOf (exec (.cartridgeRemoved 0) (withBay0 { bay0 .fault none with faults := 2 })) running) 0).state = .empty ∧
      (getBay (nextOf (exec (.cartridgeRemoved 0) (withBay0 { bay0 .fault none with faults := 3 })) running) 0).state = .outOfService := by decide

theorem witness_FaultsAndWipeEnds :
    (getBay (withBay0 (bay0 .wiping none)) 0).state = .wiping ∧ (getBay running 0).state ≠ .wiping ∧
      (∀ n ∈ (getBay (withBay0 (bay0 .wiping none)) 0).job, findJob (withBay0 (bay0 .wiping none)) n = none) ∧
      findJob (racked (bay0 .writing (some 8)) (cart 41 .inBay) [job 8 .assigned (some 0)]) 8 ≠ none := by decide

/-- R69: the wipe timer is absent when its wipe is awaited no longer: at a fault, in LOADED. R98: in PAUSED it stops where it stands; R100: the wipe
begins again from 0. -/
theorem test_wipe_timer :
    let s := racked { bay0 .wiping none with wipeTimer := 5000 } (cart 41 .inBay) []
    let timer := fun i : Instr => (getBay (nextOf (exec i s) s) 0).wipeTimer
    timer (.wipeTimeout 0) = 0 ∧ timer (.wipeFailure 0) = 0 ∧ timer (.wipeComplete 0) = 0 ∧ (getBay (lowBay s 0) 0).wipeTimer = 5000 ∧
      (getBay (resumeBay (lowBay s 0) 0) 0).wipeTimer = 0 := by decide

/-- A job of two parts, of 3 and of 1 blocks. -/
def parts2 : List Part := [⟨audio 7 1, 0, 3, 2⟩, ⟨audio 8 1, 0, 1, 1⟩]

/-- A WRITING bay whose buffer holds the block at its write position. -/
def writing : Bay := { bay0 .writing (some 8) with buffer := [⟨⟨1, 0⟩, some [1]⟩], fetchPos := ⟨1, 2⟩ }

/-- Positions at the end of a part and before it, a check list with and without the block, a bay's buffer at its write position or not, past the
last part with and without data blocks. -/
theorem witness_WriteOrderAndPause :
    partAt parts2 ⟨1, 1⟩ = some ⟨audio 7 1, 0, 3, 2⟩ ∧ (1 : Nat) + 1 < 3 ∧ (3 : Nat) ≤ 2 + 1 ∧ partAt parts2 ⟨2, 0⟩ = some ⟨audio 8 1, 0, 1, 1⟩ ∧
      (∀ e ∈ [(⟨16, 0, 0, false⟩ : CheckEntry)], e.block ≠ 18) ∧ (∃ e ∈ [(⟨16, 0, 0, false⟩ : CheckEntry)], e.block = 16) ∧
      (getBay (racked writing (cart 41 .inBay) [job 8 .assigned (some 0)]) 0).ackTimer = none ∧
      writing.writePos.part ≤ (jobParts (racked writing (cart 41 .inBay) [job 8 .assigned (some 0)]) 0).length ∧ writing.buffer = ⟨writing.writePos, some [1]⟩ :: [] ∧
      (∀ f ∈ ({ writing with buffer := [⟨⟨1, 2⟩, some [1]⟩] } : Bay).buffer.head?, f.pos ≠ writing.writePos ∨ f.data = none) ∧
      (jobParts (racked writing (cart 41 .inBay) [job 8 .assigned (some 0)]) 0).length < ({ writing with writePos := ⟨2, 0⟩ } : Bay).writePos.part ∧
      [(⟨16, 0, 0, false⟩ : CheckEntry)].find? (fun e => 16 ≤ e.block) = some ⟨16, 0, 0, false⟩ ∧
      (∀ e ∈ [(⟨15, 0, 0, false⟩ : CheckEntry)], e.block < 16) ∧ ({ writing with ackTimer := some 0 } : Bay).ackTimer ≠ none ∧
      ({ bay0 .verifying (some 8) with phase := some .data, rewriteMark := some 16, buffer := [⟨⟨1, 0⟩, some [1]⟩] } : Bay).rewriteMark = some 16 ∧
      (bay0 .verifying (some 8)).rewriteMark = none ∧ (∀ f ∈ (bay0 .verifying (some 8)).buffer.head?, f.data = none) ∧ (bay0 .verifying (some 8)).phase ≠ some .data ∧
      (bay0 .loaded none).state ≠ .writing ∧ (bay0 .loaded none).state ≠ .verifying := by decide

/-- R79: cartridge blocks follow the directory's 16, part after part. -/
theorem test_positions :
    cartBlock parts2 ⟨1, 2⟩ = 18 ∧ cartBlock parts2 ⟨2, 0⟩ = 19 ∧ nextPos parts2 ⟨1, 2⟩ = ⟨2, 0⟩ ∧ nextPos parts2 ⟨1, 1⟩ = ⟨1, 2⟩ := by decide

/-- Writes: awaited or not, in WRITING and in VERIFYING, 15 and 16 directory blocks written, a first and a second expiry; a fill block and one that is not. -/
theorem witness_WritesAreSettled :
    writing.ackTimer = none ∧ ({ writing with ackTimer := some 249 } : Bay).ackTimer ≠ none ∧ (1 : Nat) ≠ writing.writes ∧ writing.retry = 0 ∧ ({ writing with retry := 1 } : Bay).retry ≠ 0 ∧
      ({ bay0 .verifying (some 8) with rewriteMark := some 16 } : Bay).rewriteMark ≠ none ∧
      (((List.range 15).map fun n => (⟨n, 0, 0, false⟩ : CheckEntry)).filter fun e => e.block < 16).length < 16 ∧
      16 ≤ (((List.range 16).map fun n => (⟨n, 0, 0, false⟩ : CheckEntry)).filter fun e => e.block < 16).length ∧
      partAt (jobParts (racked { writing with writePos := ⟨1, 1⟩ } (cart 41 .inBay) [job 8 .assigned (some 0)]) 0) ⟨1, 1⟩ = some ⟨audio 7 1, 0, 3, 2⟩ ∧
      (∀ e ∈ findTitle (racked writing (cart 41 .inBay) []) (audio 7 1), 0 + 1 ∉ e.occupied) ∧
      ¬(∀ e ∈ findTitle (racked writing (cart 41 .inBay) []) (audio 7 1), 0 + 0 ∉ e.occupied) := by decide

/-- R79, R82: the fill block at 1 is passed over; block 0 is written first. -/
theorem test_fill_is_passed :
    (getBay (nextOf (exec (.fillBlockPassed 0) (racked { writing with writePos := ⟨1, 1⟩, buffer := [] } (cart 41 .inBay) [job 8 .assigned (some 0)])) running) 0).writePos = ⟨1, 2⟩ ∧
      (getBay (nextOf (exec (.writeAcknowledged ⟨0, 2⟩) (racked { writing with ackTimer := some 3, writes := 2 } (cart 41 .inBay) [job 8 .assigned (some 0)])) running) 0).writePos = ⟨1, 1⟩ := by decide

/-- R82: the acknowledgement of a write whose timer has expired comes after the block was written again, and is discarded. -/
theorem test_late_acknowledgement :
    let s := racked { writing with ackTimer := some 250, writes := 2 } (cart 41 .inBay) [job 8 .assigned (some 0)]
    let late := nextOf (exec (.ackTimeout 0) s) s
    (getBay (nextOf (exec (.writeAcknowledged ⟨0, 2⟩) late) s) 0).writePos = ⟨1, 0⟩ ∧
      (getBay (nextOf (exec (.writeAcknowledged ⟨0, 3⟩) late) s) 0).writePos = ⟨1, 1⟩ := by decide

/-- A VERIFYING bay reading back block 16 after `n` rewrites, in a phase. -/
def verifying (phase : Phase) (block n : Nat) : Bay :=
  { bay0 .verifying (some 8) with phase := some phase, readBack := some block, checkList := [⟨block, 0xFFFF, n, false⟩] }

/-- The CRC of no bytes is the starting value FFFFh (R181), which `verifying` expects. -/
theorem witness_ReadBackOutcomes :
    (getBay (withBay0 (verifying .data 16 0)) 0).state = .verifying ∧ (verifying .data 16 0).rewriteMark = none ∧ (verifying .data 16 0).ackTimer = none ∧
      (verifying .data 16 0).readBack = some 16 ∧ (verifying .data 16 0).checkList.find? (fun e => e.block = 16) = some ⟨16, 0xFFFF, 0, false⟩ ∧
      crc16 [] = 0xFFFF ∧ (verifying .directory 15 0).phase = some .directory ∧ (verifying .data 16 0).phase ≠ some .directory ∧
      (∀ f ∈ (verifying .data 16 0).checkList, f.block ≤ 16) ∧ (verifying .data 16 2).checkList.find? (fun e => e.block = 16) = some ⟨16, 0xFFFF, 2, false⟩ ∧
      (2 : Nat) ≤ 2 ∧ (1 : Nat) < 2 ∧ running.supply = .normal ∧ (getBay running 0).readBack = none := by decide

/-- R84, R85: the second mismatch marks the block, the third is a fault. -/
theorem test_third_mismatch :
    (getBay (nextOf (exec (.readBackTimeout 0) (withBay0 (verifying .data 16 1))) running) 0).rewriteMark = some 16 ∧
      (getBay (nextOf (exec (.readBackTimeout 0) (withBay0 (verifying .data 16 2))) running) 0).faultReason = some .verify := by decide

/-- A bay with its job, its cartridge and a directory. -/
theorem witness_DirectoryAndCompletion :
    (getBay (racked (bay0 .verifying (some 8)) (cart 41 .inBay) [job 8 .assigned (some 0)]) 0).job = some (job 8 .assigned (some 0)).number ∧
      findJob (racked (bay0 .verifying (some 8)) (cart 41 .inBay) [job 8 .assigned (some 0)]) 8 = some (job 8 .assigned (some 0)) ∧
      occupantOf (racked (bay0 .verifying (some 8)) (cart 41 .inBay) [job 8 .assigned (some 0)]) 0 = some (cart 41 .inBay) ∧
      (job 8 .assigned (some 0)).parts.length ≤ 12 ∧ findTitle (racked writing (cart 41 .inBay) []) (audio 7 1) = some (entry (audio 7 1) .ready 1) ∧
      ({ bay0 .verifying (some 8) with directory := some [.header 41 .s 10 []] } : Bay).directory = some (.header 41 (cart 41 .inBay).kind 10 [] :: []) ∧
      [DirectoryBlock.fill][0]? = some .fill ∧ (bay0 .verifying (some 8)).retry = 0 ∧ ({ bay0 .verifying (some 8) with retry := 1 } : Bay).retry = 1 ∧
      running.supply = .normal ∧ ({ running with supply := .low } : State).supply = .low ∧ (∀ e ∈ (verifying .data 16 0).checkList, 16 ≤ e.block) := by decide

/-- R87: with the data blocks passed a bay writes directory block 0, and when block 2 is to be written again it is block 2. -/
theorem test_directory_writes :
    let built := { bay0 .verifying (some 8) with phase := some .directory, directory := some (List.replicate 16 .fill), retry := 1, checkList := [⟨0, 0, 0, false⟩, ⟨1, 0, 0, false⟩, ⟨2, 0, 0, false⟩, ⟨16, 0, 0, true⟩] }
    (getBay (enterDirectory 0 (racked (verifying .data 16 0) (cart 41 .inBay) [job 8 .assigned (some 0)])) 0).checkList.map (·.block) = [0, 16] ∧
      (getBay (writeDirectory 0 (withBay0 built)) 0).checkList.map (·.block) = [0, 1, 2, 16] := by decide

/-- BAY SERVICE: bays 23 and 24, actions 1, 2 and 3, with and without a cartridge. -/
theorem witness_BayServiceOutcomes :
    23 < 24 ∧ (3 ≠ 1 ∧ 3 ≠ 2) ∧ (23 : BayId).val = 23 ∧ (getBay running 23).state = .empty ∧ (getBay (withBay0 (bay0 .loaded none)) 0).state ≠ .empty ∧
      (getBay (withBay0 { Bay.reset with state := .outOfService }) 0).state = .outOfService ∧
      (getBay (withBay0 { Bay.reset with state := .outOfService }) 0).present = false ∧
      (getBay (withBay0 { Bay.reset with state := .outOfService, present := true }) 0).present = true := by decide

/-- R94: bay 24 is RANGE, an EMPTY bay goes OUT, an EMPTY bay cannot come IN. -/
theorem test_bay_service :
    reply (exec (.bayServiceOut 0 (bodyOf [(1, 24), (1, 1)])) running) = [0x05] ∧ reply (exec (.bayServiceOut 0 (bodyOf [(1, 23), (1, 1)])) running) = [0x00] ∧
      reply (exec (.bayServiceIn 0 (bodyOf [(1, 23), (1, 2)])) running) = [0x04] := by decide

/-- Level 2 has a falling threshold of 11.2 V and a rising one of 11.4 V (R97): samples on each side of each, with count 0 and 1. -/
theorem witness_SupplyFollowsItsSamples :
    running.power = true ∧ 10800 + 200 * running.supplyLevel = 11200 ∧ (running.supply = .normal ∧ 11199 < 11200) ∧
      ¬((running.supply = .normal ∧ 11200 < 11200) ∨ (running.supply = .low ∧ 11400 < 11200)) ∧ running.supplyCount = 0 ∧
      1 ≤ ({ running with supplyCount := 1 } : State).supplyCount ∧ ({ running with supply := .low } : State).supply = .low ∧ 11200 + 200 < 11401 ∧
      running.abandoned = false ∧ ({ running with abandoned := true } : State).abandoned = true ∧ (bay0 .wiping none).state = .wiping ∧
      (bay0 .paused none).state = .paused ∧ ({ bay0 .paused (some 8) with pausedFrom := some .writing } : Bay).pausedFrom = some .writing ∧
      (getBay (racked (bay0 .paused (some 8)) (cart 41 .inBay) [job 8 .assigned (some 0)]) 0).job = some 8 ∧
      ({ bay0 .verifying (some 8) with rewriteMark := some 16, phase := some .data } : Bay).phase ≠ some .directory ∧
      ({ bay0 .verifying (some 8) with rewriteMark := some 3, phase := some .directory } : Bay).rewriteMark = some 3 ∧
      ({ bay0 .verifying (some 8) with phase := some .directory } : Bay).readBack = none ∧ (verifying .directory 3 0).readBack ≠ none := by decide

/-- R97: at level 2 a sample below 11.2 V raises the count, one of 11.2 V sets it to 0. -/
theorem test_supply_samples :
    (nextOf (exec (.supplySample 11199) running) running).supplyCount = 1 ∧
      (nextOf (exec (.supplySample 11200) { running with supplyCount := 1 }) running).supplyCount = 0 := by decide

/-! ## Witnesses: settings, withdrawals, embossed stock -/

theorem witness_SettingsAreKept :
    State.reset.selection = .held ∧ running.selection = .released ∧ canServe ⟨0x04, 0, bodyOf [(1, 8)]⟩ running = true := ⟨rfl, rfl, rfl⟩

/-- R97, R161: level 9 is kept as 7, periods 6 and 121 as 7 and 120. -/
theorem test_settings :
    (nextOf (exec (.supplyLevelSet 0 (bodyOf [(1, 9)])) running) running).supplyLevel = 7 ∧
      reply (exec (.loanPeriodSet 0 (bodyOf [(1, 6), (1, 121)])) running) = [0x00, 7, 120] := by decide

theorem witness_WithdrawalsByTheHost :
    findCart running 41 = none ∧ findCart { running with cartridges := [cart 41 .blank] } 41 = some (cart 41 .blank) ∧
      ¬((cart 41 .out).state = .blank ∨ (cart 41 .out).state = .returned ∨ (cart 41 .out).state = .fouled ∨ (cart 41 .out).state = .quarantined) ∧
      findCopy running 3 = none ∧ findCopy { running with copies := [copy 3 7 .shelf] } 3 = some (copy 3 7 .shelf) ∧ (copy 3 7 .out).state ≠ .shelf := by decide

/-- 6.6: the hold queue of title 12,655 with the four patrons of the table and shipment 1,204 (here 5), READY. -/
def holding : State :=
  { running with
    patrons :=
      [{ patron 30002 .suspended none [item 12655 .embossed .onHold] with embAllow := 1 },
        { patron 30015 .active none [item 12655 .embossed .onHold] with embAllow := 1, commCopies := 1 },
        { patron 30027 .active (some 5) [item 12655 .embossed .onHold] with embAllow := 2 },
        { patron 30040 .active none [item 12655 .embossed .onHold] with embAllow := 2 }]
    shipments := [{ shipment .ready [⟨8, 1, none⟩, ⟨9, 2, none⟩] [] 2 with patron := 30027 }]
    holds := [⟨12655, 30002, 1⟩, ⟨12655, 30015, 1⟩, ⟨12655, 30027, 1⟩, ⟨12655, 30040, 1⟩]
    copies := [copy 4101 12655 .shelf] }

/-- COPY ENTER and hold service: a WITHDRAWN copy, one that is not, none with room and without; no able patron; one with a READY shipment, one without a shipment. -/
theorem witness_HoldServiceChoosesAHolder :
    (findCopy { running with copies := [copy 3 7 .withdrawn] } 3).map (·.state) = some .withdrawn ∧ (copy 3 7 .shelf).state ≠ .withdrawn ∧ findCopy running 3 = none ∧
      running.copies.length < 16384 ∧ findCopy holding 4101 = some (copy 4101 12655 .shelf) ∧ (∀ h ∈ running.holds, h.title ≠ 7) ∧
      holding.holds.filter (fun g => g.title = 12655) = [⟨12655, 30002, 1⟩, ⟨12655, 30015, 1⟩] ++ ⟨12655, 30027, 1⟩ :: [⟨12655, 30040, 1⟩] ∧
      (findPatron holding 30002).map (·.state) ≠ some .active ∧ (findPatron holding 30015).map embHeadroom = some 0 ∧ (findPatron holding 30027).map embHeadroom = some 2 ∧
      (findShipment holding 5).map (·.state) = some .ready ∧ (findPatron holding 30040).map (·.shipment) = some none := by decide

/-- 6.6: copy 4,101 goes to patron 30,027 and its READY shipment. -/
theorem test_hold_service_allocates :
    (holdService 4101 holding).copies.map (fun c => (c.state, c.patron, c.shipment)) = [(CopyState.allocated, some 30027, some 5)] ∧
      (holdService 4101 holding).holds.map (·.patron) = [30002, 30015, 30040] ∧ (holdService 4101 holding).pickList = [4101] := by decide

/-- 6.6: without that shipment's patron, copy 4,120 is RESERVED for patron 30,040, who is appended. -/
theorem test_hold_service_reserves :
    let s := holdService 4101 { holding with holds := [⟨12655, 30002, 1⟩, ⟨12655, 30015, 1⟩, ⟨12655, 30040, 1⟩] }
    s.copies.map (fun c => (c.state, c.patron)) = [(CopyState.reserved, some 30040)] ∧ s.eligibility = [30040] ∧ s.events.holdReserved = true := by decide

/-! ## Witnesses: packing -/

/-- A shipment 5 of one cartridge and a copy, both ready to pack, with its containers. -/
def packing (boxes : List Container) : State :=
  { served [patron 30 .active (some 5) []] with
    cartridges := [{ cart 41 .written with shipment := some 5, job := some 8 }]
    copies := [{ copy 3 7 .allocated with patron := some 30, shipment := some 5 }]
    jobs := [job 8 .done none]
    shipments := [shipment .ready [⟨8, 1, some 41⟩] [3] 3]
    pickList := [3]
    containers := boxes }

/-- PACK SCAN's cases: the clock unset, no form, serial 0, no record, a record in another state, recalled or not; volume 12 and 13, of a copy ALLOCATED, PACKED,
or neither, scanned before or not; a container with room, none with room. -/
theorem witness_PackScanChecksAndAccepts :
    State.reset.clock.set = false ∧ running.clock.set = true ∧ findCart running 41 = none ∧
      (findCart (packing []) 41).map (fun c => (c.state, c.shipment)) = some (CartState.written, some 5) ∧ (cart 41 .returned).state ≠ .written ∧
      strongestAction (packing []) (cart 41 .written) = none ∧ findShipment (packing []) 5 = some (shipment .ready [⟨8, 1, some 41⟩] [3] 3) ∧
      fitting (packing []) 5 1 = none ∧ (packing []).containers.length < 2048 ∧ (findJob (packing []) 8).map (·.number) = some 8 ∧
      (findCopy (packing []) 3).map (fun c => (c.state, c.volumes, c.marks)) = some (CopyState.allocated, 2, [false, false]) ∧ (12 : Nat) ≤ 12 ∧ 12 < 13 ∧
      ([true, false] : List Bool)[0]? = some true ∧ ([true, false] : List Bool)[1]? ≠ some true ∧ (copy 3 7 .shelf).state ≠ .allocated ∧
      2048 ≤ (List.replicate 2048 (container 1 3 .sealed)).length :=
  ⟨rfl, rfl, rfl, by decide, by decide, by decide, by decide, by decide, by decide, by decide, by decide, by decide, by decide, rfl, by decide, by decide,
    Nat.le_of_eq List.length_replicate.symm⟩

/-- R141, R142: the first scan of a shipment with copy lines opens a carton; a volume is PACKED, and 2 items are left to scan. -/
theorem test_pack_scan :
    let t := nextOf (exec (.packScan 0 (bodyOf [(1, 2), (3, 3), (1, 1)])) (packing [])) running
    t.containers.map (fun c => (c.kind, c.units, c.items, c.state)) = [(ContainerKind.carton, 8, [Item.volume 3 1], ContainerState.open)] ∧
      t.copies.map (fun c => (c.state, c.marks)) = [(CopyState.packed, [true, false])] ∧ t.shipments.map (fun x => (x.state, x.toScan)) = [(ShipmentState.packing, 2)] ∧
      t.pickList = [] := by decide

/-- A pouch of 2 and of 3 units; nothing and something left to scan; a deadline at now and a minute on. -/
theorem witness_ContainersFillSealAndDissolve :
    (fitting (packing [container 1 2 .open]) 5 1).map (·.number) = some 1 ∧ fitting (packing [container 1 3 .open]) 5 1 = none ∧ fitting (packing [container 1 2 .sealed]) 5 1 = none ∧
      findContainer (packing [container 1 3 .open]) 1 = some (container 1 3 .open) ∧ (shipment .packing [] [] 0).toScan = 0 ∧ (shipment .packing [] [] 1).toScan ≠ 0 ∧
      (container 1 3 .open).units = 3 ∧ (container 1 2 .open).units ≠ 3 ∧ findContainer running 1 = none ∧
      ({ container 1 2 .open with deadline := some 15000 } : Container).deadline = some 15000 ∧ 15000 ≤ running.clock.day * 1440 + running.clock.minute ∧
      running.clock.day * 1440 + running.clock.minute < 15001 ∧ (container 1 2 .sealed).state ≠ .open ∧ (container 1 2 .open).deadline = none ∧
      (∀ b ∈ running.batches, b.state ≠ .open) ∧ ([⟨1, 15000, .open, 0, false⟩] : List Batch).find? (fun b => b.state = .open) = some ⟨1, 15000, .open, 0, false⟩ ∧
      findCopy (packing []) 3 = some { copy 3 7 .allocated with patron := some 30, shipment := some 5 } ∧
      (∀ m ∈ ([true, false] : List Bool).set (1 - 1) false, m = false) ∧ true ∈ ([true, true] : List Bool).set (1 - 1) false ∧
      findShipment (packing []) 5 = some (shipment .ready [⟨8, 1, some 41⟩] [3] 3) ∧ (shipment .packing [] [] 0).containers = [] ∧
      running.containerCounter ∉ running.containers.map (·.number) ∧ (running.containers.map (·.number)).length < 65535 := by decide

/-- R133: a number held by a container or by a released entry is passed over, by an entry that is not released it is not. -/
theorem test_container_number :
    newContainerNumber { packing [container 1 1 .sealed] with shipments := [{ shipment .packing [] [] 1 with containers := [⟨2, true⟩, ⟨3, false⟩] }] } = 3 := by decide

/-- R145: at its deadline an OPEN container is dissolved, a minute before it is not. -/
theorem test_pack_timeout :
    (nextOf (exec (.packTimeout 1) (packing [{ container 1 2 .open with deadline := some 15000 }])) running).containers = [] ∧
      (nextOf (exec (.packTimeout 1) (packing [{ container 1 2 .open with deadline := some 15001 }])) running).containers.map (·.number) = [1] := by decide

/-! ## Witnesses: calendar, batches, release -/

theorem witness_ClockAndSweep :
    1439 < 1440 ∧ running.clock.set = true ∧ State.reset.clock.set = false ∧ ({ running with clock := ⟨10, 1438, true⟩ } : State).clock.minute < 1439 ∧
      ({ running with clock := ⟨65534, 1439, true⟩ } : State).clock.day < 65535 ∧ ({ running with clock := ⟨65535, 1439, true⟩ } : State).clock.day = 65535 ∧
      (loan (.cartridge 41) 9 false).due < running.clock.day ∧ (loan (.cartridge 41) 9 false).overdue = false ∧
      running.clock.day ≤ (loan (.cartridge 41) 10 false).due ∧ (loan (.cartridge 41) 9 true).overdue = true := by decide

/-- R162: a loan due on day 10 is marked by the sweep of day 11; the third overdue loan makes the patron OVERDUE HOLD (R27). -/
theorem test_sweep :
    let s := { served [{ patron 30 .active none [] with overdue := 2 }] with clock := ⟨10, 1439, true⟩, loans := [loan (.cartridge 41) 10 false, loan (.cartridge 42) 11 false] }
    (nextOf (exec .minuteAdvance s) s).loans.map (·.overdue) = [true, false] ∧
      (nextOf (exec .minuteAdvance s) s).patrons.map (fun p => (p.overdue, p.state)) = [(3, PatronState.overdueHold)] ∧
      (nextOf (exec .minuteAdvance s) s).clock = ⟨11, 0, true⟩ := by decide

def batch (n cutoff : Nat) (st : BatchState) (late : Bool) : Batch := ⟨n, cutoff, st, 0, late⟩

/-- `running` with batches and containers. -/
def posting (bs : List Batch) (boxes : List Container) : State := { running with batches := bs, containers := boxes }

/-- A list of 5 and of 4 minutes, one of 1,440; a next cut-off, none; an OPEN batch, none, seven and eight batches; a cut-off at now and later. -/
theorem witness_CutoffsAndBatches :
    4 < [1, 2, 3, 4, 5].length ∧ [1, 2, 3, 4].length ≤ 4 ∧ (∃ m ∈ [1440], 1440 ≤ m) ∧ (∀ m ∈ [1439], m < 1440) ∧ nextCutoff running = some 15060 ∧
      nextCutoff { running with cutoffs := [] } = none ∧ (∃ b ∈ (posting [batch 1 15060 .open false] []).batches, b.state = .open) ∧
      (∀ b ∈ (posting [batch 1 15060 .closed false] []).batches, b.state ≠ .open) ∧ 8 ≤ (List.replicate 8 (batch 1 15060 .closed false)).length ∧
      (List.replicate 7 (batch 1 15060 .closed false)).length < 8 ∧
      (posting [batch 1 15000 .open false] []).batches.find? (fun b => b.state = .open) = some (batch 1 15000 .open false) ∧
      (batch 1 15000 .open false).cutoff ≤ running.clock.day * 1440 + running.clock.minute ∧ running.clock.day * 1440 + running.clock.minute < (batch 1 15001 .open false).cutoff ∧
      (batch 1 15000 .open true).late = true ∧ running.cutoffs ≠ [] := by decide

/-- `running` meets the premise of the next cut-off's clause. -/
theorem witness_Legal : running.Legal where
  clock := by unfold Clock.legal; decide
  link := by unfold State.linkLegal; decide
  settings := by unfold State.settingsLegal; decide
  window := by decide
  samples := by decide
  lowTimer := by decide

/-- `running` meets the premises of the invariants, and its step answers a next state. -/
theorem witness_EveryStepKeeps :
    running.Legal ∧ running.titlesAgree ∧ running.WithinCapacity ∧ running.Orderly ∧ running.BatchesOrderly ∧ running.ContainersFit ∧
      step running = .next (tick running) :=
  ⟨witness_Legal, (by intro e he; cases he),
    ⟨by decide, by decide, by decide, by decide, by decide, by decide, by decide, by decide, by decide, by decide, by decide, by decide⟩,
    ⟨by decide, by decide, by decide, by decide, by decide, by decide⟩, ⟨by decide, by decide⟩, (by intro c hc; cases hc), rfl⟩

/-- States with something in each queue and table that the invariants speak of meet them too. -/
theorem witness_QueuesInOrder :
    (titled [surveyed (audio 7 1) [] 0, entry (audio 8 1) .ready 0] [audio 7 1] none).Orderly ∧
      ({ served [patron 30 .active none [], patron 31 .active none []] with eligibility := [31] } : State).Orderly ∧
      (posting [batch 1 15060 .open false, batch 2 14000 .closed false] []).BatchesOrderly ∧
      (posting [] [{ container 1 2 .open with items := [.cartridge 41, .cartridge 42] }]).ContainersFit :=
  ⟨⟨by decide, by decide, by decide, by decide, by decide, by decide⟩, ⟨by decide, by decide, by decide, by decide, by decide, by decide⟩,
    ⟨by decide, by decide⟩, (by unfold State.ContainersFit Container.fits; decide)⟩

/-- The check word of a state whose records are stamped, before a step that answers a next state. -/
theorem witness_EveryStepKeepsTheCheckWord : running.stamped.checked ∧ step running.stamped = .next (tick running.stamped) := ⟨rfl, rfl⟩

/-- R152: the minutes sorted, without repeats. -/
theorem test_cutoff_set :
    reply (exec (.cutoffSet 0 (bodyOf [(1, 3), (2, 930), (2, 660), (2, 930)])) running) = [0x00, 2, 0x94, 0x02, 0xA2, 0x03] ∧
      reply (exec (.cutoffSet 0 (bodyOf [(1, 1), (2, 1440)])) running) = [0x05] := by decide

/-- R155: at its cut-off the batch closes and the next one opens; a minute before, nothing. -/
theorem test_batch_cutoff :
    (nextOf (exec .batchCutoff (posting [batch 1 15000 .open false] [])) running).batches.map (fun b => (b.state, b.cutoff)) =
        [(BatchState.closed, 15000), (BatchState.open, 15060)] ∧
      (nextOf (exec .batchCutoff (posting [batch 1 15001 .open false] [])) running).batches.map (·.state) = [.open] := by decide

/-- A closed batch 1 with one pouch of shipment 5, which carries cartridge 41. -/
def releasing : State :=
  { served [{ patron 30 .active (some 5) [item 7 .audio .inShipment] with commCarts := 1 }] with
    batches := [{ batch 1 14000 .closed false with count := 1 }]
    containers := [⟨2, 5, .pouch, 1, 1, [.cartridge 41], .batched, some 1, 0, none, some 4, true⟩]
    shipments := [{ shipment .sealed [⟨8, 1, some 41⟩] [] 0 with containers := [⟨2, false⟩] }]
    jobs := [job 8 .done none]
    cartridges := [{ cart 41 .packed with shipment := some 5, job := some 8, content := [⟨audio 7 1, 0, 3⟩] }] }

theorem witness_BatchReleaseSendsOut :
    State.reset.clock.set = false ∧ (∀ b ∈ running.batches, b.number ≠ 1) ∧ (releasing.batches.find? (fun b => b.number = 1)).map (·.state) = some .closed ∧
      ((posting [batch 1 15060 .open false] []).batches.find? (fun b => b.number = 1)).map (·.state) = some .open ∧ releasing.loans.length + 1 ≤ 49152 ∧
      49152 < (List.replicate 49152 (loan (.cartridge 42) 9 false)).length + 1 ∧ (findShipment releasing 5).map (·.number) = some 5 ∧
      (findCopy (packing []) 3).map (fun c => (c.patron, c.shipment)) = some (some 30, some 5) :=
  ⟨rfl, by decide, by decide, by decide, by decide, by rw [List.length_replicate]; decide, by decide, by decide⟩

/-- R158: a copy of two scanned volumes goes out with the batch that holds both, not while one lies elsewhere, and not with a volume unscanned. -/
theorem test_copy_goes_out :
    let box := fun (n : Nat) (batch : Option Nat) (items : List Item) => { container n 8 .batched with batch := batch, items := items }
    let s := fun (marks : List Bool) (boxes : List Container) => { packing boxes with copies := [{ copy 3 7 .packed with marks := marks }] }
    goesOut (s [true, true] [box 1 (some 1) [.volume 3 1], box 2 (some 1) [.volume 3 2]]) 1 3 = true ∧
      goesOut (s [true, true] [box 1 (some 1) [.volume 3 1], box 2 (some 2) [.volume 3 2]]) 1 3 = false ∧
      goesOut (s [true, false] [box 1 (some 1) [.volume 3 1]]) 1 3 = false := by decide

/-- R158, R159: one container, one loan, one item struck, one shipment freed; the loan is due 42 days on. -/
theorem test_batch_release :
    reply (exec (.batchRelease 0 (bodyOf [(2, 1)])) releasing) = [0x00, 1, 0, 1, 0, 1, 0, 1, 0] ∧
      (nextOf (exec (.batchRelease 0 (bodyOf [(2, 1)])) releasing) running).loans = [⟨.cartridge 41, 30, 5, 10, 52, false⟩] ∧
      (nextOf (exec (.batchRelease 0 (bodyOf [(2, 1)])) releasing) running).shipments = [] := by decide

/-- `releasing` with shipment 5 still PACKING: cartridge 42, on job 9, lies in OPEN container 3, which has a pack deadline. -/
def releasingPart : State :=
  { releasing with
    containers := releasing.containers ++ [{ container 3 1 .open with seq := 2, items := [.cartridge 42], deadline := some 15030 }]
    shipments := [{ shipment .packing [⟨8, 1, some 41⟩, ⟨9, 2, some 42⟩] [] 1 with containers := [⟨2, false⟩, ⟨3, false⟩] }]
    jobs := [{ job 8 .done none with serial := some 41 }, { job 9 .done none with index := 2, serial := some 42 }]
    cartridges := releasing.cartridges ++ [{ cart 42 .packed with shipment := some 5, job := some 9 }] }

/-- R145: the shipment is ready to pack until the release makes cartridge 41 OUT; container 3 then has no pack deadline, and no timeout dissolves it. -/
theorem test_release_ends_the_deadline :
    let t := nextOf (exec (.batchRelease 0 (bodyOf [(2, 1)])) releasingPart) running
    releasingPart.shipments.map (readyToPack releasingPart) = [true] ∧ t.shipments.map (readyToPack t) = [false] ∧
      t.containers.map (fun c => (c.number, c.deadline)) = [(3, none)] ∧
      (nextOf (exec (.packTimeout 3) { t with clock := ⟨20, 0, true⟩ }) running).containers.map (·.number) = [3] := by decide

/-- R144, R108: a cartridge that has gone into another shipment does not make this one ready to pack. -/
theorem test_ready_by_its_own_cartridge :
    let s := { releasingPart with cartridges := releasingPart.cartridges.map fun c : Cartridge => if c.serial = 41 then { c with shipment := some 6 } else c }
    s.shipments.map (readyToPack s) = [false] := by decide

/-! ## Witnesses: returns, recall filters, queries -/

/-- 9.4: slots 2, 5 and 7; cartridge 8,400,101 with its loan, of patron 41,520; the clock at day 460. -/
def returning : State :=
  { served [{ patron 41520 .overdueHold none [] with commCarts := 2, commCopies := 1, overdue := 4 }] with
    clock := ⟨460, 600, true⟩
    cartridges := [{ cart 8400101 .out with content := [⟨⟨72300, .ebraille, 1⟩, 0, 3⟩], dupDay := some 414, wear := 37 },
      { cart 8402600 .out with content := [⟨⟨61007, .audio, 3⟩, 0, 3⟩], dupDay := some 420 }]
    loans := [⟨.cartridge 8400101, 41520, 5, 415, 457, true⟩, ⟨.cartridge 8402600, 41520, 5, 428, 470, false⟩]
    slots := ((State.reset.slots.set 2 ⟨true, 61007, 1, 3, 0, .withdraw, 0⟩).set 5 ⟨true, 0, 2, 0, 430, .count, 0⟩).set 7 ⟨true, 58000, 0, 0, 0, .quarantine, 0⟩ }

/-- RETURN SCAN and LOAN WRITE OFF: refused in each way, unknown, not out, a loan late, a cartridge recalled; the damaged flag 1 and 2. -/
theorem witness_ReturnsCloseLoans :
    State.reset.clock.set = false ∧ returning.clock.set = true ∧ ¬((1 ≠ 1 ∧ 1 ≠ 2) ∨ 8400101 = 0 ∨ ((1 : Nat) = 2 ∧ 16777215 < 8400101) ∨ 1 < 1) ∧ 1 < 2 ∧
      findCart returning 9999999 = none ∧ (findCart returning 8400101).isSome = true ∧
      findLoan returning (.cartridge 8400101) = some ⟨.cartridge 8400101, 41520, 5, 415, 457, true⟩ ∧ findLoan running (.cartridge 41) = none ∧
      (findCart { running with cartridges := [cart 41 .returned] } 41).isSome = true ∧ findCopy running 3 = none ∧
      findLoan { running with loans := [loan (.copy 3) 9 false] } (.copy 3) = some (loan (.copy 3) 9 false) := by decide

/-- 9.4, scan 1: LATE by 3 days; 45 loan days; the patron keeps 1 cartridge and 3 overdue loans; slot 5 counts a match. -/
theorem test_return_scan_1 :
    let t := nextOf (exec (.returnScan 0 (bodyOf [(1, 1), (4, 8400101), (1, 0)])) returning) running
    (t.counters.late, t.counters.lateDays, t.counters.loanDays) = (1, 3, 45) ∧ t.patrons.map (fun p => (p.commCarts, p.overdue, p.state)) = [(1, 3, PatronState.overdueHold)] ∧
      t.slots[5].hits = 1 ∧ t.cartridges.map (·.state) = [CartState.returned, .out] := by decide

/-- 9.4, scan 2: RECALLED whatever the damaged flag; the cartridge is WITHDRAWN, slot 2 counts a match, slots 5 and 7 do not. -/
theorem test_return_scan_2 :
    let t := nextOf (exec (.returnScan 0 (bodyOf [(1, 1), (4, 8402600), (1, 1)])) returning) running
    t.counters.recalled = 1 ∧ t.cartridges.map (·.state) = [CartState.out, .withdrawn] ∧ (t.slots[2].hits, t.slots[5].hits, t.slots[7].hits) = (1, 0, 0) := by decide

/-- RECALL SET at its bounds: slot 15 and 16; a slot whose fields are all 0, and one with a day alone. -/
theorem witness_RecallFiltersAndCounters :
    (15 : Fin 16).val = 15 ∧ 15 < 16 ∧ (16 : Nat) ≠ 255 ∧ actionCode .withdraw = 3 ∧ slotMatches ⟨41, .s, .out, none, none, none, none, [⟨audio 7 1, 0, 3⟩], some 5, 0, 0⟩ ⟨true, 0, 0, 0, 5, .count, 0⟩ = true ∧
      canServe ⟨0x5C, 0, []⟩ running = true := by decide

/-- R176, R177: an all-zero filter and slot 16 are RANGE; slot 255 clears every slot. -/
theorem test_recall_requests :
    reply (exec (.recallSet 0 (bodyOf [(1, 15), (1, 1), (3, 0), (1, 0), (1, 0), (2, 0), (1, 1)])) running) = [0x05] ∧
      reply (exec (.recallSet 0 (bodyOf [(1, 15), (1, 1), (3, 0), (1, 0), (1, 0), (2, 9), (1, 1)])) running) = [0x00] ∧
      reply (exec (.recallClear 0 (bodyOf [(1, 16)])) running) = [0x05] ∧ reply (exec (.recallClear 0 (bodyOf [(1, 255)])) running) = [0x00] := by decide

/-- The records that the queries name, present and absent; start 3 of a title of 3 blocks, and start 2; forms 0 and 3; bays 23, 24 and 254. -/
theorem witness_RecordQueries :
    (titled [entry (audio 7 1) .ready 0] [] none).titles.find? (fun e => e.key.title = 7 ∧ e.key.medium = .audio ∧ e.state = .ready) = some (entry (audio 7 1) .ready 0) ∧
      findTitle running (audio 7 1) = none ∧ (entry (audio 7 1) .ready 0).size ≤ 3 ∧ 2 < (entry (audio 7 1) .ready 0).size ∧ findPatron running 30 = none ∧
      (findPatron releasing 30).isSome = true ∧ (findShipment releasing 5).isSome = true ∧ findShipment running 5 = none ∧ (findJob releasing 8).isSome = true ∧
      findJob running 8 = none ∧ 24 ≤ 24 ∧ 254 < 255 ∧ (23 : BayId).val = 23 ∧ (findCart releasing 41).isSome = true ∧ findCart running 41 = none ∧ (3 ≠ 1 ∧ 3 ≠ 2 ∧ 3 ≠ 0) ∧
      (findContainer releasing 2).isSome = true ∧ findContainer running 2 = none ∧ findLoan running (.cartridge 41) = none ∧
      (findLoan returning (.cartridge 8400101)).isSome = true := by decide

theorem witness_ListQueries :
    (findPatron releasing 30).isSome = true ∧ findPatron running 30 = none ∧ 0 < 999999 ∧ 999999 < 1000000 ∧ mediumCode .ebraille = 2 ∧
      (findShipment releasing 5).isSome = true ∧ findShipment running 5 = none ∧ (∀ b ∈ running.batches, b.number ≠ 1) ∧
      (releasing.batches.find? (fun b => b.number = 1)).isSome = true ∧ canServe ⟨0x5B, 0, []⟩ running = true := by decide

/-- Records whose fields the replies carry: found by what they name, a shipment without and with its patron, a slot that matches first. -/
theorem witness_RepliesCarryTheirFields :
    (findShipment releasing 5).isSome = true ∧ (findPatron releasing 30).isSome = true ∧ (findContainer releasing 2).map (·.number) = some 2 ∧
      (findCopy (packing []) 3).map (·.id) = some 3 ∧ (packMarks [0, 2] 0 3)[2 / 8]? = some 5 ∧
      strongestAction running (cart 41 .out) = none ∧
      (findCart returning 8400101).bind (strongestAction returning) = some .count ∧
      (findCart returning 8400101).map (fun c => (slotMatches c returning.slots[5], slotMatches c returning.slots[4])) = some (true, false) ∧
      (loan (.cartridge 41) 9 true).overdue = true ∧ (loan (.cartridge 41) 9 true).due ≤ running.clock.day ∧ (loan (.cartridge 41) 9 false).overdue = false := by decide

/-- 10.5: the 18 bytes of the reply to an accepted scan of a volume, and the three of a refusal. -/
theorem test_pack_reply :
    reply (exec (.packScan 0 (bodyOf [(1, 2), (3, 3), (1, 1)])) (packing [])) = [0x00, 5, 0, 7, 0, 1, 0, 1, 2, 8, 0, 0xFF, 0xFF, 0xFF, 0xFF, 0, 0, 2] ∧
      reply (exec (.packScan 0 (bodyOf [(1, 1), (4, 41)])) { running with cartridges := [cart 41 .returned] }) = [0x09, 0x01, 6] := by decide

/-- R164: the table, with day 10, minute 600, clock set, two cut-offs, no waiting container and no batch; R95: bay 24 is RANGE. -/
theorem test_queries :
    reply (exec (.batchQueryTable 0 (bodyOf [(2, 0), (2, 0)])) running) = [0x00, 10, 0, 0x58, 0x02, 1, 2, 0x94, 0x02, 0xA2, 0x03, 0, 0, 0] ∧
      reply (exec (.bayQuery 0 (bodyOf [(1, 24)])) running) = [0x05] ∧ reply (exec (.patronQuery 0 (bodyOf [(3, 30)])) running) = [0x02] := by decide

end Sys2Proof.Tests
end

section
/-! SUPPORT. Every command, and so every step, preserves what `Preserves` names; the reset state has it all (R1 to R190). -/

namespace Sys2Proof.Machine

/-! ## The queries leave the state as it is -/

theorem titleQuery_state (title medium edition start : Nat) (s : State) : (titleQueryRule title medium edition start s).1 = s := by
  unfold titleQueryRule
  repeat' split
  all_goals rfl

theorem patronQuery_state (n : Nat) (s : State) : (patronQueryRule n s).1 = s := by
  unfold patronQueryRule
  repeat' split
  all_goals rfl

theorem listQuery_state (n : Nat) (s : State) : (listQueryRule n s).1 = s := by
  unfold listQueryRule
  repeat' split
  all_goals rfl

theorem holdQueue_state (form title start : Nat) (s : State) : (holdQueueRule form title start s).1 = s := by
  unfold holdQueueRule
  repeat' split
  all_goals rfl

theorem holdCopies_state (title start : Nat) (s : State) : (holdCopiesRule title start s).1 = s := by
  unfold holdCopiesRule
  repeat' split
  all_goals rfl

theorem shipmentQuery_state (n : Nat) (s : State) : (shipmentQueryRule n s).1 = s := by
  unfold shipmentQueryRule
  repeat' split
  all_goals rfl

theorem jobQuery_state (n : Nat) (s : State) : (jobQueryRule n s).1 = s := by
  unfold jobQueryRule
  repeat' split
  all_goals rfl

theorem bayQuery_state (bay : Nat) (s : State) : (bayQueryRule bay s).1 = s := by
  unfold bayQueryRule
  repeat' split
  all_goals rfl

theorem cartridgeRecord_state (form serial : Nat) (s : State) : (cartridgeRecordRule form serial s).1 = s := by
  unfold cartridgeRecordRule
  repeat' split
  all_goals rfl

theorem cartridgeSearch_state (title medium edition start : Nat) (s : State) : (cartridgeSearchRule title medium edition start s).1 = s := by
  unfold cartridgeSearchRule
  repeat' split
  all_goals rfl

theorem containerQuery_state (n : Nat) (s : State) : (containerQueryRule n s).1 = s := by
  unfold containerQueryRule
  repeat' split
  all_goals rfl

theorem containerList_state (shipment : Nat) (s : State) : (containerListRule shipment s).1 = s := by
  unfold containerListRule
  repeat' split
  all_goals rfl

theorem batchQuery_state (batch start : Nat) (s : State) : (batchQueryRule batch start s).1 = s := by
  unfold batchQueryRule
  repeat' split
  all_goals rfl

theorem loanItem_state (form kind item : Nat) (s : State) : (loanItemRule form kind item s).1 = s := by
  unfold loanItemRule
  repeat' split
  all_goals rfl

theorem loanPatron_state (n start : Nat) (s : State) : (loanPatronRule n start s).1 = s := by
  unfold loanPatronRule
  repeat' split
  all_goals rfl

/-- A rule that leaves the state as it is preserves everything. -/
theorem preserves_query {rule : State → Answer} {s : State} (h : (rule s).1 = s) : Preserves s (rule s).1 := by
  rw [h]
  exact .refl s

/-! ## The samples that change the supply (R97) -/

theorem preserves_supplyLow (mv : Nat) (s : State) :
    Preserves s (if secondAgainst .normal mv s then becomeLow s else s) := by
  split
  · exact preserves_becomeLow s
  · exact .refl s

theorem preserves_supplyNormal (mv : Nat) (s : State) :
    Preserves s (if secondAgainst .low mv s then becomeNormal s else s) := by
  split
  · exact preserves_becomeNormal s
  · exact .refl s

/-! ## Every command -/

/-- Every command answers a next state, and preserves what `Preserves` names. -/
theorem preserves_exec (c : Instr) (s : State) : ∃ t, exec c s = .next t ∧ Preserves s t := by
  cases c with
  | clockSet tag body => exact preserves_serve _ _ _ s (preserves_clockSet _ _ s)
  | cutoffSet tag body => exact preserves_serve _ _ _ s (preserves_cutoffSet _ s)
  | loanPeriodSet tag body => exact preserves_serve _ _ _ s (preserves_loanPeriod _ _ s)
  | supplyLevelSet tag body => exact preserves_serve _ _ _ s (preserves_supplyLevel _ s)
  | selectionHold tag body => exact preserves_serve _ _ _ s (preserves_setSelection _ s)
  | selectionRelease tag body => exact preserves_serve _ _ _ s (preserves_setSelection _ s)
  | titleEnter tag body => exact preserves_serve _ _ _ s (preserves_titleEnter _ s)
  | titleRemove tag body => exact preserves_serve _ _ _ s (keeps_titleRemove _ _ _ s).preserves
  | titleQuery tag body => exact preserves_serve _ _ _ s (preserves_query (titleQuery_state _ _ _ _ s))
  | patronEnter tag body => exact preserves_serve _ _ _ s (keeps_patronEnter _ _ _ _ _ _ s).preserves
  | patronRemove tag body => exact preserves_serve _ _ _ s (keeps_patronRemove _ s).preserves
  | patronSuspend tag body => exact preserves_serve _ _ _ s (keeps_patronSuspend _ s).preserves
  | patronResume tag body => exact preserves_serve _ _ _ s (keeps_patronResume _ s).preserves
  | patronQuery tag body => exact preserves_serve _ _ _ s (preserves_query (patronQuery_state _ s))
  | shipNow tag body => exact preserves_serve _ _ _ s (keeps_shipNow _ s).preserves
  | listAdd tag body => exact preserves_serve _ _ _ s (keeps_listAdd _ _ _ _ s).preserves
  | listDrop tag body => exact preserves_serve _ _ _ s (keeps_listDrop _ _ _ s).preserves
  | listQuery tag body => exact preserves_serve _ _ _ s (preserves_query (listQuery_state _ s))
  | copyEnter tag body => exact preserves_serve _ _ _ s (keeps_copyEnter _ _ _ s).preserves
  | copyWithdraw tag body => exact preserves_serve _ _ _ s (keeps_copyWithdraw _ s).preserves
  | holdQueryQueue tag body => exact preserves_serve _ _ _ s (preserves_query (holdQueue_state _ _ _ s))
  | holdQueryCopies tag body => exact preserves_serve _ _ _ s (preserves_query (holdCopies_state _ _ s))
  | pickList tag body => exact preserves_serve _ _ _ s (.refl s)
  | shipmentQuery tag body => exact preserves_serve _ _ _ s (preserves_query (shipmentQuery_state _ s))
  | shipmentCancel tag body => exact preserves_serve _ _ _ s (keeps_shipmentCancel _ s).preserves
  | jobQuery tag body => exact preserves_serve _ _ _ s (preserves_query (jobQuery_state _ s))
  | jobQueryQueue tag body => exact preserves_serve _ _ _ s (.refl s)
  | bayQuery tag body => exact preserves_serve _ _ _ s (preserves_query (bayQuery_state _ s))
  | bayQueryRack tag body => exact preserves_serve _ _ _ s (.refl s)
  | bayServiceOut tag body => exact preserves_serve _ _ _ s (keeps_serviceOut _ _ s).preserves
  | bayServiceIn tag body => exact preserves_serve _ _ _ s (keeps_serviceIn _ s).preserves
  | cartridgeQueryRecord tag body => exact preserves_serve _ _ _ s (preserves_query (cartridgeRecord_state _ _ s))
  | cartridgeQuerySummary tag body => exact preserves_serve _ _ _ s (.refl s)
  | cartridgeQuerySearch tag body => exact preserves_serve _ _ _ s (preserves_query (cartridgeSearch_state _ _ _ _ s))
  | cartridgeWithdraw tag body => exact preserves_serve _ _ _ s (keeps_cartridgeWithdraw _ s).preserves
  | packScan tag body => exact preserves_serve _ _ _ s (keeps_packScan _ _ _ _ s).preserves
  | containerQuery tag body => exact preserves_serve _ _ _ s (preserves_query (containerQuery_state _ s))
  | containerQueryShipment tag body => exact preserves_serve _ _ _ s (preserves_query (containerList_state _ s))
  | batchQuery tag body => exact preserves_serve _ _ _ s (preserves_query (batchQuery_state _ _ s))
  | batchQueryTable tag body => exact preserves_serve _ _ _ s (.refl s)
  | batchRelease tag body => exact preserves_serve _ _ _ s (keeps_batchRelease _ s).preserves
  | loanQueryItem tag body => exact preserves_serve _ _ _ s (preserves_query (loanItem_state _ _ _ s))
  | loanQueryPatron tag body => exact preserves_serve _ _ _ s (preserves_query (loanPatron_state _ _ s))
  | loanWriteOff tag body => exact preserves_serve _ _ _ s (keeps_loanWriteOff _ _ s).preserves
  | returnScan tag body => exact preserves_serve _ _ _ s (keeps_returnScan _ _ _ s).preserves
  | recallSet tag body => exact preserves_serve _ _ _ s (keeps_recallSet _ s).preserves
  | recallClear tag body => exact preserves_serve _ _ _ s (keeps_recallClear _ s).preserves
  | countersRead tag body => exact preserves_serve _ _ _ s (.refl s)
  | countersClear tag body => exact preserves_serve _ _ _ s (keeps_clearCounters s).preserves
  | summaryRead tag body => exact preserves_serve _ _ _ s (preserves_clearSummary s)
  | controllerReset tag body => exact preserves_serve _ _ _ s (preserves_controllerResetRequest s)
  | recordsClear tag body => exact preserves_serve _ _ _ s (preserves_recordsClear s)
  | unknownKind kind tag body => exact preserves_serve _ _ _ s (.refl s)
  | goodFrame kind tag body check => exact preserves_event _ s (preserves_receiveFrame _ _ s)
  | frameLengthDiscard length => exact preserves_event _ s (preserves_lengthTooLong _ s)
  | frameGapTimeout => exact preserves_event _ s (preserves_gapTooLong s)
  | frameSent => exact preserves_event _ s (preserves_frameSent s)
  | controllerResetTaken => exact preserves_event _ s (preserves_takeReset s)
  | resetLine => exact preserves_event _ s (preserves_controllerReset s)
  | powerUp found modules sensed => exact ⟨_, rfl, preserves_powerUp _ _ _ s⟩
  | mainPowerFall => exact ⟨_, rfl, preserves_power false⟩
  | windowStart => exact preserves_event _ s (preserves_startWindow s)
  | indexBlockRead result => exact preserves_event _ s (keeps_indexBlockDone _ s).preserves
  | titleBlockRead result => exact preserves_event _ s (keeps_titleBlockDone _ s).preserves
  | feedReadData data => exact preserves_event _ s (keeps_feedData _ s).preserves
  | feedMediaError => exact preserves_event _ s (keeps_feedError s).preserves
  | cartridgeInserted bay => exact preserves_event _ s (keeps_insertCartridge _ s).preserves
  | identityReadDone bay serial kind => exact preserves_event _ s (keeps_identityRead _ _ _ s).preserves
  | identificationTimeout bay => exact preserves_event _ s (keeps_identityLate _ s).preserves
  | cartridgeRemoved bay => exact preserves_event _ s (keeps_removeCartridge _ s).preserves
  | wipeComplete bay => exact preserves_event _ s (keeps_wipeDone _ s).preserves
  | wipeFailure bay => exact preserves_event _ s (keeps_wipeFailed _ s).preserves
  | wipeTimeout bay => exact preserves_event _ s (keeps_wipeLate _ s).preserves
  | fillBlockPassed bay => exact preserves_event _ s (keeps_passFill _ s).preserves
  | writeAcknowledged answered => exact preserves_event _ s (keeps_writeDone _ _ s).preserves
  | ackTimeout bay => exact preserves_event _ s (keeps_ackLate _ s).preserves
  | readBackDone bay data => exact preserves_event _ s (keeps_readBackData _ _ s).preserves
  | readBackTimeout bay => exact preserves_event _ s (keeps_readBackLate _ s).preserves
  | supplyLow millivolts => exact preserves_event _ s (preserves_supplyLow _ s)
  | supplyNormal millivolts => exact preserves_event _ s (preserves_supplyNormal _ s)
  | lowDurationTimeout => exact preserves_event _ s (preserves_lowTooLong s)
  | minuteAdvance => exact preserves_event _ s (preserves_advanceMinute s)
  | batchCutoff => exact preserves_event _ s (keeps_cutoffReached s).preserves
  | packTimeout container => exact preserves_event _ s (keeps_packTimeout _ s).preserves
  | selectionStep => exact preserves_event _ s (keeps_selectionStep s).preserves
  | supplySample millivolts => exact preserves_event _ s (preserves_sampleSupply _ s)
  | byteReceived byte => exact preserves_event _ s (preserves_receiveByte _ s)

/-! ## Every step -/

/-- What every command preserves, and the queue of commands does not touch, every step keeps. -/
theorem step_keeps {Inv : State → Prop} (keep : ∀ s t, Preserves s t → Inv s → Inv t)
    (queue : ∀ s rest, Inv s → Inv { s with pending := rest }) {s t : State} (h : Inv s) (hs : step s = .next t) : Inv t := by
  unfold step at hs
  split at hs
  · cases hs
    exact keep s _ (preserves_tick s) h
  · rename_i c rest _
    obtain ⟨u, hu, p⟩ := preserves_exec c { s with pending := rest }
    obtain rfl : u = t := by simpa [hu] using hs
    exact keep _ _ p (queue s rest h)

theorem Legal.queue {s : State} (rest : List Instr) (h : s.Legal) : ({ s with pending := rest } : State).Legal :=
  ⟨h.clock, h.link, h.settings, h.window, h.samples, h.lowTimer⟩

theorem WithinCapacity.queue {s : State} (rest : List Instr) (h : s.WithinCapacity) :
    ({ s with pending := rest } : State).WithinCapacity :=
  ⟨h.titles, h.patrons, h.shipments, h.cartridges, h.copies, h.holds, h.containers, h.batches, h.jobs, h.loans, h.lists, h.items⟩

/-- The eligibility queue, of patrons of the table, each once, is no longer than the table (R34). -/
theorem eligibility_length_le {s : State} (o : s.Orderly) : s.eligibility.length ≤ s.patrons.length := by
  simpa using (List.Nodup.subperm o.once o.eligible).length_le

/-- Settles O5. -/
theorem everyStepKeepsLegal : Obligations.EveryStepKeepsLegal := by
  unfold Obligations.EveryStepKeepsLegal
  exact fun _ _ => step_keeps (fun _ _ p => p.legal) fun _ rest => Legal.queue rest

/-- Settles O6. -/
theorem everyStepKeepsTitleCounts : Obligations.EveryStepKeepsTitleCounts := by
  unfold Obligations.EveryStepKeepsTitleCounts
  exact fun _ _ => step_keeps (fun _ _ p => p.titles) fun _ _ => id

/-- Settles O8. -/
theorem everyStepKeepsQueuesOrderly : Obligations.EveryStepKeepsQueuesOrderly := by
  unfold Obligations.EveryStepKeepsQueuesOrderly
  exact fun _ _ => step_keeps (fun _ _ p => p.order) fun _ _ => id

/-- Settles O7: the capacities are kept together with the order of the queues, which bounds the queues themselves. -/
theorem everyStepKeepsCapacities : Obligations.EveryStepKeepsCapacities := by
  unfold Obligations.EveryStepKeepsCapacities
  intro s t o w hs
  obtain ⟨o', w'⟩ : t.Orderly ∧ t.WithinCapacity :=
    step_keeps (Inv := fun s => s.Orderly ∧ s.WithinCapacity) (fun _ _ p h => ⟨p.order h.1, p.within h.1 h.2⟩)
      (fun _ rest h => ⟨h.1, WithinCapacity.queue rest h.2⟩) ⟨o, w⟩ hs
  exact ⟨w', o'.room, (eligibility_length_le o').trans w'.patrons⟩

/-! ## The reset state -/

theorem reset_legal : State.reset.Legal where
  clock := ⟨Nat.zero_le _, Nat.zero_le _, fun _ => ⟨rfl, rfl⟩⟩
  link := ⟨Nat.zero_le _, Nat.zero_le _, fun _ => rfl⟩
  settings := by simp [State.settingsLegal, State.reset]
  window := by decide
  samples := Nat.zero_le _
  lowTimer := Nat.zero_le _

theorem reset_records : State.reset.records = Records.empty := rfl

/-- Settles O4: every table of the reset state is empty, and its settings and counters are in their bounds. -/
theorem resetIsLegal : Obligations.ResetIsLegal := by
  unfold Obligations.ResetIsLegal
  refine ⟨reset_legal, ?_, ?_, ?_, ?_, ?_, ?_⟩
  · simp [State.titlesAgree, State.reset]
  · constructor <;> simp [State.reset, itemsUsed]
  · exact ⟨.nil, .nil, .nil, by simp [State.reset], .refl _, Nat.zero_le _⟩
  · exact ⟨.nil, Nat.zero_le _⟩
  · simp [State.ContainersFit, State.reset]
  · rw [State.checked, reset_records]
    rfl

end Sys2Proof.Machine
end

section
/-! SUPPORT. The two resets and RECORDS CLEAR (R189 to R191): what readiness checks and dissolutions read and show, what the blocks' reset
actions leave, and the three statements. -/

namespace Sys2Proof.Machine

/-! ## What readiness checks and dissolutions read -/

/-- The two states have the same shipments and goods, and, if `shown`, the same event flags. -/
structure Alike (shown : Prop) (s t : State) : Prop where
  shipments  : s.shipments = t.shipments
  jobs       : s.jobs = t.jobs
  cartridges : s.cartridges = t.cartridges
  copies     : s.copies = t.copies
  containers : s.containers = t.containers
  events     : shown → s.events = t.events

section
variable {shown : Prop} {s t : State}

theorem Alike.findShipment (h : Alike shown s t) (n : Nat) : findShipment s n = findShipment t n := by
  simp only [Machine.findShipment, h.shipments]

theorem Alike.allWritten (h : Alike shown s t) (sh : Shipment) : allWritten s sh = allWritten t sh := by
  have e : lineIn s (·.state == .written) = lineIn t (·.state == .written) := by
    funext l
    have hc : findCart s = findCart t := by
      funext n
      simp only [findCart, h.cartridges]
    simp only [lineIn, findJob, h.jobs, hc]
  simp only [Machine.allWritten, e]

theorem Alike.setEvent (h : Alike shown s t) (f : EventFlag) : Alike shown (setEvent f s) (setEvent f t) := by
  rw [setEvent_eq, setEvent_eq]
  exact ⟨h.shipments, h.jobs, h.cartridges, h.copies, h.containers, fun w => congrArg (Events.set · f) (h.events w)⟩

theorem Alike.updateShipment (h : Alike shown s t) (n : Nat) (f : Shipment → Shipment) :
    Alike shown (updateShipment n f s) (updateShipment n f t) :=
  ⟨congrArg (replace _ f) h.shipments, h.jobs, h.cartridges, h.copies, h.containers, h.events⟩

theorem Alike.updateCart (h : Alike shown s t) (n : Nat) (f : Cartridge → Cartridge) :
    Alike shown (updateCart n f s) (updateCart n f t) :=
  ⟨h.shipments, h.jobs, congrArg (replace _ f) h.cartridges, h.copies, h.containers, h.events⟩

theorem Alike.updateCopy (h : Alike shown s t) (n : Nat) (f : Copy → Copy) :
    Alike shown (updateCopy n f s) (updateCopy n f t) :=
  ⟨h.shipments, h.jobs, h.cartridges, congrArg (replace _ f) h.copies, h.containers, h.events⟩

theorem Alike.pickList (h : Alike shown s t) (x y : List Nat) :
    Alike shown { s with pickList := x } { t with pickList := y } :=
  ⟨h.shipments, h.jobs, h.cartridges, h.copies, h.containers, h.events⟩

theorem Alike.filterContainers (h : Alike shown s t) (keep : Container → Bool) :
    Alike shown { s with containers := s.containers.filter keep } { t with containers := t.containers.filter keep } :=
  ⟨h.shipments, h.jobs, h.cartridges, h.copies, congrArg (List.filter keep) h.containers, h.events⟩

theorem Alike.readyCheck (h : Alike shown s t) (n : Nat) : Alike shown (readyCheck n s) (readyCheck n t) := by
  unfold Machine.readyCheck
  rw [h.findShipment n]
  split
  · rw [h.allWritten]
    split
    · exact (h.updateShipment n _).setEvent _
    · exact h
  · exact h

theorem Alike.unpackItem (h : Alike shown s t) (i : Item) : Alike shown (unpackItem s i) (unpackItem t i) := by
  cases i with
  | cartridge serial => exact h.updateCart _ _
  | volume id volume =>
    have h' := h.updateCopy id (setMark volume false)
    have e : findCopy (Machine.updateCopy id (setMark volume false) s) id = findCopy (Machine.updateCopy id (setMark volume false) t) id := by
      simp only [findCopy, h'.copies]
    simp only [Machine.unpackItem, e]
    split
    · split
      · exact (h'.updateCopy _ _).pickList _ _
      · exact h'
    · exact h'

theorem Alike.afterDissolve (h : Alike shown s t) (n : Nat) : Alike shown (afterDissolve n s) (afterDissolve n t) := by
  unfold Machine.afterDissolve
  rw [h.findShipment n]
  split
  · rw [h.allWritten]
    split
    · split
      · exact (h.updateShipment n _).setEvent _
      · exact h.updateShipment n _
    · exact h
  · exact h

end

theorem Alike.foldl {α : Type} {shown : Prop} (f : State → α → State) (step : ∀ s t x, Alike shown s t → Alike shown (f s x) (f t x))
    (xs : List α) {s t : State} (h : Alike shown s t) : Alike shown (xs.foldl f s) (xs.foldl f t) := by
  induction xs generalizing s t with
  | nil => exact h
  | cons x xs ih => exact ih (step _ _ x h)

theorem Alike.dissolve {shown : Prop} {s t : State} (h : Alike shown s t) (c : Container) :
    Alike shown (dissolve c s) (dissolve c t) := by
  have h' := (Alike.foldl Machine.unpackItem (fun _ _ i k => k.unpackItem i) c.items h).updateShipment c.shipment fun x =>
    { x with toScan := x.toScan + c.items.length, containers := x.containers.filter (·.number != c.number) }
  exact (h'.filterContainers (·.number != c.number)).afterDissolve _

theorem containers_readyShipments (s : State) : (readyShipments s).containers = s.containers := by
  have go : ∀ (ns : List Nat) (t : State), (ns.foldl (fun t n => readyCheck n t) t).containers = t.containers := by
    intro ns
    induction ns with
    | nil => exact fun _ => rfl
    | cons n ns ih => exact fun t => (ih _).trans (containers_readyCheck n t)
  exact go _ s

/-- The readiness checks and then the dissolutions of `unpacked` are those of the blocks' reset actions (R64, R149). -/
theorem Alike.dissolveAll {shown : Prop} {s t : State} (h : Alike shown s t.converted) (hs : t.converted.shipments = t.shipments) :
    Alike shown (dissolveAll (readyShipments s)) t.unpacked := by
  have hr := Alike.foldl (fun t n => Machine.readyCheck n t) (fun _ _ n k => k.readyCheck n) (t.shipments.map (·.number)) h
  have hc : openContainers (readyShipments s) = t.containers.filter fun c => c.state = .open := by
    rw [openContainers, containers_readyShipments, h.containers]
    exact List.filter_congr fun c _ => beq_eq_decide c.state .open
  unfold Machine.dissolveAll State.unpacked
  rw [hc]
  refine Alike.foldl (fun t c => Machine.dissolve c t) (fun _ _ c k => k.dissolve c) _ ?_
  rw [readyShipments, h.shipments, hs]
  exact hr

/-! ## What readiness checks and dissolutions show -/

/-- RESET has been announced, and no event flag is set but it and perhaps SHIPMENT READY (R189, R149). -/
structure Announced (s : State) : Prop where
  latch  : s.latch = true
  tx     : s.tx = [attentionFrame]
  events : s.events = ⟨false, false, false, s.events.shipmentReady, false, false, false, false, false, true⟩

theorem Announced.setReady {s : State} (h : Announced s) : Announced (setEvent .shipmentReady s) := by
  obtain ⟨hl, ht, he⟩ := h
  rw [setEvent_eq]
  refine ⟨rfl, by simp [hl, ht], ?_⟩
  rw [he]
  rfl

/-- What the summary and the transmitter show, and nothing else. -/
theorem Announced.of_same {s t : State} (h : Announced s) (hl : t.latch = s.latch) (ht : t.tx = s.tx) (he : t.events = s.events) :
    Announced t := ⟨hl.trans h.latch, ht.trans h.tx, by rw [he]; exact h.events⟩

theorem Announced.readyCheck {s : State} (h : Announced s) (n : Nat) : Announced (readyCheck n s) := by
  unfold Machine.readyCheck
  split
  · split
    · exact (h.of_same rfl rfl rfl : Announced (updateShipment n _ s)).setReady
    · exact h
  · exact h

theorem Announced.unpackItem {s : State} (h : Announced s) (i : Item) : Announced (unpackItem s i) := by
  cases i with
  | cartridge serial => exact h.of_same rfl rfl rfl
  | volume id volume =>
    simp only [Machine.unpackItem]
    split
    · split <;> exact h.of_same rfl rfl rfl
    · exact h.of_same rfl rfl rfl

theorem Announced.foldl {α : Type} (f : State → α → State) (step : ∀ s x, Announced s → Announced (f s x)) (xs : List α) {s : State}
    (h : Announced s) : Announced (xs.foldl f s) := by
  induction xs generalizing s with
  | nil => exact h
  | cons x xs ih => exact ih (step _ x h)

theorem Announced.afterDissolve {s : State} (h : Announced s) (n : Nat) : Announced (afterDissolve n s) := by
  unfold Machine.afterDissolve
  split
  · split
    · split
      · exact (h.of_same rfl rfl rfl : Announced (updateShipment n _ s)).setReady
      · exact h.of_same rfl rfl rfl
    · exact h
  · exact h

theorem Announced.dissolve {s : State} (h : Announced s) (c : Container) : Announced (dissolve c s) := by
  have h' := Announced.foldl Machine.unpackItem (fun _ i k => k.unpackItem i) c.items h
  unfold Machine.dissolve
  dsimp only
  refine Announced.afterDissolve (h'.of_same ?_ ?_ ?_) _ <;> rfl

theorem Announced.dissolveAll {s : State} (h : Announced s) : Announced (dissolveAll s) :=
  Announced.foldl (fun t c => Machine.dissolve c t) (fun _ c k => k.dissolve c) _ h

theorem Announced.readyShipments {s : State} (h : Announced s) : Announced (readyShipments s) :=
  Announced.foldl (fun t n => Machine.readyCheck n t) (fun _ n k => k.readyCheck n) _ h

/-! ## The blocks' reset actions -/

/-- The blocks' actions up to the dissolutions: bays, jobs, registry, shipments, containers (log 30). -/
@[irreducible] def goodsReset (s : State) : State := dissolveAll (readyShipments (convertCarts (resetJobs (resetBays s))))

/-- What the blocks' later actions, and the last marks, make of the state that the dissolutions leave (log 30). -/
def unitsRestarted (s : State) : State :=
  { s with
    changed := Conditions.all
    titles := s.titles.map restartEntry
    surveyQueue := (sortBy (fun a b => decide (a.seq < b.seq)) (s.titles.filter (·.state == .surveying))).map (·.key)
    rotation := 23
    nextWindow := 0
    grant := none
    eligibility := (s.patrons.filter requeued).map (·.number)
    pickList := s.shipments.flatMap fun sh => sh.copyLines.filter (allocatedTo s sh.number)
    selection := .held
    supply := .normal
    supplyCount := 0
    lowTimer := 0
    abandoned := false
    slots := mapVector (fun f => { f with hits := 0 }) s.slots
    counters := Counters.zero
    bays := mapVector (fun x => if x.state = .empty ∧ x.present then beginIdentify x else x) s.bays }

theorem resetBlocks_eq (s : State) : markAll (resetBlocks s) = unitsRestarted (goodsReset s) := by
  simp only [goodsReset, resetBlocks, markAll, identifyPresent, resetUnits, clearCounters, clearHits, rebuildEligibility, resetPort,
    restartSurveys, rebuildPickList, unitsRestarted]

theorem beside_goodsReset (s : State) : beside (goodsReset s) = beside (convertCarts (resetJobs (resetBays s))) := by
  unfold goodsReset
  exact (beside_dissolveAll _).trans (beside_readyShipments _)

/-- What the actions up to the dissolutions leave of the tables they do not dissolve. -/
theorem tables_goodsReset (s : State) :
    (goodsReset s).patrons = s.patrons ∧ (goodsReset s).loans = s.loans ∧ (goodsReset s).holds = s.holds
      ∧ (goodsReset s).batches = s.batches ∧ (goodsReset s).jobs = s.jobs.map resetJob
      ∧ (goodsReset s).bays = mapVector resetBay s.bays ∧ (goodsReset s).titles = s.titles ∧ (goodsReset s).slots = s.slots
      ∧ (goodsReset s).bayMask = s.bayMask := by
  have h := beside_goodsReset s
  simp only [beside, Prod.mk.injEq] at h
  obtain ⟨⟨h1, h2, h3, h4, h5, h6, h7, -, -⟩, -, ⟨h8, -, -, -, -, -, h9⟩, -⟩ := h
  exact ⟨h1, h2, h3, h4, h5, h6, h7, h8, h9⟩

theorem counters_goodsReset (s : State) :
    (goodsReset s).entrySeq = s.entrySeq ∧ (goodsReset s).shipmentCounter = s.shipmentCounter
      ∧ (goodsReset s).jobCounter = s.jobCounter ∧ (goodsReset s).batchCounter = s.batchCounter
      ∧ (goodsReset s).containerCounter = s.containerCounter ∧ (goodsReset s).sealCounter = s.sealCounter := by
  have h := beside_goodsReset s
  simp only [beside, Prod.mk.injEq] at h
  exact h.2.1

theorem ambient_goodsReset (s : State) :
    (goodsReset s).power = s.power ∧ (goodsReset s).rx = s.rx ∧ (goodsReset s).intake = s.intake
      ∧ (goodsReset s).resetStage = s.resetStage ∧ (goodsReset s).resetCause = s.resetCause
      ∧ (goodsReset s).linkErrors = s.linkErrors ∧ (goodsReset s).recordsLost = s.recordsLost ∧ (goodsReset s).clock = s.clock
      ∧ (goodsReset s).supplyLevel = s.supplyLevel ∧ (goodsReset s).cutoffs = s.cutoffs
      ∧ (goodsReset s).cartridgePeriod = s.cartridgePeriod ∧ (goodsReset s).copyPeriod = s.copyPeriod := by
  have h := beside_goodsReset s
  simp only [beside, Prod.mk.injEq, ambient, Ambient.mk.injEq] at h
  obtain ⟨-, -, -, -, h1, h2, h3, h4, h5, h6, h7, -, -, -, h8, -, -, -, -, h9, h10, h11, h12⟩ := h
  exact ⟨h1, h2, h3, h4, h5, h6, h7, h9, h8, h10, h11, h12⟩

theorem Announced.goodsReset {s : State} (h : Announced s) : Announced (goodsReset s) := by
  unfold Machine.goodsReset
  exact Announced.dissolveAll (Announced.readyShipments (h.of_same rfl rfl rfl))

theorem Alike.goodsReset {shown : Prop} {s t : State} (h : Alike shown (convertCarts (resetJobs (resetBays s))) t.converted) :
    Alike shown (goodsReset s) t.unpacked := by
  unfold Machine.goodsReset
  exact h.dissolveAll rfl

/-- What a record insertion sort by a number leaves is in ascending order of the number. -/
theorem insertBy_ascending {α : Type} (key : α → Nat) (x : α) {xs : List α} (h : xs.Pairwise fun a b => key a ≤ key b) :
    (insertBy (fun a b => decide (key a < key b)) x xs).Pairwise fun a b => key a ≤ key b := by
  induction xs with
  | nil => simp [insertBy]
  | cons y ys ih =>
    obtain ⟨hy, hys⟩ := List.pairwise_cons.1 h
    by_cases hxy : key x < key y
    · simp only [insertBy, hxy, decide_true, if_true]
      refine List.pairwise_cons.2 ⟨fun z hz => ?_, h⟩
      rcases List.mem_cons.1 hz with rfl | hz
      · exact hxy.le
      · exact hxy.le.trans (hy z hz)
    · simp only [insertBy, hxy, decide_false, Bool.false_eq_true, if_false]
      refine List.pairwise_cons.2 ⟨fun z hz => ?_, ih hys⟩
      rcases (mem_insertBy _ _ _ _).1 hz with rfl | hz
      · exact Nat.le_of_not_lt hxy
      · exact hy z hz

theorem sortBy_ascending {α : Type} (key : α → Nat) (xs : List α) :
    (sortBy (fun a b => decide (key a < key b)) xs).Pairwise fun a b => key a ≤ key b := by
  have go : ∀ (xs acc : List α), acc.Pairwise (fun a b => key a ≤ key b) →
      (xs.foldl (fun acc x => insertBy (fun a b => decide (key a < key b)) x acc) acc).Pairwise fun a b => key a ≤ key b := by
    intro xs
    induction xs with
    | nil => exact fun _ h => h
    | cons x xs ih => exact fun acc h => ih _ (insertBy_ascending key x h)
  exact go xs [] .nil

/-- R35 as the statements say it. -/
theorem requeued_iff (p : Patron) : requeued p = true ↔
    p.state = .active ∧ p.mode = .auto ∧ p.shipment = none ∧ ∃ i ∈ p.list, i.state = .reserved
      ∨ (i.state = .waiting ∧ if i.medium = .embossed then p.commCopies < p.embAllow else p.commCarts < p.cartAllow) := by
  have wants : ∀ i : ListItem, wantsSelection p i = true ↔ i.state = .reserved
      ∨ (i.state = .waiting ∧ if i.medium = .embossed then p.commCopies < p.embAllow else p.commCarts < p.cartAllow) := by
    intro i
    cases hm : i.medium <;> simp [wantsSelection, hm, embHeadroom, cartHeadroom]
  simp only [requeued, Bool.and_eq_true, beq_iff_eq, Option.isNone_iff_eq_none, List.any_eq_true, wants, and_assoc]

/-- R128 as the statements say it. -/
theorem allocatedTo_iff (s : State) (n id : Nat) :
    allocatedTo s n id = true ↔ (findCopy s id).map (fun c => (c.state, c.shipment)) = some (.allocated, some n) := by
  unfold allocatedTo
  cases findCopy s id <;> simp

/-! ## What a reset leaves -/

/-- LI has been reset, with this cause, and the part is under power (R189, steps 1 to 3). -/
structure LinkReset (cause : ResetCause) (s : State) : Prop where
  rx         : s.rx = .hunting
  intake     : s.intake = []
  stage      : s.resetStage = .none
  linkErrors : s.linkErrors = 0
  cause      : s.resetCause = cause
  bayMask    : s.bayMask = 0
  power      : s.power = true
  latch      : s.latch = true
  tx         : s.tx = [attentionFrame]
  events     : s.events = { Events.clear with reset := true }

theorem LinkReset.announced {cause : ResetCause} {s : State} (h : LinkReset cause s) : Announced s :=
  ⟨h.latch, h.tx, by rw [h.events]; rfl⟩

/-- After the blocks' reset actions, the last marks and the check word, the units have started again (R189). -/
theorem unitsReset_resetBlocks {cause : ResetCause} {r : State} (h : LinkReset cause r) :
    (markAll (resetBlocks r)).stamped.UnitsReset cause := by
  rw [resetBlocks_eq]
  obtain ⟨-, -, -, -, -, -, -, -, kmask⟩ := tables_goodsReset r
  obtain ⟨kpower, krx, kintake, kstage, kcause, kerrors, -⟩ := ambient_goodsReset r
  obtain ⟨hl, ht, he⟩ := h.announced.goodsReset
  constructor
  case link =>
    exact ⟨krx.trans h.rx, kintake.trans h.intake, ht, kstage.trans h.stage, kerrors.trans h.linkErrors⟩
  case summary =>
    exact ⟨he, kcause.trans h.cause, rfl, kmask.trans h.bayMask, hl⟩
  case power => exact kpower.trans h.power
  case port => exact ⟨rfl, rfl, rfl⟩
  case selection => rfl
  case supply => exact ⟨rfl, rfl, rfl, rfl⟩
  case counters => rfl
  case checked => rfl

/-- After a reset of LI that leaves the records as they were, the blocks' reset actions keep every table with what they make of it. -/
theorem keptThroughReset_resetBlocks {cause : ResetCause} {s r : State} (h : LinkReset cause r) (hr : r.records = s.records)
    (hslots : r.slots = s.slots) : KeptThroughReset s (markAll (resetBlocks r)).stamped := by
  rw [resetBlocks_eq]
  have htitles : r.titles = s.titles := congrArg Records.titles hr
  have hpatrons : r.patrons = s.patrons := congrArg Records.patrons hr
  have hshipments : r.shipments = s.shipments := congrArg Records.shipments hr
  have hcopies : r.copies = s.copies := congrArg Records.copies hr
  have hcontainers : r.containers = s.containers := congrArg Records.containers hr
  have hjobs : (convertCarts (resetJobs (resetBays r))).jobs = s.converted.jobs :=
    congrArg (List.map resetJob) (congrArg Records.jobs hr)
  have hcarts : (convertCarts (resetJobs (resetBays r))).cartridges = s.converted.cartridges :=
    congrArg (List.map convertCart) (congrArg Records.cartridges hr)
  obtain ⟨kpatrons, kloans, kholds, kbatches, kjobs, -, ktitles, kslots, -⟩ := tables_goodsReset r
  obtain ⟨kseq, kshipment, kjob, kbatch, kcontainer, kseal⟩ := counters_goodsReset r
  obtain ⟨-, -, -, -, -, -, -, -, klevel, kcutoffs, kcartridge, kcopy⟩ := ambient_goodsReset r
  have hD : Alike False (goodsReset r) s.unpacked :=
    Alike.goodsReset ⟨hshipments, hjobs, hcarts, hcopies, hcontainers, False.elim⟩
  have hE : Alike True (goodsReset r)
      (State.unpacked { s with events := ⟨false, false, false, false, false, false, false, false, false, true⟩ }) :=
    Alike.goodsReset ⟨hshipments, hjobs, hcarts, hcopies, hcontainers, fun _ => h.events⟩
  have hDt : (goodsReset r).titles = s.titles := ktitles.trans htitles
  have hDp : (goodsReset r).patrons = s.patrons := kpatrons.trans hpatrons
  have hDs : (goodsReset r).slots = s.slots := kslots.trans hslots
  constructor
  case tables =>
    exact ⟨hDp, kloans.trans (congrArg Records.loans hr),
      kholds.trans (congrArg Records.holds hr),
      kbatches.trans (congrArg Records.batches hr)⟩
  case settings =>
    exact ⟨kcutoffs.trans (congrArg Records.cutoffs hr),
      kcartridge.trans (congrArg Records.cartridgePeriod hr),
      kcopy.trans (congrArg Records.copyPeriod hr),
      klevel.trans (congrArg Records.supplyLevel hr)⟩
  case numbers =>
    exact ⟨kseq.trans (congrArg Records.entrySeq hr),
      kshipment.trans (congrArg Records.shipmentCounter hr),
      kjob.trans (congrArg Records.jobCounter hr),
      kcontainer.trans (congrArg Records.containerCounter hr),
      kseal.trans (congrArg Records.sealCounter hr),
      kbatch.trans (congrArg Records.batchCounter hr)⟩
  case titles => exact congrArg (List.map restartEntry) hDt
  case surveys =>
    refine ⟨_, ?_, sortBy_ascending TitleEntry.seq _, rfl⟩
    refine (sortBy_perm _ _).trans (.of_eq ?_)
    show (goodsReset r).titles.filter _ = _
    rw [hDt]
    exact List.filter_congr fun e _ => beq_eq_decide e.state .surveying
  case eligibility =>
    show ((goodsReset r).patrons.filter requeued).map _ = _
    rw [hDp]
    congr 1
    exact List.filter_congr fun p _ => by rw [Bool.eq_iff_iff, requeued_iff, decide_eq_true_iff]
  case jobs => exact kjobs.trans hjobs
  case registry => exact hD.cartridges
  case copies => exact hD.copies
  case shipments => exact hD.shipments
  case containers => exact hD.containers
  case events => exact hE.events trivial
  case noneOpen =>
    show ∀ c ∈ (goodsReset r).containers, _
    unfold goodsReset
    exact dissolveAll_none_open _
  case pickList =>
    show List.flatMap _ _ = List.flatMap _ _
    congr 1
    funext sh
    exact List.filter_congr fun id _ => by rw [Bool.eq_iff_iff, allocatedTo_iff, decide_eq_true_iff]; rfl
  case slots =>
    intro i
    show (mapVector _ (goodsReset r).slots)[i.val] = _
    rw [getElem_mapVector, hDs]
    rfl

/-- A bay after the blocks' reset actions: reset, and identifying the cartridge it senses (R96). -/
theorem getBay_resetBlocks (r : State) (b : BayId) :
    getBay (markAll (resetBlocks r)).stamped b =
      if (resetBay (getBay r b)).state = .empty ∧ (resetBay (getBay r b)).present then beginIdentify (resetBay (getBay r b))
      else resetBay (getBay r b) := by
  rw [resetBlocks_eq]
  obtain ⟨-, -, -, -, -, hbays, -⟩ := tables_goodsReset r
  show (mapVector _ (goodsReset r).bays)[b.val] = _
  rw [getElem_mapVector, hbays, getElem_mapVector]
  rfl

/-! ## The controller reset -/

theorem linkReset_resetLink (cause : ResetCause) {s : State} (h : s.power = true) : LinkReset cause (resetLink cause s) :=
  ⟨rfl, rfl, rfl, rfl, rfl, rfl, h, rfl, rfl, rfl⟩

/-- Settles O13: what `controllerReset` leaves, stamped. -/
theorem controllerResetActions : Obligations.ControllerResetActions := by
  unfold Obligations.ControllerResetActions
  intro s hp
  have hlink := linkReset_resetLink .controller hp
  obtain ⟨-, -, -, -, -, -, klost, kclock, -⟩ := ambient_goodsReset (resetLink .controller s)
  refine ⟨fun hd => ?_, (controllerReset s).stamped, event_powered _ hp, fun hd => ?_, unitsReset_resetBlocks hlink,
    keptThroughReset_resetBlocks hlink rfl rfl, ?_, ?_, fun b => ?_⟩
  · refine (event_powered _ hp).trans ?_
    rw [takeReset, if_neg hd]
  · refine (event_powered _ hp).trans ?_
    rw [takeReset, if_pos hd]
  · rw [controllerReset, resetBlocks_eq]
    exact kclock
  · rw [controllerReset, resetBlocks_eq]
    exact klost
  · have hb := getBay_resetBlocks (resetLink .controller s) b
    have hsame : getBay (resetLink .controller s) b = getBay s b := rfl
    rw [hsame] at hb
    refine ⟨fun h => hb.trans ?_, fun h hs => hb.trans ?_, fun h hs => hb.trans ?_⟩
    · simp [resetBay, h]
    · simp [resetBay, h, hs, Bay.reset, beginIdentify]
    · simp [resetBay, h, hs, Bay.reset]

/-! ## Power-up -/

/-- What the check of the records and the sensing of modules leave before the blocks' reset actions at a power-up. -/
def poweredUp (found : Option Nat) (modules sensed : BitVec 24) (s : State) : State :=
  stopClock (senseModules modules sensed (resetLink .power (checkRecords found { s with power := true })))

theorem checkRecords_power (found : Option Nat) (s : State) : (checkRecords found s).power = s.power := by
  unfold checkRecords
  split <;> rfl

theorem linkReset_poweredUp (found : Option Nat) (modules sensed : BitVec 24) (s : State) :
    LinkReset .power (poweredUp found modules sensed s) :=
  ⟨rfl, rfl, rfl, rfl, rfl, rfl, checkRecords_power _ _, rfl, rfl, rfl⟩

/-- Records whose check word agrees are kept (R190). -/
theorem poweredUp_agreeing {found : Option Nat} {s : State} (modules sensed : BitVec 24) (h : found.getD s.checkWord = recomputed s) :
    poweredUp found modules sensed s =
      stopClock (senseModules modules sensed (resetLink .power { s with power := true, recordsLost := false })) := by
  have h' : recomputed { s with power := true } = found.getD s.checkWord := h.symm
  rw [poweredUp, checkRecords, if_pos h']

/-- Records whose check word differs are emptied (R190). -/
theorem poweredUp_differing {found : Option Nat} {s : State} (modules sensed : BitVec 24) (h : found.getD s.checkWord ≠ recomputed s) :
    poweredUp found modules sensed s =
      stopClock (senseModules modules sensed
        (resetLink .power { emptyRecords { s with power := true } with recordsLost := true })) := by
  have h' : recomputed { s with power := true } ≠ found.getD s.checkWord := h.symm
  rw [poweredUp, checkRecords, if_neg h']

theorem getBay_poweredUp (found : Option Nat) (modules sensed : BitVec 24) (s : State) (b : BayId) :
    getBay (poweredUp found modules sensed s) b = senseBay modules sensed b.val := by
  simp [getBay, poweredUp, stopClock, senseModules]

/-- Settles O12: the state after a power-up is what the blocks' reset actions make of the records, kept or emptied. -/
theorem powerUpChecksTheRecords : Obligations.PowerUpChecksTheRecords := by
  unfold Obligations.PowerUpChecksTheRecords
  intro s found modules sensed
  have hlink := linkReset_poweredUp found modules sensed s
  obtain ⟨-, -, -, -, -, -, klost, kclock, -⟩ := ambient_goodsReset (poweredUp found modules sensed s)
  refine ⟨(markAll (resetBlocks (poweredUp found modules sensed s))).stamped, rfl, unitsReset_resetBlocks hlink,
    ?_, fun h => ⟨?_, ?_⟩, fun h => ?_, fun b => ?_⟩
  · rw [resetBlocks_eq]
    exact kclock
  · have lost : (poweredUp found modules sensed s).recordsLost = false := by
      rw [poweredUp_agreeing modules sensed h]
      rfl
    rw [resetBlocks_eq]
    exact klost.trans lost
  · refine keptThroughReset_resetBlocks hlink ?_ ?_ <;> rw [poweredUp_agreeing modules sensed h] <;> rfl
  · rw [poweredUp_differing modules sensed h, resetBlocks_empty rfl rfl]
    simp only [stopClock, senseModules, resetLink, emptyRecords, resetBays, resetJobs, convertCarts, rebuildPickList, restartSurveys,
      resetPort, rebuildEligibility, resetUnits, clearCounters, clearHits, identifyPresent, markAll, State.stamped, State.reset,
      State.mk.injEq, List.map_nil, List.filter_nil, List.flatMap_nil, sortBy, List.foldl_nil, true_and, and_true]
    exact ⟨rfl, rfl⟩
  · have hb := getBay_resetBlocks (poweredUp found modules sensed s) b
    rw [getBay_poweredUp] at hb
    refine ⟨fun h => hb.trans ?_, fun h hs => hb.trans ?_, fun h hs => hb.trans ?_⟩
    · simp only [senseBay, h, Bool.false_eq_true, if_false]
      rfl
    · simp only [senseBay, h, hs, if_true]
      rfl
    · simp only [senseBay, h, hs, if_true]
      rfl

/-! ## RECORDS CLEAR -/

theorem mem_bayIds (b : BayId) : b ∈ bayIds := by
  revert b
  decide

theorem baysIdle_iff (s : State) : baysIdle s = true ↔
    ∀ b, (getBay s b).state = .empty ∨ (getBay s b).state = .absent ∨ (getBay s b).state = .outOfService := by
  simp [baysIdle, mem_bayIds, or_assoc]

theorem clearRecordsLost_eq (t : State) :
    clearRecordsLost t = if t.recordsLost then { t with recordsLost := false }.noted .recordsLost else t := by
  unfold clearRecordsLost
  simp only [markChanged_noted]

/-- Settles O15: BUSY while a bay is at work, the emptied records otherwise. -/
theorem recordsClearEmptiesTheTables : Obligations.RecordsClearEmptiesTheTables := by
  unfold Obligations.RecordsClearEmptiesTheTables
  intro s tag hs
  have served : exec (.recordsClear tag []) s = .next ((recordsClearRule s).1.replied 0xE2 tag (recordsClearRule s).2) :=
    serve_reply recordsClearRule rfl hs rfl rfl
  refine ⟨fun ⟨b, h1, h2, h3⟩ => ?_, fun h => ?_⟩
  · have busy : baysIdle s = false := by
      rw [← Bool.not_eq_true, baysIdle_iff]
      exact fun h => by rcases h b with h | h | h <;> contradiction
    rw [served, recordsClearRule, busy]
    rfl
  · refine ⟨{ orphanGrant (emptyRecords s) with surveyQueue := [], eligibility := [], pickList := [], counters := Counters.zero },
      clearRecords s, ?_, clearRecordsLost_eq _, ?_⟩
    · rw [served, recordsClearRule, (baysIdle_iff s).2 h]
      rfl
    · refine ⟨rfl, rfl, rfl, rfl, rfl, rfl, rfl, rfl, rfl, rfl, rfl, rfl, rfl, rfl, rfl, rfl, rfl, rfl, rfl, rfl, rfl, rfl,
        rfl, rfl, ?_, rfl, rfl⟩
      intro f hf
      have : f ∈ (Vector.replicate 16 RecallSlot.empty).toList := hf
      simpa [RecallSlot.empty] using this

end Sys2Proof.Machine
end

section
/-! SUPPORT. The title table and the survey (R1 to R18): the operations on entries as the statements write them, TITLE ENTER and TITLE REMOVE,
the walk of the index block, the fill test of the title blocks. -/

namespace Sys2Proof.Machine

/-! ## Fields of a body -/

/-- The fields of a list of two-byte fields (R193). -/
theorem field_pairs {ns : List Nat} (h : ∀ n ∈ ns, n < 65536) (i : Nat) (hi : i < ns.length) :
    field (bodyOf (ns.map fun n => (2, n))) (2 * i) 2 = ns[i] := by
  induction ns generalizing i with
  | nil => exact absurd hi (Nat.not_lt_zero i)
  | cons n ns ih =>
    obtain ⟨hn, hns⟩ := List.forall_mem_cons.1 h
    cases i with
    | zero => exact field_head hn _
    | succ i =>
      rw [List.map_cons, field_skip n (by omega), show 2 * (i + 1) - 2 = 2 * i by omega]
      exact ih hns i (Nat.lt_of_succ_lt_succ hi)

/-- A request that can be served, of the right length, is answered by its rule, whose operands are read from the body. -/
theorem exec_served {c : Instr} {f : Frame} {s : State} {k : Byte} {rule rule' : State → Answer} (he : exec c s = serve c f rule s)
    (hr : rule = rule') (hc : headCommand f = c) (hs : canServe f s = true) (hb : bodyLengthOk f = true) (hk : replyKind f.kind = k) :
    exec c s = .next ((rule' s).1.replied k f.tag (rule' s).2) := by
  rw [he, hr, serve_reply rule' hc hs hb hk]

theorem mediumOf_mediumCode (m : Medium) : mediumOf (mediumCode m) = some m := by cases m <;> rfl

theorem mediumOf_unlisted {n : Nat} (h : n = 0 ∨ 3 < n) : mediumOf n = none := by
  unfold mediumOf
  split
  · omega
  · omega
  · omega
  · rfl

/-! ## The operations on entries, as the statements write them -/

theorem filter_bne_eq {α : Type} [DecidableEq α] (k : α) (l : List α) : l.filter (· != k) = l.filter (· ≠ k) :=
  List.filter_congr fun x _ => by simp [bne, beq_eq_decide]

theorem updateTitle_eq (k : TitleKey) (f : TitleEntry → TitleEntry) (s : State) :
    updateTitle k f s = { s with titles := s.titles.map fun x => if x.key = k then f x else x } := by
  simp only [updateTitle, replace, beq_iff_eq]

theorem dropTitle_eq (k : TitleKey) (s : State) :
    dropTitle k s = { s with titles := s.titles.filter fun x => x.key ≠ k } := by
  have h : (fun x : TitleEntry => !(x.key == k)) = fun x : TitleEntry => decide (x.key ≠ k) := by
    funext x
    simp [beq_eq_decide]
  rw [dropTitle, h]

theorem findTitle_eq_none_iff {s : State} {k : TitleKey} : findTitle s k = none ↔ ∀ e ∈ s.titles, e.key ≠ k := by
  simp [findTitle]

/-- The entry that a search finds has the key searched for. -/
theorem findTitle_key {s : State} {k : TitleKey} {e : TitleEntry} (h : findTitle s k = some e) : e.key = k := by
  simpa using List.find?_some h

/-! ## TITLE ENTER (R3, R4) -/

theorem strictlyRising_iff (l : List Nat) : strictlyRising l = true ↔ l.Pairwise (· < ·) := by
  induction l with
  | nil => simp [strictlyRising]
  | cons a l ih =>
    cases l with
    | nil => simp [strictlyRising]
    | cons b rest =>
      simp only [strictlyRising, Bool.and_eq_true, decide_eq_true_eq, ih]
      constructor
      · rintro ⟨hab, h⟩
        refine List.pairwise_cons.2 ⟨fun x hx => ?_, h⟩
        rcases List.mem_cons.1 hx with rfl | hx
        · exact hab
        · exact hab.trans ((List.pairwise_cons.1 h).1 x hx)
      · intro h
        exact ⟨(List.pairwise_cons.1 h).1 b List.mem_cons_self, (List.pairwise_cons.1 h).2⟩

theorem titleMedium_isSome_iff (n : Nat) : (titleMedium n).isSome = true ↔ n = 1 ∨ n = 2 := by
  unfold titleMedium mediumOf
  split
  · simp_all
  · split <;> simp_all

/-- A title entry's medium code names its medium (R1, R192). -/
theorem titleMedium_of_code {m : Medium} (h : mediumCode m = 1 ∨ mediumCode m = 2) : titleMedium (mediumCode m) = some m := by
  cases m
  · rfl
  · rfl
  · simp [mediumCode] at h

/-- Checks 1 to 5 of R3, as the statement writes them. -/
theorem titleFieldsOk_iff (r : TitleRequest) : titleFieldsOk r = true ↔
    1 ≤ r.title ∧ r.title ≤ 999999 ∧ (r.medium = 1 ∨ r.medium = 2) ∧ 1 ≤ r.edition ∧ 1 ≤ r.size ∧ r.size ≤ 65520 ∧ r.breaks.length ≤ 15
      ∧ (∀ b ∈ r.breaks, 1 ≤ b ∧ b < r.size) ∧ r.breaks.Pairwise (· < ·) ∧ (∀ v ∈ volumes r.size r.breaks, v.2 ≤ 32752)
      ∧ r.indexBlock ≤ 4194303 := by
  simp only [titleFieldsOk, Bool.and_eq_true, decide_eq_true_eq, titleMedium_isSome_iff, List.all_eq_true, strictlyRising_iff, and_assoc]
  refine and_congr_right fun _ => and_congr_right fun _ => and_congr_right fun _ => and_congr_right fun _ => and_congr_right fun hs =>
    and_congr_right fun _ => and_congr_right fun _ => and_congr_left fun _ => forall₂_congr fun b _ => and_congr_right fun _ => ?_
  omega

/-- The frame of a TITLE ENTER carries its fields (10.5). -/
theorem titleRequest_bodyOf {title medium edition size index : Nat} {breaks : List Nat} (h1 : title < 16777216) (h2 : medium < 256)
    (h3 : edition < 256) (h4 : size < 65536) (h5 : index < 16777216) (h6 : breaks.length < 256) (h7 : ∀ b ∈ breaks, b < 65536) :
    titleRequest (bodyOf ([(3, title), (1, medium), (1, edition), (2, size), (3, index), (1, breaks.length)] ++ breaks.map fun b => (2, b))) =
      ⟨title, medium, edition, size, index, breaks⟩ := by
  simp only [List.cons_append, List.nil_append]
  have count : field (bodyOf ((3, title) :: (1, medium) :: (1, edition) :: (2, size) :: (3, index) :: (1, breaks.length)
      :: breaks.map fun b => (2, b))) 10 1 = breaks.length := by
    iterate 5 rw [field_skip _ (by decide)]
    exact field_head h6 _
  simp only [titleRequest, TitleRequest.mk.injEq]
  refine ⟨field_head h1 _, ?_, ?_, ?_, ?_, ?_⟩
  · rw [field_skip _ (by decide)]
    exact field_head h2 _
  · iterate 2 rw [field_skip _ (by decide)]
    exact field_head h3 _
  · iterate 3 rw [field_skip _ (by decide)]
    exact field_head h4 _
  · iterate 4 rw [field_skip _ (by decide)]
    exact field_head h5 _
  · rw [bodyBreaks, count]
    refine List.ext_getElem (by simp) fun i hi _ => ?_
    rw [List.getElem_map, List.getElem_range]
    iterate 6 rw [field_skip _ (by omega)]
    rw [show 11 + 2 * i - 3 - 1 - 1 - 2 - 3 - 1 = 2 * i by omega]
    exact field_pairs h7 i (by simpa using hi)

/-- A TITLE ENTER that can be served is answered by its rule. -/
theorem exec_titleEnter {s : State} {tag : Byte} {title medium edition size index : Nat} {breaks : List Nat} (h1 : title < 16777216)
    (h2 : medium < 256) (h3 : edition < 256) (h4 : size < 65536) (h5 : index < 16777216) (h6 : breaks.length < 256)
    (h7 : ∀ b ∈ breaks, b < 65536) {body : List Byte} (hbody : body = bodyOf ([(3, title), (1, medium), (1, edition), (2, size), (3, index),
      (1, breaks.length)] ++ breaks.map fun b => (2, b))) (hs : canServe ⟨0x10, tag, body⟩ s = true) :
    exec (.titleEnter tag body) s =
      .next ((titleEnterRule ⟨title, medium, edition, size, index, breaks⟩ s).1.replied 0x90 tag
        (titleEnterRule ⟨title, medium, edition, size, index, breaks⟩ s).2) := by
  have request := titleRequest_bodyOf h1 h2 h3 h4 h5 h6 h7
  rw [← hbody] at request
  have count : field body 10 1 = breaks.length := by
    have := congrArg (fun r => r.breaks.length) request
    simpa [titleRequest, bodyBreaks] using this
  have long : body.length = 11 + 2 * breaks.length := by
    rw [hbody, length_bodyOf]
    simp [Function.comp_def]
    omega
  have hb : bodyLengthOk ⟨0x10, tag, body⟩ = true := by
    simp [bodyLengthOk, long, count]
  rw [← request]
  exact serve_reply (titleEnterRule (titleRequest body)) rfl hs hb rfl

/-- The entry entered (R4): with no entry of its key in the table, the READY entry of its title and medium is another edition. -/
theorem enterTitle_eq {k : TitleKey} {s : State} (r : TitleRequest) (new : ∀ e ∈ s.titles, e.key ≠ k) : enterTitle k r s =
    { s with
      titles := (s.titles.filterMap fun e : TitleEntry =>
          if e.key.title = k.title ∧ e.key.medium = k.medium ∧ e.state = TitleState.ready then
            if e.refs = 0 then none else some { e with state := .retiring }
          else some e) ++ [newTitle k r s.entrySeq]
      entrySeq := numberAfter max32 s.entrySeq
      surveyQueue := s.surveyQueue ++ [k] } := by
  have h : (retireReady k.title k.medium k.edition s).titles = s.titles.filterMap fun e : TitleEntry =>
      if e.key.title = k.title ∧ e.key.medium = k.medium ∧ e.state = TitleState.ready then
        if e.refs = 0 then none else some { e with state := .retiring }
      else some e := by
    refine List.filterMap_congr fun e he => ?_
    have other : e.key.title = k.title → e.key.medium = k.medium → e.key.edition ≠ k.edition := fun h1 h2 h3 =>
      new e he (by cases hk : e.key; cases k; simp_all)
    simp only [Bool.and_eq_true, beq_iff_eq, bne_iff_ne]
    congr 1
    exact propext ⟨fun ⟨⟨⟨h1, h2⟩, h3⟩, _⟩ => ⟨h1, h2, h3⟩, fun ⟨h1, h2, h3⟩ => ⟨⟨⟨h1, h2⟩, h3⟩, other h1 h2⟩⟩
  unfold enterTitle
  dsimp only
  rw [h]
  rfl

/-- A request whose fields are in range goes on to the table's own checks (R3, checks 6 to 8). -/
theorem titleEnterRule_checked {r : TitleRequest} {m : Medium} (ok : titleFieldsOk r = true) (named : titleMedium r.medium = some m) (s : State) :
    titleEnterRule r s =
      if (findTitle s ⟨r.title, m, r.edition⟩).isSome then statusOnly .duplicate s
      else if titleCapacity ≤ s.titles.length then statusOnly .full s
      else if surveyCapacity ≤ s.surveyQueue.length then statusOnly .full s
      else okWith (leBytes 4 s.entrySeq) (enterTitle ⟨r.title, m, r.edition⟩ r s) := by
  rw [titleEnterRule, ok, named]
  rfl

/-- Settles O20: the rule's checks in their order, and the entry entered. -/
theorem titleEnterChecksAndCreates : Obligations.TitleEnterChecksAndCreates := by
  unfold Obligations.TitleEnterChecksAndCreates
  intro s tag title medium edition size index breaks h1 h2 h3 h4 h5 h6 h7 body inRange hs
  have served := exec_titleEnter h1 h2 h3 h4 h5 h6 h7 (body := body) rfl hs
  have ok : titleFieldsOk ⟨title, medium, edition, size, index, breaks⟩ = true ↔ inRange := titleFieldsOk_iff _
  refine ⟨fun hr => ?_, fun hr m hm => ?_⟩
  · have bad : titleFieldsOk ⟨title, medium, edition, size, index, breaks⟩ = false := by simpa [hr] using ok
    rw [served, titleEnterRule, bad]
    rfl
  · have named : titleMedium medium = some m := by
      rw [← hm]
      exact titleMedium_of_code (hm ▸ hr.2.2.1)
    rw [titleEnterRule_checked (ok.2 hr) named] at served
    refine ⟨fun ⟨e, he, hk⟩ => ?_, fun new full => ?_, fun new room queue => ?_⟩
    · have found : (findTitle s ⟨title, m, edition⟩).isSome = true := by
        rw [Option.isSome_iff_ne_none, ne_eq, findTitle_eq_none_iff]
        exact fun h => h e he hk
      rw [served, if_pos found]
      rfl
    · rw [served, findTitle_eq_none_iff.2 new, Option.isSome_none, if_neg Bool.false_ne_true]
      by_cases room : titleCapacity ≤ s.titles.length
      · rw [if_pos room]
        rfl
      · rw [if_neg room, if_pos (full.resolve_left room)]
        rfl
    · rw [served, findTitle_eq_none_iff.2 new, Option.isSome_none, if_neg Bool.false_ne_true, if_neg (Nat.not_le.2 room), if_neg (Nat.not_le.2 queue),
        enterTitle_eq _ new]
      rfl

/-! ## TITLE REMOVE (R7, R17) -/

/-- A TITLE REMOVE that can be served is answered by its rule. -/
theorem exec_titleRemove {s : State} {tag : Byte} {title medium edition : Nat} (h1 : title < 16777216) (h2 : medium < 256)
    (h3 : edition < 256) (hs : canServe ⟨0x11, tag, bodyOf [(3, title), (1, medium), (1, edition)]⟩ s = true) :
    exec (.titleRemove tag (bodyOf [(3, title), (1, medium), (1, edition)])) s =
      .next ((titleRemoveRule title medium edition s).1.replied 0x91 tag (titleRemoveRule title medium edition s).2) := by
  have f1 : field (bodyOf [(3, title), (1, medium), (1, edition)]) 0 3 = title := field_head h1 _
  have f2 : field (bodyOf [(3, title), (1, medium), (1, edition)]) 3 1 = medium := by
    rw [field_skip _ (by decide)]
    exact field_head h2 _
  have f3 : field (bodyOf [(3, title), (1, medium), (1, edition)]) 4 1 = edition := by
    iterate 2 rw [field_skip _ (by decide)]
    exact field_head h3 _
  exact exec_served (rule := titleRemoveRule (field _ 0 3) (field _ 3 1) (field _ 4 1)) rfl (by rw [f1, f2, f3]) rfl hs
    (by simp [bodyLengthOk]) rfl

/-- A survey that ends with its entry's removal: its place in the queue goes, and its read outstanding is discarded (R17). -/
theorem endSurvey_eq (k : TitleKey) (s : State) :
    endSurvey k s =
      { s with
        surveyQueue := s.surveyQueue.filter (· ≠ k)
        grant := s.grant.map fun g => if g.requester = .survey ∧ g.key = k then { g with discarded := true } else g } := by
  unfold endSurvey
  rw [filter_bne_eq]
  dsimp only
  split
  · rename_i g hg
    rw [hg, Option.map_some]
    split
    · rfl
    · rw [← hg]
  · rename_i hg
    rw [hg]
    rfl

/-- Settles O21: the rule's branches, by the state of the entry found. -/
theorem titleRemoveOutcomes : Obligations.TitleRemoveOutcomes := by
  unfold Obligations.TitleRemoveOutcomes
  intro s tag title medium edition h1 h2 h3 body reply hs
  have served := exec_titleRemove h1 h2 h3 hs
  have replies : ∀ (t : State) (status : Byte), titleRemoveRule title medium edition s = (t, [status]) → reply t status := by
    intro t status h
    rw [h] at served
    exact served
  refine ⟨fun h => replies _ _ ?_, fun m hm => ?_⟩
  · rw [titleRemoveRule, mediumOf_unlisted h]
    rfl
  · have hmed : mediumOf medium = some m := hm ▸ mediumOf_mediumCode m
    refine ⟨fun h => replies _ _ ?_, fun e he => ⟨fun h => replies _ _ ?_, fun h => replies _ _ ?_, fun h hrefs => replies _ _ ?_,
      fun h hrefs => replies _ _ ?_⟩⟩
    · simp only [titleRemoveRule, hmed, h]
      rfl
    · simp only [titleRemoveRule, hmed, he, h, endSurvey_eq, dropTitle_eq]
      rfl
    · simp only [titleRemoveRule, hmed, he, h]
      rfl
    · rcases h with h | h | h <;> simp only [titleRemoveRule, hmed, he, h, hrefs, dropTitle_eq] <;> rfl
    · rcases h with h | h <;> simp only [titleRemoveRule, hmed, he, h, hrefs.ne', if_false, updateTitle_eq] <;> rfl

/-! ## The walk of the index block (R10) -/

/-- Bytes found behind other bytes. -/
theorem field_append_left {front : List Byte} {n : Nat} (h : front.length = n) (rest : List Byte) (k w : Nat) :
    field (front ++ rest) (n + k) w = field rest k w := by
  subst h
  rw [field, field, List.drop_length_add_append]

/-- Bytes found at the head. -/
theorem field_leBytes {w n : Nat} (h : n < 256 ^ w) (rest : List Byte) : field (leBytes w n ++ rest) 0 w = n := by
  rw [field, List.drop_zero, List.take_left' (length_leBytes w n), leNat_leBytes_of_lt h]

theorem length_descriptorBytes (x : Extent) (last : Byte) : (descriptorBytes x last).length = 8 := by simp [descriptorBytes]

theorem length_descriptors (xs : List (Extent × Byte)) : (xs.flatMap fun d => descriptorBytes d.1 d.2).length = 8 * xs.length := by
  simp [List.length_flatMap, length_descriptorBytes]
  omega

/-- The fields of a descriptor, read from an index block (1.2.2). -/
theorem descriptor_fields {x : Extent} (last : Byte) (h1 : x.first < 4294967296) (h2 : x.count < 16777216) {front : List Byte} {n : Nat}
    (hn : front.length = n) (tail : List Byte) :
    field (front ++ descriptorBytes x last ++ tail) n 4 = x.first ∧ field (front ++ descriptorBytes x last ++ tail) (n + 4) 3 = x.count ∧
      field (front ++ descriptorBytes x last ++ tail) (n + 7) 1 = last.toNat := by
  have e : front ++ descriptorBytes x last ++ tail = front ++ (leBytes 4 x.first ++ (leBytes 3 x.count ++ ([last] ++ tail))) := by
    simp [descriptorBytes]
  rw [e]
  refine ⟨(field_append_left hn _ 0 4).trans (field_leBytes h1 _), ?_, ?_⟩
  · rw [field_append_left hn, field_append_left (length_leBytes 4 _) _ 0]
    exact field_leBytes h2 _
  · rw [field_append_left hn, show 7 = 4 + (3 + 0) from rfl, field_append_left (length_leBytes 4 _), field_append_left (length_leBytes 3 _)]
    simp [field, leNat]

/-- One descriptor of the walk (R10), at the place the walk has come to. -/
theorem walkDescriptors_step {x : Extent} (last : Byte) (h1 : x.first < 4294967296) (h2 : x.count < 16777216) {front : List Byte} {n : Nat}
    (hn : front.length = n) (tail : List Byte) (fuel : Nat) (got : List Extent) :
    walkDescriptors (front ++ descriptorBytes x last ++ tail) (fuel + 1) n got =
      if x.count = 0 ∨ 4194304 < x.first + x.count then (got, .badExtent)
      else if last.toNat % 2 = 1 then (got ++ [x], .found)
      else walkDescriptors (front ++ descriptorBytes x last ++ tail) fuel (n + 8) (got ++ [x]) := by
  obtain ⟨e1, e2, e3⟩ := descriptor_fields last h1 h2 hn tail
  rw [walkDescriptors]
  simp only [e1, e2, e3]

theorem Extent.good_bounds {x : Extent} (h : x.good) :
    x.first < 4294967296 ∧ x.count < 16777216 ∧ ¬(x.count = 0 ∨ 4194304 < x.first + x.count) := by
  obtain ⟨h1, h2⟩ := h
  omega

/-- The walk passes over good descriptors without END, taking their extents (R10). -/
theorem walkDescriptors_good {xs : List (Extent × Byte)} (h : ∀ d ∈ xs, d.1.good ∧ d.2.toNat % 2 = 0) (front tail : List Byte) (n fuel : Nat)
    (hn : front.length = n) (got : List Extent) :
    walkDescriptors (front ++ ((xs.flatMap fun d => descriptorBytes d.1 d.2) ++ tail)) (xs.length + fuel) n got =
      walkDescriptors (front ++ ((xs.flatMap fun d => descriptorBytes d.1 d.2) ++ tail)) fuel (n + 8 * xs.length) (got ++ xs.map (·.1)) := by
  induction xs generalizing front n got with
  | nil => simp
  | cons d xs ih =>
    obtain ⟨⟨hgood, hlast⟩, hxs⟩ := List.forall_mem_cons.1 h
    obtain ⟨b1, b2, b3⟩ := Extent.good_bounds hgood
    have e : front ++ (((d :: xs).flatMap fun d => descriptorBytes d.1 d.2) ++ tail) =
        front ++ descriptorBytes d.1 d.2 ++ ((xs.flatMap fun d => descriptorBytes d.1 d.2) ++ tail) := by simp
    rw [e, List.length_cons, show xs.length + 1 + fuel = xs.length + fuel + 1 by omega, walkDescriptors_step _ b1 b2 hn, if_neg b3,
      if_neg (by omega), ih hxs _ _ (by simp [hn, length_descriptorBytes]), List.map_cons, List.append_assoc got, List.singleton_append,
      show n + 8 + 8 * xs.length = n + 8 * (xs.length + 1) by omega]

/-! ## The ends of a survey (R10 to R17) -/

theorem updateTitle_updateTitle (k : TitleKey) {f : TitleEntry → TitleEntry} (hf : ∀ x, (f x).key = x.key) (g : TitleEntry → TitleEntry)
    (s : State) : updateTitle k g (updateTitle k f s) = updateTitle k (fun x => g (f x)) s := by
  have h : (s.titles.map fun x => if x.key = k then f x else x).map (fun x => if x.key = k then g x else x) =
      s.titles.map fun x => if x.key = k then g (f x) else x := by
    rw [List.map_map]
    refine List.map_congr_left fun x _ => ?_
    by_cases hx : x.key = k <;> simp [hx, hf]
  simp only [updateTitle_eq, h]

/-- A survey ends: its entry leaves the survey queue, SURVEY is set (R15). -/
theorem surveyOver_eq (k : TitleKey) (s : State) :
    surveyOver k s = State.flagged { s with surveyQueue := s.surveyQueue.filter (· ≠ k) } .survey := by
  rw [surveyOver, setEvent_flagged, filter_bne_eq]

/-- An entry changed and then FAULTED (R10, R13, R14). -/
theorem faultTitle_updateTitle (k : TitleKey) (why : TitleFault) {f : TitleEntry → TitleEntry} (hf : ∀ x, (f x).key = x.key) (s : State) :
    faultTitle k why (updateTitle k f s) =
      State.flagged { updateTitle k (fun x => { f x with state := .faulted, fault := some why }) s with
        surveyQueue := s.surveyQueue.filter (· ≠ k) } .survey := by
  rw [faultTitle, updateTitle_updateTitle k hf, surveyOver_eq]
  rfl

theorem faultTitle_eq (k : TitleKey) (why : TitleFault) (s : State) :
    faultTitle k why s =
      State.flagged { updateTitle k (fun x => { x with state := .faulted, fault := some why }) s with
        surveyQueue := s.surveyQueue.filter (· ≠ k) } .survey := by
  rw [faultTitle, surveyOver_eq]
  rfl

/-- The read that TS takes: of the entry at the head of the survey queue, not discarded (R17, R23). -/
theorem surveyedEntry_taken {s : State} {g : Grant} {e : TitleEntry} (hd : g.discarded = false) (hq : s.surveyQueue.head? = some g.key)
    (hf : findTitle s g.key = some e) (hseq : e.seq = g.seq) : surveyedEntry s g = some e := by
  simp [surveyedEntry, hd, hq, hf, hseq]

/-- A discarded read is dropped (R17). -/
theorem surveyedEntry_discarded {s : State} {g : Grant} (hd : g.discarded = true) : surveyedEntry s g = none := by
  simp [surveyedEntry, hd]

section
variable {s : State} {g : Grant} (hg : s.grant = some g) (hr : g.requester = .survey) (hb : g.block = none)
include hg hr hb

theorem indexBlockDone_data {e : TitleEntry} (h : surveyedEntry s g = some e) (block : List Byte) :
    indexBlockDone (.data block) s = indexRead e (walkDescriptors block 64 0 []) { s with grant := none } := by
  simp only [indexBlockDone, hg, hr, hb, h, and_self, if_true]

theorem indexBlockDone_error {e : TitleEntry} (h : surveyedEntry s g = some e) :
    indexBlockDone .mediaError s = faultTitle e.key .media { s with grant := none } := by
  simp only [indexBlockDone, hg, hr, hb, h, and_self, if_true]

theorem indexBlockDone_dropped (h : surveyedEntry s g = none) (r : ReadResult) : indexBlockDone r s = { s with grant := none } := by
  simp only [indexBlockDone, hg, hr, hb, h, and_self, if_true]

end

section
variable {s : State} {g : Grant} (hg : s.grant = some g) (hr : g.requester = .survey) (hb : g.block ≠ none)
include hg hr hb

theorem titleBlockDone_data {e : TitleEntry} (h : surveyedEntry s g = some e) (block : List Byte) :
    titleBlockDone (.data block) s = surveyNext (blockSurveyed block e) (updateTitle e.key (blockSurveyed block) { s with grant := none }) := by
  simp only [titleBlockDone, hg, hr, hb, h, ne_eq, not_false_eq_true, and_self, if_true]

theorem titleBlockDone_error {e : TitleEntry} (h : surveyedEntry s g = some e) :
    titleBlockDone .mediaError s = faultTitle e.key .media { s with grant := none } := by
  simp only [titleBlockDone, hg, hr, hb, h, ne_eq, not_false_eq_true, and_self, if_true]

theorem titleBlockDone_dropped (h : surveyedEntry s g = none) (r : ReadResult) : titleBlockDone r s = { s with grant := none } := by
  simp only [titleBlockDone, hg, hr, hb, h, ne_eq, not_false_eq_true, and_self, if_true]

end

/-- A survey whose next title block is mapped goes on (R13). -/
theorem surveyNext_mapped {e : TitleEntry} {s : State} (h : e.progress < e.size) (hm : mapBlock e.extents e.progress ≠ none) :
    surveyNext e s = s := by
  rw [surveyNext, if_neg (Nat.not_le.2 h), if_neg (by simpa using hm)]

theorem surveyNext_short {e : TitleEntry} {s : State} (h : e.progress < e.size) (hm : mapBlock e.extents e.progress = none) :
    surveyNext e s = faultTitle e.key .shortMaster s := by
  rw [surveyNext, if_neg (Nat.not_le.2 h), hm]
  rfl

theorem surveyNext_whole {e : TitleEntry} {s : State} (h : e.size ≤ e.progress) :
    surveyNext e s = titleReady e.key (mapBlock e.extents e.size).isSome s := by
  rw [surveyNext, if_pos h]

/-- Good extents map the first title block (R11). -/
theorem mapBlock_zero_ne_none {xs : List Extent} (ne : xs ≠ []) (good : ∀ x ∈ xs, x.good) : mapBlock xs 0 ≠ none := by
  cases xs with
  | nil => exact absurd rfl ne
  | cons x xs => simp [mapBlock, (good x List.mem_cons_self).1]

/-- Settles O22: the walk over the good descriptors, and then the one that ends it. -/
theorem indexBlockWalk : Obligations.IndexBlockWalk := by
  unfold Obligations.IndexBlockWalk
  intro s g e hp hg hr hb t
  have done : ∀ r, exec (.indexBlockRead r) s = .next (indexBlockDone r s).stamped := fun r => event_powered _ hp
  refine ⟨fun hd r => ?_, fun hd hq hf hseq => ?_⟩
  · rw [done, indexBlockDone_dropped hg hr hb (surveyedEntry_discarded hd)]
  · intro put faulted
    have hkey := findTitle_key hf
    have taken := surveyedEntry_taken hd hq hf hseq
    have read : ∀ block, exec (.indexBlockRead (.data block)) s = .next (indexRead e (walkDescriptors block 64 0 []) t).stamped := by
      intro block
      rw [done, indexBlockDone_data hg hr hb taken]
    have faults : ∀ (why : TitleFault) (got : List Extent),
        faultTitle e.key why (updateTitle e.key (fun x => { x with extents := got }) t) = faulted why fun y => { y with extents := got } := by
      intro why got
      rw [hkey, faultTitle_updateTitle g.key why (f := fun x => { x with extents := got }) (fun _ => rfl), updateTitle_eq]
    refine ⟨?_, fun xs tail hxs => ?_⟩
    · rw [done, indexBlockDone_error hg hr hb taken, hkey, faultTitle_eq, updateTitle_eq]
      rfl
    · intro got front
      have walk : ∀ (rest : List Byte) (fuel : Nat), xs.length + fuel = 64 →
          walkDescriptors (front ++ rest) 64 0 [] = walkDescriptors (front ++ rest) fuel (8 * xs.length) got := by
        intro rest fuel h
        have := walkDescriptors_good hxs [] rest 0 fuel rfl []
        rw [h] at this
        simpa using this
      have next : ∀ (x : Extent) (last : Byte), xs.length < 64 → x.first < 4294967296 → x.count < 16777216 →
          walkDescriptors (front ++ descriptorBytes x last ++ tail) 64 0 [] =
            if x.count = 0 ∨ 4194304 < x.first + x.count then (got, .badExtent)
            else if last.toNat % 2 = 1 then (got ++ [x], .found)
            else walkDescriptors (front ++ descriptorBytes x last ++ tail) (63 - xs.length) (8 * xs.length + 8) (got ++ [x]) := by
        intro x last hlen h1 h2
        rw [← walkDescriptors_step last h1 h2 (length_descriptors xs), List.append_assoc]
        exact walk _ _ (by omega)
      refine ⟨fun x last hlen hgood hlast hsize hprogress => ?_, fun x last hlen h1 h2 hbad => ?_, fun hlen => ?_⟩
      · obtain ⟨b1, b2, b3⟩ := Extent.good_bounds hgood
        rw [read, next x last hlen b1 b2, if_neg b3, if_pos hlast, indexRead]
        dsimp only
        rw [surveyNext_mapped, updateTitle_eq, hkey]
        · exact hprogress ▸ hsize
        · rw [hprogress]
          refine mapBlock_zero_ne_none (by simp) fun y hy => ?_
          rcases List.mem_append.1 hy with hy | hy
          · obtain ⟨d, hd, rfl⟩ := List.mem_map.1 hy
            exact (hxs d hd).1
          · exact List.mem_singleton.1 hy ▸ hgood
      · have : x.count = 0 ∨ 4194304 < x.first + x.count := by
          unfold Extent.good at hbad
          omega
        rw [read, next x last hlen h1 h2, if_pos this, indexRead]
        dsimp only
        rw [faults]
      · rw [read, walk tail 0 (by omega), walkDescriptors, indexRead]
        dsimp only
        rw [faults]

/-! ## The title blocks (R12 to R16) -/

/-- The fill test, as the statement writes it (R12). -/
theorem blockSurveyed_eq (data : List Byte) (x : TitleEntry) : blockSurveyed data x =
    if ∀ b ∈ data, b = 0xFF then { x with progress := x.progress + 1 }
    else
      { x with
        occupied := x.occupied ++ [x.progress]
        occCount := x.occCount + 1
        volOcc := x.volOcc.modify (volumeOf x.breaks x.progress) (· + 1)
        progress := x.progress + 1 } := by
  have h : data.all (· == 0xFF) = true ↔ ∀ b ∈ data, b = 0xFF := by simp
  simp only [blockSurveyed, h]

/-- What the fill test does not touch. -/
theorem blockSurveyed_rest (data : List Byte) (x : TitleEntry) :
    (blockSurveyed data x).size = x.size ∧ (blockSurveyed data x).extents = x.extents ∧
      (blockSurveyed data x).progress = x.progress + 1 := by
  unfold blockSurveyed
  split <;> exact ⟨rfl, rfl, rfl⟩

theorem retireReady_eq (k : TitleKey) (s : State) : retireReady k.title k.medium k.edition s =
    { s with titles := s.titles.filterMap fun x : TitleEntry =>
        if x.key.title = k.title ∧ x.key.medium = k.medium ∧ x.key.edition ≠ k.edition ∧ x.state = TitleState.ready then
          if x.refs = 0 then none else some { x with state := .retiring }
        else some x } := by
  have h : ∀ x : TitleEntry, ((((x.key.title = k.title ∧ x.key.medium = k.medium) ∧ x.state = .ready) ∧ x.key.edition ≠ k.edition) ↔
      (x.key.title = k.title ∧ x.key.medium = k.medium ∧ x.key.edition ≠ k.edition ∧ x.state = TitleState.ready)) := fun x => by tauto
  simp only [retireReady, Bool.and_eq_true, beq_iff_eq, bne_iff_ne, h]

/-- The items awaiting a title and medium that has become READY, and their patrons (R16). -/
theorem wakePatrons_eq (title : Nat) (m : Medium) (s : State) : wakePatrons title m s =
    ((s.patrons.filter fun p : Patron =>
        p.list.any fun i : ListItem => i.title = title ∧ i.medium = m ∧ i.state = ItemState.awaitingMaster).map
      (·.number)).foldl (fun u n => appendEligible n u)
      { s with patrons := s.patrons.map fun p : Patron => { p with
          list := p.list.map fun i : ListItem =>
            if i.title = title ∧ i.medium = m ∧ i.state = ItemState.awaitingMaster then { i with state := .waiting } else i } } := by
  have hit : ∀ i : ListItem, (isItem title m i && i.state == .awaitingMaster) =
      decide (i.title = title ∧ i.medium = m ∧ i.state = ItemState.awaitingMaster) := by
    intro i
    rw [Bool.eq_iff_iff]
    simp [isItem, and_assoc]
  have h1 : awaits title m = fun p : Patron =>
      p.list.any fun i : ListItem => i.title = title ∧ i.medium = m ∧ i.state = ItemState.awaitingMaster := by
    funext p
    simp only [awaits, hit]
  have h2 : wakeItem title m = fun p : Patron => { p with
      list := p.list.map fun i : ListItem =>
        if i.title = title ∧ i.medium = m ∧ i.state = ItemState.awaitingMaster then { i with state := .waiting } else i } := by
    funext p
    unfold wakeItem replace
    simp only [hit, decide_eq_true_eq]
  rw [wakePatrons, h1, h2]

/-- Settles O23: the fill test, and then what the survey has come to. -/
theorem titleBlockSurvey : Obligations.TitleBlockSurvey := by
  unfold Obligations.TitleBlockSurvey
  intro s g e hp hg hr hb t
  have done : ∀ r, exec (.titleBlockRead r) s = .next (titleBlockDone r s).stamped := fun r => event_powered _ hp
  refine ⟨fun hd r => ?_, fun hd hq hf hseq => ?_⟩
  · rw [done, titleBlockDone_dropped hg hr hb (surveyedEntry_discarded hd)]
  · intro put ended
    have hkey := findTitle_key hf
    have taken := surveyedEntry_taken hd hq hf hseq
    refine ⟨?_, fun data => ?_⟩
    · rw [done, titleBlockDone_error hg hr hb taken, hkey, faultTitle_eq, updateTitle_eq]
    · intro counted
      have hcounted : blockSurveyed data = counted := funext (blockSurveyed_eq data)
      obtain ⟨hsize, hextents, hprogress⟩ := blockSurveyed_rest data e
      have hk := (blockSurveyed_key data e).trans hkey
      have read : exec (.titleBlockRead (.data data)) s =
          .next (surveyNext (blockSurveyed data e) (updateTitle g.key (blockSurveyed data) t)).stamped := by
        rw [done, titleBlockDone_data hg hr hb taken, hkey]
      refine ⟨fun h hm => ?_, fun h hm => ?_, fun h => ?_⟩
      · rw [read, surveyNext_mapped, updateTitle_eq, hcounted]
        · rwa [hprogress, hsize]
        · rwa [hprogress, hextents]
      · rw [read, surveyNext_short, hk, faultTitle_updateTitle _ _ (blockSurveyed_key data), updateTitle_eq, hcounted]
        · rwa [hprogress, hsize]
        · rwa [hprogress, hextents]
      · intro ready retired
        have whole : surveyNext (blockSurveyed data e) (updateTitle g.key (blockSurveyed data) t) =
            wakePatrons g.key.title g.key.medium retired := by
          rw [surveyNext_whole (by omega), hk, hextents, hsize, titleReady, updateTitle_updateTitle _ (blockSurveyed_key data),
            surveyOver_eq, retireReady_eq, updateTitle_eq, hcounted]
        rw [read, whole, wakePatrons_eq]
        rfl

end Sys2Proof.Machine
end

section
/-! SUPPORT. The master port (R19 to R24, R80, R81): the order in which bays are considered, what a bay asks for, the mapping of blocks, and the
completion of a feed read with data. -/

namespace Sys2Proof.Machine

/-! ## The order of the bays (R20) -/

/-- The rotation is the bays counted on from the one after the pointer. -/
theorem rotationOrder_eq (p : BayId) : rotationOrder p = bayIds.map fun i => p + 1 + i := by
  revert p
  decide

/-- The first of a sorted list that meets a test is the one before which none meets it. -/
theorem find?_of_ascending {α : Type} {key : α → Nat} {P : α → Bool} {l : List α} (sorted : l.Pairwise fun a b => key a < key b) {b : α}
    (hb : b ∈ l) (hP : P b = true) (before : ∀ c, key c < key b → P c = false) : l.find? P = some b := by
  induction l with
  | nil => cases hb
  | cons x xs ih =>
    obtain ⟨hx, hxs⟩ := List.pairwise_cons.1 sorted
    rcases List.mem_cons.1 hb with rfl | hb
    · exact List.find?_cons_of_pos hP
    · rw [List.find?_cons_of_neg (by simp [before x (hx b hb)])]
      exact ih hxs hb

theorem rotationOrder_ascending (p : BayId) : (rotationOrder p).Pairwise fun a b => (a - p - 1).val < (b - p - 1).val := by
  rw [rotationOrder_eq, List.pairwise_map]
  have h : ∀ i : BayId, p + 1 + i - p - 1 = i := fun i => by abel
  simp only [h]
  decide

theorem mem_rotationOrder (p b : BayId) : b ∈ rotationOrder p := by
  rw [rotationOrder_eq]
  exact List.mem_map.2 ⟨b - p - 1, mem_bayIds _, by abel⟩

/-- A window's bay is the first requesting one after the rotation pointer (R20). -/
theorem nextBay_eq_some {s : State} {b : BayId} (asks : (feedRequest s b).isSome = true)
    (before : ∀ c : BayId, (c - s.rotation - 1).val < (b - s.rotation - 1).val → feedRequest s c = none) : nextBay s = some b :=
  find?_of_ascending (key := fun c => (c - s.rotation - 1).val) (rotationOrder_ascending _) (mem_rotationOrder _ _) asks
    fun c hc => by rw [before c hc]; rfl

theorem nextBay_eq_none {s : State} (h : ∀ b, feedRequest s b = none) : nextBay s = none := by
  simp [nextBay, h]

/-! ## The start of a window (R20, R21) -/

theorem startWindow_outstanding {s : State} (h : s.grant ≠ none) : startWindow s = s := by
  rw [startWindow, if_pos (Option.isSome_iff_ne_none.2 h)]

theorem startWindow_survey {s : State} {r : Grant} (hg : s.grant = none) (hr : surveyRead s = some r)
    (h : 14 ≤ s.nextWindow ∨ ∀ b, feedRequest s b = none) :
    startWindow s = { s with nextWindow := (s.nextWindow + 1) % 16, grant := some r } := by
  have granted : grantSurvey s = { s with grant := some r } := by rw [grantSurvey, hr]
  have taken : (if 14 ≤ s.nextWindow ∧ (surveyRead s).isSome then grantSurvey s else feedWindow s) = { s with grant := some r } := by
    split
    · exact granted
    · rename_i late
      have idle := nextBay_eq_none (h.resolve_left fun w => late ⟨w, by rw [hr]; rfl⟩)
      simp only [feedWindow, idle, hr, Option.isSome_some, if_true, granted]
  simp only [startWindow, hg, Option.isSome_none, Bool.false_eq_true, if_false, taken]

theorem startWindow_idle {s : State} (hg : s.grant = none) (hr : surveyRead s = none) (h : ∀ b, feedRequest s b = none) :
    startWindow s = { s with nextWindow := (s.nextWindow + 1) % 16 } := by
  simp [startWindow, hg, hr, feedWindow, nextBay_eq_none h]

theorem startWindow_bay {s : State} {b : BayId} (hg : s.grant = none) (h : surveyRead s = none ∨ s.nextWindow < 14)
    (hb : nextBay s = some b) : startWindow s = { grantBay b s with nextWindow := (s.nextWindow + 1) % 16 } := by
  have late : ¬(14 ≤ s.nextWindow ∧ (surveyRead s).isSome = true) := by
    rintro ⟨h1, h2⟩
    rcases h with h | h
    · rw [h] at h2
      cases h2
    · omega
  simp only [startWindow, hg, Option.isSome_none, Bool.false_eq_true, if_false, if_neg late, feedWindow, hb]

theorem grantBay_eq {s : State} {b : BayId} {k : TitleKey} {i : Nat} {p : Pos} {e : TitleEntry} {master : Nat}
    (hr : feedRequest s b = some (k, i, p)) (he : findTitle s k = some e) (hm : mapBlock e.extents i = some master) :
    grantBay b s = { s with
      rotation := b
      grant := some ⟨.bay b, k, e.seq, some i, master, false⟩
      bays := s.bays.set b.val { getBay s b with
        buffer := (getBay s b).buffer ++ [⟨p, none⟩]
        fetchPos := if (getBay s b).state = .writing then fetchAfter s (jobParts s b) p else (getBay s b).fetchPos } } := by
  simp only [grantBay, hr, he, Option.map_some, Option.getD_some, Option.bind_some, hm]
  rfl

/-! ## What a bay asks for (R22, R80, R85) -/

theorem feedRequest_writing {s : State} {b : BayId} {p : Pos} {q : Part} (hs : s.supply = .normal) (hst : (getBay s b).state = .writing)
    (hroom : (getBay s b).buffer.length < 2) (hn : nextOccupied s (jobParts s b) (getBay s b).fetchPos = some p)
    (hq : partAt (jobParts s b) p = some q) : feedRequest s b = some (q.key, q.first + p.block, p) := by
  simp [feedRequest, hs, hst, hroom, hn, hq]

theorem feedRequest_verifying {s : State} {b : BayId} {p : Pos} {q : Part} {n : Nat} (hs : s.supply = .normal)
    (hst : (getBay s b).state = .verifying) (hph : (getBay s b).phase = some .data) (hbuf : (getBay s b).buffer = [])
    (hmark : (getBay s b).rewriteMark = some n) (hl : locate (jobParts s b) n = some p) (hq : partAt (jobParts s b) p = some q) :
    feedRequest s b = some (q.key, q.first + p.block, p) := by
  simp [feedRequest, hs, hst, hph, hbuf, hmark, hl, hq]

/-- A bay that asks is in WRITING with room in its buffer and a block to fetch, or in VERIFYING with a block to rewrite; the supply is not
LOW (R22, R98). -/
theorem feedRequest_inv {s : State} {b : BayId} {r : TitleKey × Nat × Pos} (h : feedRequest s b = some r) :
    s.supply = .normal ∧
      (((getBay s b).state = .writing ∧ (getBay s b).buffer.length < 2 ∧ nextOccupied s (jobParts s b) (getBay s b).fetchPos = some r.2.2) ∨
        ((getBay s b).state = .verifying ∧ (getBay s b).phase = some .data ∧ (getBay s b).buffer = [] ∧ (getBay s b).rewriteMark ≠ none)) := by
  unfold feedRequest at h
  obtain ⟨p, wanted, asked⟩ := Option.bind_eq_some_iff.1 h
  obtain ⟨q, -, rfl⟩ := Option.map_eq_some_iff.1 asked
  split at wanted
  · cases wanted
  · rename_i low
    refine ⟨by cases hs : s.supply <;> simp_all, ?_⟩
    split at wanted
    · rename_i hst
      split at wanted
      · rename_i hroom
        exact .inl ⟨hst, hroom, wanted⟩
      · cases wanted
    · rename_i hst
      split at wanted
      · rename_i hph
        refine .inr ⟨hst, hph.1, by simpa using hph.2, fun hn => ?_⟩
        rw [hn] at wanted
        cases wanted
      · cases wanted
    · cases wanted

/-- The position whose cartridge block a number is, found from the parts (R79). -/
theorem locate_go {qs : List Part} {j : Nat} {q : Part} {i : Nat} (hq : qs[j]? = some q) (hi : i < q.count) (n start : Nat) :
    locate.go (start + ((qs.take j).map (·.count)).sum + i) n start qs = some ⟨n + j, i⟩ := by
  induction qs generalizing j n start with
  | nil => simp at hq
  | cons x xs ih =>
    cases j with
    | zero =>
      obtain rfl : x = q := by simpa using hq
      rw [locate.go, if_pos (by simp; omega)]
      simp
    | succ j =>
      have hq' : xs[j]? = some q := by simpa using hq
      have e : start + (((x :: xs).take (j + 1)).map (·.count)).sum + i =
          start + x.count + ((xs.take j).map (·.count)).sum + i := by
        simp only [List.take_succ_cons, List.map_cons, List.sum_cons]
        omega
      rw [e, locate.go, if_neg (by omega), ih hq']
      simp only [Option.some.injEq, Pos.mk.injEq, and_true]
      omega

theorem locate_cartBlock {parts : List Part} {p : Pos} {q : Part} (hq : partAt parts p = some q) (hi : p.block < q.count) :
    locate parts (cartBlock parts p) = some p := by
  unfold partAt at hq
  split at hq
  · cases hq
  · rename_i hp
    rw [locate, cartBlock, partStart, locate_go hq hi]
    simp only [Option.some.injEq]
    cases p
    simp_all
    omega

/-! ## The next occupied block (R80) -/

/-- The position is that of a block marked occupied in the fill map of its title. -/
def OccupiedAt (s : State) (parts : List Part) (r : Pos) : Prop :=
  ∃ q e, partAt parts r = some q ∧ r.block < q.count ∧ findTitle s q.key = some e ∧ q.first + r.block ∈ e.occupied

/-- Part and block order, the position itself included. -/
def Pos.upTo (r r' : Pos) : Prop := r.part < r'.part ∨ (r.part = r'.part ∧ r.block ≤ r'.block)

/-- The first occupied title block of a part, at or after a block of the part. -/
def firstOccupied (s : State) (q : Part) (start : Nat) : Option Nat :=
  (findTitle s q.key).bind fun e => e.occupied.find? fun i => decide (q.first + start ≤ i ∧ i < q.first + q.count)

theorem nextOccupied_go_found {s : State} {q : Part} {start i : Nat} (h : firstOccupied s q start = some i) (n : Nat) (qs : List Part) :
    nextOccupied.go s n start (q :: qs) = some ⟨n, i - q.first⟩ := by
  unfold firstOccupied at h
  unfold nextOccupied.go
  cases he : findTitle s q.key with
  | none => simp [he] at h
  | some e =>
    rw [he, Option.bind_some] at h
    simp only [h]

theorem nextOccupied_go_skip {s : State} {q : Part} {start : Nat} (h : firstOccupied s q start = none) (n : Nat) (qs : List Part) :
    nextOccupied.go s n start (q :: qs) = nextOccupied.go s (n + 1) 0 qs := by
  unfold firstOccupied at h
  rw [nextOccupied.go]
  cases he : findTitle s q.key with
  | none => rfl
  | some e =>
    rw [he, Option.bind_some] at h
    simp only [h]

/-- In an ascending list the element found is the least that meets the test. -/
theorem find?_least {P : Nat → Bool} {l : List Nat} (sorted : l.Pairwise (· < ·)) {i : Nat} (h : l.find? P = some i) :
    ∀ j ∈ l, P j = true → i ≤ j := by
  induction l with
  | nil => cases h
  | cons x xs ih =>
    obtain ⟨hx, hxs⟩ := List.pairwise_cons.1 sorted
    by_cases hP : P x = true
    · rw [List.find?_cons_of_pos hP] at h
      obtain rfl : x = i := by simpa using h
      exact fun j hj _ => (List.mem_cons.1 hj).elim (fun e => e.symm.le) fun hj => (hx j hj).le
    · rw [List.find?_cons_of_neg hP] at h
      rintro j hj hPj
      rcases List.mem_cons.1 hj with rfl | hj
      · exact absurd hPj hP
      · exact ih hxs h j hj hPj

theorem firstOccupied_some {s : State} (agree : s.titlesAgree) {q : Part} {start i : Nat} (h : firstOccupied s q start = some i) :
    ∃ e, findTitle s q.key = some e ∧ i ∈ e.occupied ∧ q.first + start ≤ i ∧ i < q.first + q.count ∧
      ∀ j ∈ e.occupied, q.first + start ≤ j → j < q.first + q.count → i ≤ j := by
  obtain ⟨e, he, hi⟩ := Option.bind_eq_some_iff.1 h
  obtain ⟨h1, h2⟩ : q.first + start ≤ i ∧ i < q.first + q.count := by simpa using List.find?_some hi
  obtain ⟨-, -, -, sorted, -⟩ := agree e (List.mem_of_find?_eq_some he)
  exact ⟨e, he, List.mem_of_find?_eq_some hi, h1, h2, fun j hj h3 h4 => find?_least sorted hi j hj (by simp [h3, h4])⟩

theorem firstOccupied_none {s : State} {q : Part} {start : Nat} (h : firstOccupied s q start = none) {e : TitleEntry}
    (he : findTitle s q.key = some e) : ∀ j ∈ e.occupied, q.first + start ≤ j → ¬j < q.first + q.count := by
  rw [firstOccupied, he, Option.bind_some, List.find?_eq_none] at h
  intro j hj h1 h2
  exact h j hj (by simp [h1, h2])

/-- The search for an occupied block finds the first at or after the position, or there is none (R80). -/
theorem nextOccupied_go_spec {s : State} (agree : s.titlesAgree) (parts : List Part) (qs : List Part) (n start : Nat) (hn : 1 ≤ n)
    (hqs : parts.drop (n - 1) = qs) :
    (∀ r, nextOccupied.go s n start qs = some r → OccupiedAt s parts r ∧ Pos.upTo ⟨n, start⟩ r ∧
      ∀ r', OccupiedAt s parts r' → Pos.upTo ⟨n, start⟩ r' → Pos.upTo r r') ∧
    (nextOccupied.go s n start qs = none → ∀ r, OccupiedAt s parts r → ¬Pos.upTo ⟨n, start⟩ r) := by
  induction qs generalizing n start with
  | nil =>
    refine ⟨fun r hr => by simp [nextOccupied.go] at hr, fun _ r ⟨q, e, hq, _⟩ hup => ?_⟩
    have short : parts.length ≤ n - 1 := List.drop_eq_nil_iff.1 hqs
    unfold partAt at hq
    split at hq
    · cases hq
    · have := (List.getElem?_eq_some_iff.1 hq).1
      simp only [Pos.upTo] at hup
      omega
  | cons q qs ih =>
    have hhere : ∀ r : Pos, r.part = n → partAt parts r = some q := by
      rintro r rfl
      have : (parts.drop (r.part - 1))[0]? = some q := by rw [hqs]; rfl
      rw [List.getElem?_drop] at this
      rw [partAt, if_neg (by omega)]
      exact this
    have hnext : parts.drop (n + 1 - 1) = qs := by
      have : (parts.drop (n - 1)).drop 1 = qs := by rw [hqs]; rfl
      rw [List.drop_drop] at this
      rwa [show n - 1 + 1 = n + 1 - 1 by omega] at this
    cases hf : firstOccupied s q start with
    | some i =>
      rw [nextOccupied_go_found hf]
      obtain ⟨e, he, hmem, h1, h2, least⟩ := firstOccupied_some agree hf
      refine ⟨fun r hr => ?_, fun h => by cases h⟩
      obtain rfl := Option.some.inj hr
      refine ⟨⟨q, e, hhere _ rfl, ?_, he, ?_⟩, .inr ⟨rfl, ?_⟩, fun r' ⟨q', e', hq', hlt, he', hmem'⟩ hup => ?_⟩
      · show i - q.first < q.count
        omega
      · show q.first + (i - q.first) ∈ e.occupied
        rwa [Nat.add_sub_of_le (by omega)]
      · show start ≤ i - q.first
        omega
      · rcases hup with hup | ⟨hpart, hblock⟩
        · exact .inl hup
        · obtain rfl : q = q' := Option.some.inj ((hhere r' hpart.symm).symm.trans hq')
          obtain rfl : e = e' := Option.some.inj (he.symm.trans he')
          have := least _ hmem' (Nat.add_le_add_left hblock _) (by omega)
          exact .inr ⟨hpart, show i - q.first ≤ r'.block by omega⟩
    | none =>
      rw [nextOccupied_go_skip hf]
      obtain ⟨found, missing⟩ := ih (n + 1) 0 (by omega) hnext
      have later : ∀ r, OccupiedAt s parts r → Pos.upTo ⟨n, start⟩ r → Pos.upTo ⟨n + 1, 0⟩ r := by
        rintro r ⟨q', e', hq', hlt, he', hmem'⟩ (hup | ⟨hpart, hblock⟩)
        · simp only [Pos.upTo] at hup ⊢
          omega
        · obtain rfl : q = q' := Option.some.inj ((hhere r hpart.symm).symm.trans hq')
          exact absurd (by omega) (firstOccupied_none hf he' _ hmem' (Nat.add_le_add_left hblock _))
      refine ⟨fun r hr => ?_, fun hr r hocc hup => missing hr r hocc (later r hocc hup)⟩
      obtain ⟨hocc, hup, least⟩ := found r hr
      refine ⟨hocc, ?_, fun r' hocc' hup' => least r' hocc' (later r' hocc' hup')⟩
      simp only [Pos.upTo] at hup ⊢
      omega

/-! ## The mapping of blocks (R11) -/

theorem mapBlock_append (before : List Extent) (x : Extent) (behind : List Extent) {i : Nat} (h : i < x.count) :
    mapBlock (before ++ x :: behind) ((before.map (·.count)).sum + i) = some (x.first + i) := by
  induction before with
  | nil => simp [mapBlock, h]
  | cons y before ih =>
    simp only [List.cons_append, List.map_cons, List.sum_cons]
    rw [mapBlock, if_neg (by omega), show y.count + (before.map (·.count)).sum + i - y.count = (before.map (·.count)).sum + i by omega]
    exact ih

theorem mapBlock_beyond {xs : List Extent} {i : Nat} (h : (xs.map (·.count)).sum ≤ i) : mapBlock xs i = none := by
  induction xs generalizing i with
  | nil => rfl
  | cons x xs ih =>
    simp only [List.map_cons, List.sum_cons] at h
    rw [mapBlock, if_neg (by omega)]
    exact ih (by omega)

/-- Settles O24: who is granted the window, what a bay asks for, the search for occupied blocks and the mapping, each by its own lemma. -/
theorem windowGoesToItsReader : Obligations.WindowGoesToItsReader := by
  unfold Obligations.WindowGoesToItsReader
  intro s hp
  have done : exec .windowStart s = .next (startWindow s).stamped := event_powered _ hp
  refine ⟨fun hg => ?_, fun hg => ⟨fun r hr h => ?_, fun hr h => ?_, fun b k i p e master h hr before he hm => ?_⟩,
    fun k rest e hq he => ?_, fun b p q hs hq => ⟨fun hst hroom hn => feedRequest_writing hs hst hroom hn hq,
      fun n hst hph hbuf hmark hi hn => feedRequest_verifying hs hst hph hbuf hmark (hn ▸ locate_cartBlock hq hi) hq⟩,
    fun parts p agree hpart => ?_, fun before x behind i h => mapBlock_append before x behind h, fun xs i h => mapBlock_beyond h,
    fun b r => feedRequest_inv⟩
  · rw [done, startWindow_outstanding hg]
  · rw [done, startWindow_survey hg hr h]
  · rw [done, startWindow_idle hg hr h]
  · rw [done, startWindow_bay hg h (nextBay_eq_some (by rw [hr]; rfl) before), grantBay_eq hr he hm]
  · rw [surveyRead, hq]
    simp only [he, Option.map_some, List.isEmpty_iff]
  · obtain ⟨found, missing⟩ := nextOccupied_go_spec agree parts _ p.part p.block hpart rfl
    refine ⟨found, missing, ?_⟩
    unfold fetchAfter
    cases nextOccupied s parts (nextPos parts p) <;> rfl

/-! ## A feed read completes with data (R23, R81, R82, R85) -/

/-- The place granted takes its block, as the statement writes it. -/
theorem deliver_eq (data : List Byte) (x : Bay) : deliver data x =
    { x with buffer := x.buffer.map fun f => if f.data = none then { f with data := some data } else f } := by
  simp only [deliver, replace, Option.isNone_iff_eq_none]

theorem feedData_discarded {s : State} {g : Grant} {b : BayId} (hg : s.grant = some g) (hr : g.requester = .bay b)
    (hd : g.discarded = true) (data : List Byte) : feedData data s = { s with grant := none } := by
  simp only [feedData, hg, hr, hd, if_true]

/-- A block that is held: its bay, and then what that bay does at once. -/
theorem feedData_held {s : State} {g : Grant} {b : BayId} (hg : s.grant = some g) (hr : g.requester = .bay b)
    (hd : g.discarded = false) (data : List Byte) : feedData data s =
      startWrite b { s with grant := none, bays := s.bays.set b.val (deliver data (getBay s b)) } := by
  simp only [feedData, hg, hr, hd, Bool.false_eq_true, if_false]
  rfl

/-- A write begun by a bay whose record was just replaced. -/
theorem beginWrite_bays (b : BayId) (block : Nat) (data : List Byte) (x : Bay) (s : State) :
    beginWrite b block data { s with bays := s.bays.set b.val x } =
      { s with bays := s.bays.set b.val { x with
          checkList := recordWrite block (crc16 data) x.checkList, ackTimer := some 0, writes := x.writes + 1 } } := by
  simp [beginWrite, updateBay, setBay, getBay]

section
variable {s : State} {b : BayId}

/-- A bay that awaits an acknowledgement begins no write (R82). -/
theorem startWrite_awaiting (h : (getBay s b).ackTimer ≠ none) : startWrite b s = s := by
  rw [startWrite]
  dsimp only
  rw [if_pos (Option.isSome_iff_ne_none.2 h)]

variable (idle : (getBay s b).ackTimer = none)
include idle

/-- In WRITING, the block at the head of the buffer is written if it is the one at the write position (R82). -/
theorem startWrite_writing (hst : (getBay s b).state = .writing) (hpart : (getBay s b).writePos.part ≤ (jobParts s b).length) {p : Pos}
    {data : List Byte} {rest : List FeedBlock} (hbuf : (getBay s b).buffer = ⟨p, some data⟩ :: rest) :
    startWrite b s = if p = (getBay s b).writePos then beginWrite b (cartBlock (jobParts s b) p) data s else s := by
  simp only [startWrite, idle, hst, hbuf, Option.isSome_none, Bool.false_eq_true, if_false, if_neg (Nat.not_lt.2 hpart)]

/-- In VERIFYING, the block marked for rewrite is written when it has come (R85). -/
theorem startWrite_verifying (hst : (getBay s b).state = .verifying) (hph : (getBay s b).phase = some .data) {block : Nat}
    (hmark : (getBay s b).rewriteMark = some block) {p : Pos} {data : List Byte} {rest : List FeedBlock}
    (hbuf : (getBay s b).buffer = ⟨p, some data⟩ :: rest) : startWrite b s = beginWrite b block data s := by
  simp only [startWrite, idle, hst, hph, hmark, hbuf, Option.isSome_none, Bool.false_eq_true, if_false]

end

/-- Settles O25: the block delivered, and the write that it lets begin. -/
theorem feedDataIsHeldOrWritten : Obligations.FeedDataIsHeldOrWritten := by
  unfold Obligations.FeedDataIsHeldOrWritten
  intro s g b data hp hg hr x held becomes
  have done : exec (.feedReadData data) s = .next (feedData data s).stamped := event_powered _ hp
  have hheld : deliver data x = held := deliver_eq data x
  let u : State := { s with grant := none, bays := s.bays.set b.val held }
  have hu : getBay u b = held := by simp [u, getBay]
  have parts : jobParts u b = jobParts s b := by
    unfold jobParts
    rw [hu]
    rfl
  have kept : g.discarded = false → exec (.feedReadData data) s = .next (startWrite b u).stamped := by
    intro hd
    rw [done, feedData_held hg hr hd, hheld]
  refine ⟨fun hd => ?_, fun hd hack => ?_, fun hd hack hst hpart p q rest hbuf => ?_, fun hd hack hst hph p block hbuf hmark => ?_⟩
  · rw [done, feedData_discarded hg hr hd]
  · show exec _ s = _
    rw [kept hd, startWrite_awaiting (by rw [hu]; exact hack)]
  · have hbuf' : ∃ rest', held.buffer = ⟨p, some (q.getD data)⟩ :: rest' := by
      cases q <;> exact ⟨_, by simp [held, x] at hbuf ⊢; simp [hbuf]; rfl⟩
    obtain ⟨rest', hbuf'⟩ := hbuf'
    have write := startWrite_writing (s := u) (b := b) (by rw [hu]; exact hack) (by rw [hu]; exact hst) (by rw [hu, parts]; exact hpart)
      (by rw [hu]; exact hbuf')
    rw [hu, parts] at write
    refine ⟨fun hne => ?_, fun heq => ?_⟩
    · show exec _ s = _
      rw [kept hd, write, if_neg hne]
    · show exec _ s = _
      rw [kept hd, write, if_pos heq, beginWrite_bays b _ _ held { s with grant := none }]
  · have hbuf' : held.buffer = [⟨p, some data⟩] := by
      simp [held, hbuf]
    have write := startWrite_verifying (s := u) (b := b) (by rw [hu]; exact hack) (by rw [hu]; exact hst) (by rw [hu]; exact hph)
      (by rw [hu]; exact hmark) (by rw [hu]; exact hbuf')
    show exec _ s = _
    rw [kept hd, write, beginWrite_bays b _ _ held { s with grant := none }]

end Sys2Proof.Machine
end

section
/-! SUPPORT. What the loss of a job line does: the deleted job, the line's loss, what becomes of the shipment (R47, R143; O27). -/

namespace Sys2Proof.Machine

/-! ## The record updates, as the statements write them -/

theorem updatePatron_eq (n : Nat) (f : Patron → Patron) (s : State) : updatePatron n f s = s.withPatron n f := by
  simp only [updatePatron, State.withPatron, replace, beq_iff_eq]

theorem updateShipment_eq (n : Nat) (f : Shipment → Shipment) (s : State) : updateShipment n f s = s.withShipment n f := by
  simp only [updateShipment, State.withShipment, replace, beq_iff_eq]

theorem updateContainer_eq (n : Nat) (f : Container → Container) (s : State) : updateContainer n f s =
    { s with containers := s.containers.map fun c => if c.number = n then f c else c } := by
  simp only [updateContainer, replace, beq_iff_eq]

theorem openContainer_eq (s : State) (n : Nat) :
    openContainer s n = s.containers.find? fun c => c.shipment = n ∧ c.state = .open := by
  unfold openContainer
  congr 1
  funext c
  rw [Bool.eq_iff_iff]
  simp

theorem filter_key_bne {α : Type} (key : α → Nat) (n : Nat) (l : List α) : l.filter (key · != n) = l.filter fun x => key x ≠ n :=
  List.filter_congr fun x _ => by rw [Bool.eq_iff_iff]; simp

/-- A record changed under its key and then struck out by it is struck out. -/
theorem filter_replace {α : Type} (key : α → Nat) (n : Nat) {f : α → α} (keep : ∀ x, key (f x) = key x) (l : List α) :
    (replace (key · == n) f l).filter (key · != n) = l.filter (key · != n) := by
  induction l with
  | nil => rfl
  | cons x xs ih =>
    simp only [replace, List.map_cons] at ih ⊢
    by_cases h : key x = n <;> simpa [h, keep] using ih

/-! ## A job deleted (R65) -/

/-- What the loss of one part does to the title table: one reference fewer, and a RETIRING entry that falls to 0 is gone (R5, R6). -/
def loweredTitles (l : List TitleEntry) (p : Part) : List TitleEntry :=
  l.filterMap fun e =>
    if e.key = p.key then if e.state = .retiring ∧ e.refs ≤ 1 then none else some { e with refs := e.refs - 1 } else some e

theorem lowerRef_eq (p : Part) (s : State) : lowerRef p.key s = { s with titles := loweredTitles s.titles p } := by
  simp only [lowerRef, loweredTitles, beq_iff_eq, Bool.and_eq_true, decide_eq_true_eq]

theorem foldl_lowerRef (parts : List Part) (s : State) :
    parts.foldl (fun u p => lowerRef p.key u) s = { s with titles := parts.foldl loweredTitles s.titles } := by
  induction parts generalizing s with
  | nil => rfl
  | cons p ps ih => rw [List.foldl_cons, ih, lowerRef_eq, List.foldl_cons]

theorem deleteJob_eq {s : State} {n : Nat} {j : Job} (h : findJob s n = some j) : deleteJob n s =
    { s with jobs := s.jobs.filter fun k => k.number ≠ n, titles := j.parts.foldl loweredTitles s.titles } := by
  simp only [deleteJob, h, foldl_lowerRef, filter_key_bne]

theorem deleteJob_missing {s : State} {n : Nat} (h : findJob s n = none) : deleteJob n s = s := by
  simp only [deleteJob, h]

/-! ## The items a job carried (R47) -/

theorem releaseItems_eq (s : State) (parts : List Part) (p : Patron) : releaseItems s parts p =
    { p with list := p.list.map fun i =>
        if i.state = .inShipment ∧ ∃ q ∈ parts, i.title = q.key.title ∧ i.medium = q.key.medium then
          { i with state := if readyEntry s i.title i.medium = none then .awaitingMaster else .waiting }
        else i } := by
  have each : ∀ i, (if carriedBy parts i then releasedItem s i else i) =
      if i.state = .inShipment ∧ ∃ q ∈ parts, i.title = q.key.title ∧ i.medium = q.key.medium then
        { i with state := if readyEntry s i.title i.medium = none then ItemState.awaitingMaster else .waiting }
      else i := by
    intro i
    have carried : carriedBy parts i = true ↔ i.state = .inShipment ∧ ∃ q ∈ parts, i.title = q.key.title ∧ i.medium = q.key.medium := by
      simp [carriedBy, isItem]
    refine if_congr carried ?_ rfl
    cases h : readyEntry s i.title i.medium <;> simp [releasedItem, h]
  simp only [releaseItems, replace, each]

/-- The line's loss, before what becomes of the shipment is looked at. -/
theorem dropLine_eq {s : State} {j : Job} {sh : Shipment} (h : findShipment s j.shipment = some sh) : dropLine j s =
    afterDrop j.shipment (updatePatron sh.patron (fun p => releaseItems s j.parts { p with commCarts := p.commCarts - 1 })
      (updateShipment j.shipment
        (fun x => { x with jobLines := x.jobLines.filter fun l => l.job ≠ j.number, toScan := x.toScan - 1 }) s)) := by
  simp only [dropLine, h, filter_key_bne]

theorem dropLine_missing {s : State} {j : Job} (h : findShipment s j.shipment = none) : dropLine j s = s := by
  simp only [dropLine, h]

/-! ## What becomes of the shipment (R49, R143) -/

theorem freeAndAppend_eq {s : State} {n : Nat} {sh : Shipment} (h : findShipment s n = some sh) : freeAndAppend n s =
    appendEligible sh.patron (State.withPatron { s with shipments := s.shipments.filter fun x => x.number ≠ n } sh.patron
      fun p => { p with shipment := none }) := by
  simp only [freeAndAppend, freeShipment, h, updatePatron_eq, filter_key_bne]

theorem freeAndAppend_missing {s : State} {n : Nat} (h : findShipment s n = none) : freeAndAppend n s = s := by
  simp only [freeAndAppend, h]

theorem sealShipment_eq (n : Nat) (s : State) :
    sealShipment n s = (s.withShipment n fun x => { x with state := .sealed }).flagged .shipmentSealed := by
  rw [sealShipment, setEvent_flagged, updateShipment_eq]

theorem shipments_sealShipment (n : Nat) (s : State) :
    (sealShipment n s).shipments = replace (·.number == n) (fun x => { x with state := .sealed }) s.shipments := by
  rw [sealShipment, setEvent_flagged]
  rfl

/-- A shipment that is sealed and freed at once leaves the table as it was without it. -/
theorem freeAndAppend_sealShipment {s : State} {n : Nat} {sh : Shipment} (h : findShipment s n = some sh) :
    freeAndAppend n (sealShipment n s) =
      appendEligible sh.patron (State.withPatron { sealShipment n s with shipments := s.shipments.filter fun x => x.number ≠ n } sh.patron
        fun p => { p with shipment := none }) := by
  have found : findShipment (sealShipment n s) n = some { sh with state := .sealed } := by
    have := findShipment_updateShipment n (fun x => { x with state := ShipmentState.sealed }) (fun _ => rfl) s
    rw [h] at this
    rw [findShipment, shipments_sealShipment]
    exact this
  have gone : (sealShipment n s).shipments.filter (fun x => x.number ≠ n) = s.shipments.filter fun x => x.number ≠ n := by
    rw [shipments_sealShipment, ← filter_key_bne]
    exact (filter_replace Shipment.number n (f := fun x => { x with state := .sealed }) (fun _ => rfl) _).trans (filter_key_bne _ _ _)
  rw [freeAndAppend_eq found, gone]

theorem shipments_deleteJob (n : Nat) (s : State) : (deleteJob n s).shipments = s.shipments := by
  cases h : findJob s n with
  | none => rw [deleteJob_missing h]
  | some j => rw [deleteJob_eq h]

theorem shipments_deleteLines (lines : List JobLine) (s : State) :
    (lines.foldl (fun t l => deleteJob l.job t) s).shipments = s.shipments := by
  induction lines generalizing s with
  | nil => rfl
  | cons l ls ih => rw [List.foldl_cons, ih, shipments_deleteJob]

section
variable {s : State} {n : Nat} {sh : Shipment}

theorem afterDrop_empty (h : findShipment s n = some sh) (hj : sh.jobLines = []) (hc : sh.copyLines = []) :
    afterDrop n s = freeAndAppend n s := by
  simp only [afterDrop, h, hj, hc, List.isEmpty_nil, Bool.and_self, if_true]

theorem afterDrop_missing (h : findShipment s n = none) : afterDrop n s = s := by
  simp only [afterDrop, h]

/-- A shipment with a line left goes by its state. -/
theorem afterDrop_lines (h : findShipment s n = some sh) (hl : sh.jobLines ≠ [] ∨ sh.copyLines ≠ []) :
    (sh.state = .ready ∨ sh.state = .sealed → afterDrop n s = s) ∧
    (sh.state = .assembling → afterDrop n s = readyCheck n s) ∧
    (sh.state = .packing → afterDrop n s = if sh.toScan = 0 then completeShipment sh s else refreshDeadline n s) := by
  have left : (sh.jobLines.isEmpty && sh.copyLines.isEmpty) = false := by
    rw [Bool.eq_false_iff]
    simpa [Bool.and_eq_true, List.isEmpty_iff, imp_iff_not_or] using hl
  refine ⟨fun hs => ?_, fun hs => ?_, fun hs => ?_⟩
  · rcases hs with hs | hs <;> simp only [afterDrop, h, left, hs, Bool.false_eq_true, if_false]
  · simp only [afterDrop, h, left, hs, Bool.false_eq_true, if_false]
  · simp only [afterDrop, h, left, hs, Bool.false_eq_true, if_false]

end

theorem completeShipment_open {s : State} {sh : Shipment} {c : Container} (h : openContainer s sh.number = some c) :
    completeShipment sh s = sealShipment sh.number (sealContainer c.number true s) := by
  simp only [completeShipment, h]

theorem completeShipment_marked {s : State} {sh : Shipment} {e : ContainerEntry} (h : openContainer s sh.number = none)
    (he : lastUnreleased sh = some e) : completeShipment sh s =
      sealShipment sh.number (updateContainer e.number (fun c => { c with final := true }) s) := by
  simp only [completeShipment, h, he]

theorem completeShipment_released {s : State} {sh : Shipment} (h : openContainer s sh.number = none)
    (he : lastUnreleased sh = none) : completeShipment sh s =
      freeAndAppend sh.number (sealShipment sh.number (sh.jobLines.foldl (fun t l => deleteJob l.job t) s)) := by
  simp only [completeShipment, h, he]

theorem lastUnreleased_eq (sh : Shipment) : lastUnreleased sh = (sh.containers.filter fun e => e.released = false).getLast? := by
  unfold lastUnreleased
  congr 1
  exact List.filter_congr fun e _ => by cases e.released <;> rfl

theorem lastUnreleased_none {sh : Shipment} (h : ∀ e ∈ sh.containers, e.released = true) : lastUnreleased sh = none := by
  rw [lastUnreleased, List.getLast?_eq_none_iff, List.filter_eq_nil_iff]
  intro e he
  simp [h e he]

/-! ## Readiness (R64, R144, R145) -/

/-- A job line is in when its job is DONE with a cartridge record of the kind asked for. -/
theorem lineIn_iff (s : State) (ok : Cartridge → Bool) (l : JobLine) : lineIn s ok l = true ↔
    ∃ j serial c, findJob s l.job = some j ∧ j.state = .done ∧ j.serial = some serial ∧ findCart s serial = some c ∧ ok c = true := by
  unfold lineIn
  cases hj : findJob s l.job with
  | none => simp
  | some j =>
    cases hs : j.serial with
    | none => simp [hs]
    | some serial =>
      cases hc : findCart s serial with
      | none => simp [hs, hc]
      | some c => simp [hs, hc]

theorem allWritten_iff (s : State) (sh : Shipment) : allWritten s sh = true ↔
    ∀ l ∈ sh.jobLines, ∃ j serial c, findJob s l.job = some j ∧ j.state = .done ∧ j.serial = some serial ∧
      findCart s serial = some c ∧ c.state = .written := by
  simp only [allWritten, List.all_eq_true, lineIn_iff, beq_iff_eq]

theorem readyToPack_iff (s : State) (sh : Shipment) : readyToPack s sh = true ↔
    (∀ l ∈ sh.jobLines, ∃ j serial c, findJob s l.job = some j ∧ j.state = .done ∧ j.serial = some serial ∧
      findCart s serial = some c ∧ c.shipment = some sh.number ∧ (c.state = .written ∨ c.state = .packed)) ∧
    ∀ id ∈ sh.copyLines, ∃ c, findCopy s id = some c ∧ c.shipment = some sh.number ∧ (c.state = .allocated ∨ c.state = .packed) := by
  have copies : ∀ id, (match findCopy s id with
      | some c => c.shipment == some sh.number && (c.state == .allocated || c.state == .packed)
      | none => false) = true ↔
      ∃ c, findCopy s id = some c ∧ c.shipment = some sh.number ∧ (c.state = .allocated ∨ c.state = .packed) := by
    intro id
    cases findCopy s id <;> simp
  rw [readyToPack, Bool.and_eq_true]
  refine and_congr ?_ ?_
  · simp only [List.all_eq_true, lineIn_iff, Bool.and_eq_true, Bool.or_eq_true, beq_iff_eq]
  · rw [List.all_eq_true]
    exact forall₂_congr fun id _ => copies id

section
variable {s : State} {n : Nat} {sh : Shipment} (h : findShipment s n = some sh)
include h

theorem readyCheck_ready (hs : sh.state = .assembling) (hw : allWritten s sh = true) :
    readyCheck n s = (s.withShipment n fun x => { x with state := .ready }).flagged .shipmentReady := by
  simp only [readyCheck, h, hs, hw, beq_self_eq_true, Bool.and_self, if_true]
  rw [setEvent_flagged, updateShipment_eq]

theorem readyCheck_not_yet (hs : sh.state ≠ .assembling ∨ ¬allWritten s sh = true) : readyCheck n s = s := by
  simp only [readyCheck, h]
  exact if_neg (by simpa [imp_iff_not_or] using hs)

theorem refreshDeadline_none (hs : sh.state ≠ .packing ∨ openContainer s n = none) : refreshDeadline n s = s := by
  by_cases hp : sh.state = .packing
  · simp only [refreshDeadline, h, hp, beq_self_eq_true, if_true, hs.resolve_left (not_not_intro hp)]
  · simp only [refreshDeadline, h, beq_iff_eq, if_neg hp]

theorem refreshDeadline_open {c : Container} (hs : sh.state = .packing) (hc : openContainer s n = some c) : refreshDeadline n s =
    updateContainer c.number
      (fun x => { x with deadline := if readyToPack s sh then some (c.deadline.getD (now s + 30)) else none }) s := by
  simp only [refreshDeadline, h, hs, hc, beq_self_eq_true, if_true]

end

/-! ## PL and PK look at the shipment of a cartridge that is WRITTEN (R64, R144) -/

theorem cartWritten_named {s : State} {serial n : Nat} {c : Cartridge} (h : findCart s serial = some c) (hn : c.shipment = some n)
    (hs : c.state = .written) : cartWritten serial s = refreshDeadline n (readyCheck n s) := by
  simp only [cartWritten, h, hn, hs, beq_self_eq_true, if_true]

theorem cartWritten_unnamed {s : State} {serial : Nat}
    (h : ∀ c, findCart s serial = some c → c.shipment = none ∨ c.state ≠ .written) : cartWritten serial s = s := by
  cases hc : findCart s serial with
  | none => simp only [cartWritten, hc]
  | some c =>
    cases hn : c.shipment with
    | none => simp only [cartWritten, hc, hn]
    | some n =>
      have hs : c.state ≠ .written := (h c hc).resolve_left (by simp [hn])
      simp only [cartWritten, hc, hn, beq_iff_eq, if_neg hs]

/-- Settles O27: the job deleted, the line's loss, and what becomes of the shipment by its lines, its state and its containers. -/
theorem droppedLinesLeaveTheirShipment : Obligations.DroppedLinesLeaveTheirShipment := by
  unfold Obligations.DroppedLinesLeaveTheirShipment
  refine ⟨fun s j h => deleteJob_eq h, fun s j sh hn h => ?_, fun s sh h => ?_, fun s sh h => ?_,
    fun s serial => ⟨fun c n hc hn hs => cartWritten_named hc hn hs, cartWritten_unnamed⟩⟩
  · rw [dropLine_eq (hn ▸ h), updatePatron_eq, updateShipment_eq]
    simp only [releaseItems_eq]
  · intro freed done after
    refine ⟨fun hj hc => ?_, fun hl => ?_⟩
    · exact (afterDrop_empty h hj hc).trans (freeAndAppend_eq h)
    · obtain ⟨kept, assembling, packing⟩ := afterDrop_lines h hl
      refine ⟨kept, assembling, fun hs hscan => (packing hs).trans (if_neg (by omega)), fun hs hscan => ?_⟩
      have complete : after = completeShipment sh s := (packing hs).trans (if_pos hscan)
      intro opened
      have hopened : openContainer s sh.number = opened := openContainer_eq s _
      refine ⟨fun c hc => ?_, fun none => ⟨fun e he => ?_, fun all => ?_⟩⟩
      · rw [complete, completeShipment_open (hopened.trans hc), sealShipment_eq]
      · rw [complete, completeShipment_marked (hopened.trans none) ((lastUnreleased_eq sh).trans he), sealShipment_eq,
          updateContainer_eq]
      · have same := shipments_deleteLines sh.jobLines s
        have found : findShipment (sh.jobLines.foldl (fun t l => deleteJob l.job t) s) sh.number = some sh := by
          rw [findShipment, same]
          exact h
        rw [complete, completeShipment_released (hopened.trans none) (lastUnreleased_none all), freeAndAppend_sealShipment found, same,
          sealShipment_eq]
  · intro line written whole now' opened deadline
    have hopened : openContainer s sh.number = opened := openContainer_eq s _
    have hwritten : allWritten s sh = true ↔ written := allWritten_iff s sh
    have hwhole : readyToPack s sh = true ↔ whole := readyToPack_iff s sh
    refine ⟨fun hs hw => readyCheck_ready h hs (hwritten.2 hw), fun hs => readyCheck_not_yet h (hs.imp_right (mt hwritten.1)), hwhole,
      fun hs => refreshDeadline_none h (by rw [hopened]; exact hs), fun c hs hc => ?_⟩
    have refreshed := refreshDeadline_open h hs (hopened.trans hc)
    refine ⟨fun hw => ?_, fun hw => ?_⟩
    · rw [refreshed, updateContainer_eq, if_pos (hwhole.2 hw)]
      rfl
    · rw [refreshed, updateContainer_eq, if_neg (mt hwhole.1 hw)]

end Sys2Proof.Machine
end

section
/-! SUPPORT. The cancellation of a suspect entry's jobs: what every step of it leaves alone, the abort of a bay, the entry marked
(R24, R48, R66, R92, R93; O26). -/

namespace Sys2Proof.Machine

/-! ## What the loss of lines and the abort of bays leave alone -/

/-- A state without the fields that the loss of a line may change. -/
def offLines (s : State) : State :=
  { s with
    titles := [], patrons := [], eligibility := [], shipments := [], jobs := [], containers := [], sealCounter := 0, batches := []
    events := State.reset.events, latch := false, tx := [] }

/-- A state without the fields that the abort of a bay may change. -/
def offBays (s : State) : State := { s with bays := State.reset.bays, cartridges := [], grant := none }

/-- From `s` to `t`, SUSPECT and the latch stay set, a job's record is as it was or gone, and every title entry comes from one with its
key and state. -/
structure Follows (s t : State) : Prop where
  suspect : s.events.suspect = true → t.events.suspect = true
  latch   : s.latch = true → t.latch = true
  jobs    : ∀ n, findJob t n = none ∨ findJob t n = findJob s n
  titles  : ∀ f ∈ t.titles, ∃ e ∈ s.titles, e.key = f.key ∧ e.state = f.state

/-- `Follows`, with nothing else changed but what the loss of a line may change. -/
structure LosesLine (s t : State) : Prop extends Follows s t where
  frame : offLines t = offLines s

/-- `Follows`, with nothing else changed but what the loss of lines and the abort of bays may change; no grant arises. -/
structure Cancels (s t : State) : Prop extends Follows s t where
  frame : offLines (offBays t) = offLines (offBays s)
  grant : s.grant = none → t.grant = none

section
variable {s t u : State}

theorem Follows.of_same (hj : t.jobs = s.jobs) (ht : t.titles = s.titles) (he : t.events = s.events) (hl : t.latch = s.latch) :
    Follows s t where
  suspect := by rw [he]; exact id
  latch := by rw [hl]; exact id
  jobs n := .inr (by rw [findJob, findJob, hj])
  titles f hf := ⟨f, ht ▸ hf, rfl, rfl⟩

theorem Follows.trans (h : Follows s t) (k : Follows t u) : Follows s u where
  suspect := k.suspect ∘ h.suspect
  latch := k.latch ∘ h.latch
  jobs n := (k.jobs n).elim .inl fun kn => (h.jobs n).imp kn.trans kn.trans
  titles f hf := by
    obtain ⟨e, he, key, state⟩ := k.titles f hf
    obtain ⟨d, hd, key', state'⟩ := h.titles e he
    exact ⟨d, hd, key'.trans key, state'.trans state⟩

theorem LosesLine.of_same (frame : offLines t = offLines s) (hj : t.jobs = s.jobs) (ht : t.titles = s.titles)
    (he : t.events = s.events) (hl : t.latch = s.latch) : LosesLine s t := ⟨.of_same hj ht he hl, frame⟩

theorem LosesLine.refl (s : State) : LosesLine s s := .of_same rfl rfl rfl rfl rfl

theorem LosesLine.trans (h : LosesLine s t) (k : LosesLine t u) : LosesLine s u :=
  ⟨h.toFollows.trans k.toFollows, k.frame.trans h.frame⟩

theorem LosesLine.bays (h : LosesLine s t) : t.bays = s.bays := by
  have same : (offLines t).bays = (offLines s).bays := by rw [h.frame]
  exact same

theorem LosesLine.supply (h : LosesLine s t) : t.supply = s.supply := by
  have same : (offLines t).supply = (offLines s).supply := by rw [h.frame]
  exact same

theorem LosesLine.cancels (h : LosesLine s t) : Cancels s t where
  toFollows := h.toFollows
  frame := congrArg offBays h.frame
  grant hg := by
    have same : (offLines t).grant = (offLines s).grant := by rw [h.frame]
    exact same.trans hg

theorem Cancels.refl (s : State) : Cancels s s := (LosesLine.refl s).cancels

theorem Cancels.trans (h : Cancels s t) (k : Cancels t u) : Cancels s u :=
  ⟨h.toFollows.trans k.toFollows, k.frame.trans h.frame, k.grant ∘ h.grant⟩

end

/-! ## Each operation of a line's loss -/

theorem losesLine_setEvent (f : EventFlag) (s : State) : LosesLine s (setEvent f s) := by
  have suspect : s.events.suspect = true → (s.events.set f).suspect = true := by
    intro h
    cases f
    case suspect => rfl
    all_goals exact h
  rw [setEvent_flagged]
  exact ⟨⟨suspect, fun _ => rfl, fun _ => .inr rfl, fun e he => ⟨e, he, rfl, rfl⟩⟩, rfl⟩

theorem loweredTitles_from (parts : List Part) (l : List TitleEntry) :
    ∀ f ∈ parts.foldl loweredTitles l, ∃ e ∈ l, e.key = f.key ∧ e.state = f.state := by
  induction parts generalizing l with
  | nil => exact fun f hf => ⟨f, hf, rfl, rfl⟩
  | cons p ps ih =>
    intro f hf
    obtain ⟨e, he, key, state⟩ := ih _ f hf
    obtain ⟨d, hd, becomes⟩ := List.mem_filterMap.1 he
    refine ⟨d, hd, ?_⟩
    rw [← key, ← state]
    split at becomes
    · split at becomes
      · cases becomes
      · cases becomes
        exact ⟨rfl, rfl⟩
    · cases becomes
      exact ⟨rfl, rfl⟩

/-- A job struck out by its number is not found by it, and every other is found as before. -/
theorem find?_filter_number (l : List Job) (m n : Nat) :
    (l.filter fun k => k.number ≠ m).find? (·.number == n) = if n = m then none else l.find? (·.number == n) := by
  split
  next h =>
    subst h
    rw [List.find?_eq_none]
    intro j hj
    simpa using (List.mem_filter.1 hj).2
  next h =>
    rw [List.find?_filter]
    congr 1
    funext j
    by_cases hj : j.number = n
    · simp [hj, h]
    · simp [hj]

theorem findJob_deleteJob (s : State) (m n : Nat) : findJob (deleteJob m s) n = if n = m then none else findJob s n := by
  cases h : findJob s m with
  | none =>
    rw [deleteJob_missing h]
    split
    next hn => rw [hn, h]
    next => rfl
  | some j =>
    rw [deleteJob_eq h]
    exact find?_filter_number _ _ _

theorem losesLine_deleteJob (n : Nat) (s : State) : LosesLine s (deleteJob n s) := by
  have jobs : ∀ m, findJob (deleteJob n s) m = none ∨ findJob (deleteJob n s) m = findJob s m := fun m => by
    rw [findJob_deleteJob]
    exact ite_eq_or_eq _ _ _
  cases h : findJob s n with
  | none =>
    rw [deleteJob_missing h]
    exact .refl s
  | some j =>
    rw [deleteJob_eq h] at jobs ⊢
    exact ⟨⟨id, id, jobs, loweredTitles_from _ _⟩, rfl⟩

theorem losesLine_deleteLines (lines : List JobLine) (s : State) :
    LosesLine s (lines.foldl (fun t l => deleteJob l.job t) s) := by
  induction lines generalizing s with
  | nil => exact .refl s
  | cons l ls ih => exact (losesLine_deleteJob l.job s).trans (ih _)

theorem losesLine_updateShipment (n : Nat) (f : Shipment → Shipment) (s : State) : LosesLine s (updateShipment n f s) :=
  .of_same rfl rfl rfl rfl rfl

theorem losesLine_updatePatron (n : Nat) (f : Patron → Patron) (s : State) : LosesLine s (updatePatron n f s) :=
  .of_same rfl rfl rfl rfl rfl

theorem losesLine_updateContainer (n : Nat) (f : Container → Container) (s : State) : LosesLine s (updateContainer n f s) :=
  .of_same rfl rfl rfl rfl rfl

theorem losesLine_appendEligible (n : Nat) (s : State) : LosesLine s (appendEligible n s) := by
  unfold appendEligible
  split
  · split
    · exact .of_same rfl rfl rfl rfl rfl
    · exact .refl s
  · exact .refl s

theorem losesLine_freeAndAppend (n : Nat) (s : State) : LosesLine s (freeAndAppend n s) := by
  cases h : findShipment s n with
  | none =>
    rw [freeAndAppend_missing h]
    exact .refl s
  | some sh =>
    rw [freeAndAppend_eq h]
    refine .trans ?_ (losesLine_appendEligible _ _)
    exact .of_same rfl rfl rfl rfl rfl

theorem losesLine_joinBatch (container batch : Nat) (s : State) : LosesLine s (joinBatch container batch s) :=
  .of_same rfl rfl rfl rfl rfl

theorem losesLine_takeSealed (container : Nat) (s : State) : LosesLine s (takeSealed container s) := by
  unfold takeSealed
  split
  · exact losesLine_joinBatch _ _ s
  · exact .refl s

theorem losesLine_sealContainer (n : Nat) (final : Bool) (s : State) : LosesLine s (sealContainer n final s) := by
  refine .trans ?_ (losesLine_takeSealed n _)
  exact .of_same rfl rfl rfl rfl rfl

theorem losesLine_sealShipment (n : Nat) (s : State) : LosesLine s (sealShipment n s) :=
  (losesLine_updateShipment n _ s).trans (losesLine_setEvent _ _)

theorem losesLine_readyCheck (n : Nat) (s : State) : LosesLine s (readyCheck n s) := by
  unfold readyCheck
  split
  · split
    · exact (losesLine_updateShipment n _ s).trans (losesLine_setEvent _ _)
    · exact .refl s
  · exact .refl s

theorem losesLine_refreshDeadline (n : Nat) (s : State) : LosesLine s (refreshDeadline n s) := by
  unfold refreshDeadline
  split
  · split
    · split
      · exact losesLine_updateContainer _ _ s
      · exact .refl s
    · exact .refl s
  · exact .refl s

theorem losesLine_completeShipment (sh : Shipment) (s : State) : LosesLine s (completeShipment sh s) := by
  unfold completeShipment
  split
  · exact (losesLine_sealContainer _ _ s).trans (losesLine_sealShipment _ _)
  · split
    · exact (losesLine_updateContainer _ _ s).trans (losesLine_sealShipment _ _)
    · exact ((losesLine_deleteLines _ s).trans (losesLine_sealShipment _ _)).trans (losesLine_freeAndAppend _ _)

theorem losesLine_afterDrop (n : Nat) (s : State) : LosesLine s (afterDrop n s) := by
  cases h : findShipment s n with
  | none =>
    rw [afterDrop_missing h]
    exact .refl s
  | some sh =>
    by_cases hl : sh.jobLines ≠ [] ∨ sh.copyLines ≠ []
    · obtain ⟨kept, assembling, packing⟩ := afterDrop_lines h hl
      cases hs : sh.state with
      | assembling => exact assembling hs ▸ losesLine_readyCheck n s
      | ready => exact (kept (.inl hs)).symm ▸ LosesLine.refl s
      | sealed => exact (kept (.inr hs)).symm ▸ LosesLine.refl s
      | packing =>
        rw [packing hs]
        split
        · exact losesLine_completeShipment sh s
        · exact losesLine_refreshDeadline n s
    · obtain ⟨hj, hc⟩ := not_or.1 hl
      rw [afterDrop_empty h (not_not.1 hj) (not_not.1 hc)]
      exact losesLine_freeAndAppend n s

theorem losesLine_dropLine (j : Job) (s : State) : LosesLine s (dropLine j s) := by
  cases h : findShipment s j.shipment with
  | none =>
    rw [dropLine_missing h]
    exact .refl s
  | some sh =>
    rw [dropLine_eq h]
    exact ((losesLine_updateShipment _ _ s).trans (losesLine_updatePatron _ _ _)).trans (losesLine_afterDrop _ _)

/-! ## A bay aborts (R92, R93) -/

theorem discardGrant_eq (b : BayId) (s : State) : discardGrant b s = s.withoutFeed b := by
  have same : ∀ g, s.grant = g → { s with grant := g } = s := by
    rintro _ rfl
    rfl
  cases hg : s.grant with
  | none => simp only [discardGrant, State.withoutFeed, hg, Option.map_none, same none hg]
  | some g =>
    simp only [discardGrant, State.withoutFeed, hg, Option.map_some]
    split
    · rfl
    · exact (same _ hg).symm

theorem setEntry_eq (b : BayId) (e : CartState) (s : State) :
    setEntry b e s = s.withCart (getBay s b).occupant fun r => { r with entry := some e } := by
  cases ho : (getBay s b).occupant with
  | none => simp [setEntry, ho, State.withCart]
  | some serial =>
    simp only [setEntry, ho, State.withCart, updateCart, replace, beq_iff_eq, Option.some.injEq, eq_comm (a := serial)]

/-- A bay's record with its job lost and nothing under way. -/
def Bay.dropped (x : Bay) : Bay := { x.quiet with job := none, checkList := [] }

/-- What an abort does before the bay's state is looked at. -/
def abandonGrant (b : BayId) (s : State) : State := (s.withoutFeed b).withBay b (getBay s b).dropped

theorem abortBay_cases (b : BayId) (s : State) : abortBay b s =
    match (getBay s b).state with
    | .paused => updateBay b (fun x => { x with pausedFrom := some .wiping }) (setEntry b .fouled (abandonGrant b s))
    | .writing => enterWiping b (abandonGrant b s)
    | .verifying => enterWiping b (abandonGrant b s)
    | _ => abandonGrant b s := by
  rw [abortBay, discardGrant_eq]
  rfl

theorem getBay_abandonGrant (b : BayId) (s : State) : getBay (abandonGrant b s) b = (getBay s b).dropped := by
  simp [abandonGrant, State.withBay, getBay]

theorem getBay_setEntry (b c : BayId) (e : CartState) (s : State) : getBay (setEntry b e s) c = getBay s c := by
  rw [setEntry_eq]
  rfl

/-- What an abort does to the bay and to its cartridge, where the bay's record becomes `f` of what is left of it. -/
theorem updateBay_setEntry_abandonGrant (b : BayId) (f : Bay → Bay) (s : State) :
    updateBay b f (setEntry b .fouled (abandonGrant b s)) =
      ((s.withoutFeed b).withCart (getBay s b).occupant fun r => { r with entry := some .fouled }).withBay b (f (getBay s b).dropped) := by
  rw [updateBay, getBay_setEntry, getBay_abandonGrant, setEntry_eq, getBay_abandonGrant]
  have occupant : (getBay s b).dropped.occupant = (getBay s b).occupant := rfl
  rw [occupant]
  simp only [setBay, abandonGrant, State.withBay, State.withCart, State.withoutFeed, Vector.set_set]

theorem abortBay_paused {b : BayId} {s : State} (h : (getBay s b).state = .paused) : abortBay b s =
    ((s.withoutFeed b).withCart (getBay s b).occupant fun r => { r with entry := some .fouled }).withBay b
      { (getBay s b).dropped with pausedFrom := some .wiping } := by
  rw [abortBay_cases, h]
  exact updateBay_setEntry_abandonGrant b _ s

theorem abortBay_wiping {b : BayId} {s : State} (h : (getBay s b).state = .writing ∨ (getBay s b).state = .verifying) : abortBay b s =
    ((s.withoutFeed b).withCart (getBay s b).occupant fun r => { r with entry := some .fouled }).withBay b
      { (getBay s b).dropped with
        state := if s.supply = .low then .paused else .wiping
        pausedFrom := if s.supply = .low then some .wiping else none
        wipeTimer := 0 } := by
  have wiping : abortBay b s = enterWiping b (abandonGrant b s) := by
    rcases h with h | h <;> rw [abortBay_cases, h]
  have supply : (abandonGrant b s).supply = s.supply := rfl
  rw [wiping, enterWiping, updateBay_setEntry_abandonGrant, supply]
  split <;> rfl

/-- In any other state, only the bay's job, its feed and what it had under way are lost. -/
theorem cancels_abandonGrant (b : BayId) (s : State) : Cancels s (abandonGrant b s) where
  toFollows := .of_same rfl rfl rfl rfl
  frame := rfl
  grant hg := by simp [abandonGrant, State.withBay, State.withoutFeed, hg]

theorem cancels_setBay (b : BayId) (x : Bay) (s : State) : Cancels s (setBay b x s) where
  toFollows := .of_same rfl rfl rfl rfl
  frame := rfl
  grant := id

theorem cancels_setEntry (b : BayId) (e : CartState) (s : State) : Cancels s (setEntry b e s) := by
  rw [setEntry_eq]
  exact ⟨.of_same rfl rfl rfl rfl, rfl, id⟩

theorem cancels_abortBay (b : BayId) (s : State) : Cancels s (abortBay b s) := by
  have start := cancels_abandonGrant b s
  have ends : ∀ f, Cancels s (updateBay b f (setEntry b .fouled (abandonGrant b s))) := fun f =>
    (start.trans (cancels_setEntry _ _ _)).trans (cancels_setBay _ _ _)
  rw [abortBay_cases]
  cases (getBay s b).state
  case paused => exact ends _
  case writing => exact ends _
  case verifying => exact ends _
  all_goals exact start

/-! ## One job, and all of them (R66) -/

theorem cancelJob_missing {s : State} {n : Nat} (h : findJob s n = none) : cancelJob n s = s := by
  simp only [cancelJob, h]

section
variable {s : State} {n : Nat} {j : Job} (h : findJob s n = some j)
include h

theorem cancelJob_done (hd : j.state = .done) : cancelJob n s = s := by
  simp only [cancelJob, h, hd, beq_self_eq_true, if_true]

theorem cancelJob_unplaced (hd : j.state ≠ .done) (hb : j.bay = none) : cancelJob n s = dropLine j (deleteJob n s) := by
  simp only [cancelJob, h, hb, beq_iff_eq, if_neg hd]

theorem cancelJob_placed (hd : j.state ≠ .done) {b : BayId} (hb : j.bay = some b) :
    cancelJob n s = dropLine j (abortBay b (deleteJob n s)) := by
  simp only [cancelJob, h, hb, beq_iff_eq, if_neg hd]

/-- A job that is not DONE is gone once it is cancelled. -/
theorem findJob_cancelJob_self (hd : j.state ≠ .done) : findJob (cancelJob n s) n = none := by
  have gone : findJob (deleteJob n s) n = none := (findJob_deleteJob s n n).trans (if_pos rfl)
  have stays : ∀ u, Follows (deleteJob n s) u → findJob u n = none := fun u k => (k.jobs n).elim id fun same => same.trans gone
  cases hb : j.bay with
  | none => exact cancelJob_unplaced h hd hb ▸ stays _ (losesLine_dropLine _ _).toFollows
  | some b => exact cancelJob_placed h hd hb ▸ stays _ ((cancels_abortBay _ _).trans (losesLine_dropLine _ _).cancels).toFollows

end

theorem cancels_cancelJob (n : Nat) (s : State) : Cancels s (cancelJob n s) := by
  cases h : findJob s n with
  | none =>
    rw [cancelJob_missing h]
    exact .refl s
  | some j =>
    by_cases hd : j.state = .done
    · rw [cancelJob_done h hd]
      exact .refl s
    · have deleted := (losesLine_deleteJob n s).cancels
      cases hb : j.bay with
      | none => exact cancelJob_unplaced h hd hb ▸ deleted.trans (losesLine_dropLine _ _).cancels
      | some b =>
        exact cancelJob_placed h hd hb ▸ (deleted.trans (cancels_abortBay _ _)).trans (losesLine_dropLine _ _).cancels

theorem cancels_cancelJobs (ns : List Nat) (s : State) : Cancels s (ns.foldl (fun t n => cancelJob n t) s) := by
  induction ns generalizing s with
  | nil => exact .refl s
  | cons n ns ih => exact (cancels_cancelJob n s).trans (ih _)

/-- Of the jobs cancelled, those still found are DONE. -/
theorem cancelJobs_done (ns : List Nat) (s : State) {n : Nat} (hn : n ∈ ns) {j : Job}
    (h : findJob (ns.foldl (fun t n => cancelJob n t) s) n = some j) : j.state = .done := by
  induction ns generalizing s with
  | nil => exact absurd hn List.not_mem_nil
  | cons m ns ih =>
    rcases List.mem_cons.1 hn with rfl | later
    · by_contra hd
      have rest : findJob (ns.foldl (fun t n => cancelJob n t) (cancelJob n s)) n = some j := h
      have mid : findJob (cancelJob n s) n = some j := by
        rcases (cancels_cancelJobs ns (cancelJob n s)).jobs n with gone | same
        · rw [gone] at rest
          cases rest
        · exact same ▸ rest
      have found : findJob s n = some j := by
        rcases (cancels_cancelJob n s).jobs n with gone | same
        · rw [gone] at mid
          cases mid
        · exact same ▸ mid
      rw [findJob_cancelJob_self found hd] at mid
      cases mid
    · exact ih _ later h

/-! ## The entry marked, and the items that wait for it (R24, R48) -/

theorem jobsNaming_eq (s : State) (k : TitleKey) :
    jobsNaming s k = (s.jobs.filter fun j => ∃ p ∈ j.parts, p.key = k).map (·.number) := by
  unfold jobsNaming
  congr 1
  exact List.filter_congr fun j _ => by rw [Bool.eq_iff_iff]; simp

theorem awaitMaster_eq (title : Nat) (m : Medium) (p : Patron) : awaitMaster title m p =
    { p with list := p.list.map fun i =>
        if i.title = title ∧ i.medium = m ∧ i.state = .waiting then { i with state := .awaitingMaster } else i } := by
  simp only [awaitMaster, replace, isItem, Bool.and_eq_true, beq_iff_eq, and_assoc]

theorem suspectItems_eq (k : TitleKey) (s : State) : suspectItems k s =
    { s with patrons := if readyEntry s k.title k.medium = none then s.patrons.map (awaitMaster k.title k.medium) else s.patrons } := by
  unfold suspectItems
  cases readyEntry s k.title k.medium <;> rfl

theorem feedError_bay {s : State} {g : Grant} {b : BayId} (hg : s.grant = some g) (hr : g.requester = .bay b) :
    feedError s = markSuspect g { s with grant := none } := by
  simp only [feedError, hg, hr]

section
variable {s : State} {g : Grant}

theorem markSuspect_nothing (h : ∀ e, findTitle s g.key = some e → e.seq = g.seq → e.state ≠ .ready ∧ e.state ≠ .retiring) :
    markSuspect g s = s := by
  cases hf : (findTitle s g.key).filter (·.seq == g.seq) with
  | none => simp only [markSuspect, hf]
  | some e =>
    obtain ⟨found, seq⟩ := Option.filter_eq_some_iff.1 hf
    obtain ⟨notReady, notRetiring⟩ := h e found (beq_iff_eq.1 seq)
    cases hs : e.state with
    | ready => exact absurd hs notReady
    | retiring => exact absurd hs notRetiring
    | surveying => simp only [markSuspect, hf, hs]
    | suspect => simp only [markSuspect, hf, hs]
    | faulted => simp only [markSuspect, hf, hs]

/-- The title table once the entry found is marked. -/
def markedTitles (s : State) (e : TitleEntry) (k : TitleKey) : List TitleEntry :=
  if e.state = .ready then s.titles.map fun x => if x.key = k then { x with state := .suspect } else x else s.titles

theorem markSuspect_handed {e : TitleEntry} (h : findTitle s g.key = some e) (hq : e.seq = g.seq)
    (hs : e.state = .ready ∨ e.state = .retiring) :
    markSuspect g s = cancelEntry g.key (State.flagged { s with titles := markedTitles s e g.key } .suspect) := by
  have found : (findTitle s g.key).filter (·.seq == g.seq) = some e := by rw [h, Option.filter_some, if_pos (beq_iff_eq.2 hq)]
  rcases hs with hs | hs
  · simp only [markSuspect, found, hs, setEvent_flagged, updateTitle_eq, markedTitles, if_true]
  · have titles : markedTitles s e g.key = s.titles := if_neg (by simp [hs])
    simp only [markSuspect, found, hs, setEvent_flagged, titles]

end

/-- `t` with the fields that a cancellation may change taken from `s`. -/
def refilled (s t : State) : State :=
  { t with
    titles := s.titles, patrons := s.patrons, eligibility := s.eligibility, shipments := s.shipments, jobs := s.jobs, bays := s.bays
    cartridges := s.cartridges, containers := s.containers, sealCounter := s.sealCounter, batches := s.batches, grant := s.grant
    events := s.events, latch := s.latch, tx := s.tx }

theorem refilled_off (s t : State) : refilled s (offLines (offBays t)) = refilled s t := rfl

/-- Settles O26: the entry marked; its jobs cancelled one by one, each step followed by `Cancels`; one job's cancellation; a bay's abort. -/
theorem mediaErrorCancelsJobs : Obligations.MediaErrorCancelsJobs := by
  unfold Obligations.MediaErrorCancelsJobs
  have done : ∀ s : State, s.power = true → exec .feedMediaError s = .next (feedError s).stamped := fun s => event_powered _
  refine ⟨fun s g b hp hg hr => ⟨fun h => ?_, fun e he hq hs => ?_⟩, fun s n h => cancelJob_missing h,
    fun s j h => ⟨cancelJob_done h, fun hd => ⟨cancelJob_unplaced h hd, fun c hb => cancelJob_placed h hd hb⟩⟩, fun s c => ?_⟩
  · rw [done s hp, feedError_bay hg hr, markSuspect_nothing (s := { s with grant := none }) h]
  · intro named marked u t
    have step : feedError s = t := by
      have wait : awaitMaster g.key.title g.key.medium = fun p : Patron => { p with
          list := p.list.map fun i =>
            if i.title = g.key.title ∧ i.medium = g.key.medium ∧ i.state = .waiting then { i with state := .awaitingMaster } else i } :=
        funext (awaitMaster_eq _ _)
      rw [feedError_bay hg hr, markSuspect_handed (s := { s with grant := none }) he hq hs, cancelEntry, jobsNaming_eq, suspectItems_eq, wait]
      rfl
    have cancelled : Cancels (marked.flagged .suspect) u := cancels_cancelJobs named _
    refine ⟨by rw [done s hp, step], cancelled.grant rfl, cancelled.suspect rfl, cancelled.latch rfl, fun hr f hf hk => ?_, fun hr f hf hk => ?_,
      fun n j hj => ?_, fun n => cancelled.jobs n, ?_⟩
    · obtain ⟨x, hx, key, state⟩ := cancelled.titles f hf
      have hx' : x ∈ s.titles.map fun x => if x.key = g.key then { x with state := .suspect } else x := by
        have titles : (marked.flagged .suspect).titles = _ := if_pos hr
        exact titles ▸ hx
      obtain ⟨x₀, -, becomes⟩ := List.mem_map.1 hx'
      have hk₀ : x₀.key = g.key := by
        rw [← hk, ← key, ← becomes]
        split <;> rfl
      rw [← state, ← becomes, if_pos hk₀]
    · obtain ⟨x, hx, key, state⟩ := cancelled.titles f hf
      have titles : (marked.flagged .suspect).titles = s.titles := if_neg (by simp [hr])
      exact ⟨x, titles ▸ hx, key.trans hk, state⟩
    · by_cases hn : n ∈ named
      · exact .inl (cancelJobs_done named _ hn hj)
      · right
        have found : findJob s n = some j := by
          rcases cancelled.jobs n with gone | same
          · have : some j = none := hj.symm.trans gone
            cases this
          · exact same.symm.trans hj
        intro p hp' hk
        refine hn (List.mem_map.2 ⟨j, List.mem_filter.2 ⟨List.mem_of_find?_eq_some found, ?_⟩, ?_⟩)
        · exact decide_eq_true ⟨p, hp', hk⟩
        · simpa using List.find?_some found
    · have back : refilled s (offLines (offBays u)) = refilled s (offLines (offBays (marked.flagged .suspect))) :=
        congrArg (refilled s) cancelled.frame
      rw [refilled_off, refilled_off] at back
      exact back
  · intro x aborted y
    refine ⟨abortBay_wiping, abortBay_paused, fun n j hj ha hb hw => ?_⟩
    have hd : j.state ≠ .done := by simp [ha]
    refine ⟨findJob_cancelJob_self hj hd, ?_⟩
    have kept : getBay (deleteJob n s) c = x := by
      rw [getBay, (losesLine_deleteJob n s).bays]
      rfl
    have supply : (deleteJob n s).supply = s.supply := (losesLine_deleteJob n s).supply
    rw [cancelJob_placed hj hd hb, getBay, (losesLine_dropLine _ _).bays, abortBay_wiping (by rw [kept]; exact hw), kept, supply]
    simp only [State.withBay, Vector.getElem_set_self]
    rfl

end Sys2Proof.Machine
end

section
/-! SUPPORT. The queries of one record: each request reads back the fields it was built of, and its rule answers without a change (O58). -/

namespace Sys2Proof.Machine

/-- A query that is served leaves the state as it is, but for the reply. -/
theorem exec_asked {c : Instr} {f : Frame} {s : State} {k : Byte} {rule rule' : State → Answer} {data : List Byte}
    (he : exec c s = serve c f rule s) (hr : rule = rule') (hc : headCommand f = c) (hb : bodyLengthOk f = true)
    (hk : replyKind f.kind = k) (ha : rule' s = (s, data)) (hs : canServe f s = true) : exec c s = .next (s.replied k f.tag data) := by
  rw [exec_served he hr hc hs hb hk, ha]

section
variable {s : State} {tag : Byte} {data : List Byte}

theorem asked_titleQuery {title medium edition start : Nat} (h1 : title < 16777216) (h2 : medium < 256) (h3 : edition < 256)
    (h4 : start < 65536) (ha : titleQueryRule title medium edition start s = (s, data))
    (hs : canServe ⟨0x12, tag, bodyOf [(3, title), (1, medium), (1, edition), (2, start)]⟩ s = true) :
    exec (.titleQuery tag (bodyOf [(3, title), (1, medium), (1, edition), (2, start)])) s = .next (s.replied (0x12 + 0x80) tag data) := by
  have f1 : field (bodyOf [(3, title), (1, medium), (1, edition), (2, start)]) 0 3 = title := field_head h1 _
  have f2 : field (bodyOf [(3, title), (1, medium), (1, edition), (2, start)]) 3 1 = medium := by
    rw [field_skip _ (by decide)]
    exact field_head h2 _
  have f3 : field (bodyOf [(3, title), (1, medium), (1, edition), (2, start)]) 4 1 = edition := by
    iterate 2 rw [field_skip _ (by decide)]
    exact field_head h3 _
  have f4 : field (bodyOf [(3, title), (1, medium), (1, edition), (2, start)]) 5 2 = start := by
    iterate 3 rw [field_skip _ (by decide)]
    exact field_head h4 _
  exact exec_asked (rule := titleQueryRule (field _ 0 3) (field _ 3 1) (field _ 4 1) (field _ 5 2)) rfl (by rw [f1, f2, f3, f4]) rfl
    (by simp [bodyLengthOk]) rfl ha hs

theorem asked_patronQuery {n : Nat} (h : n < 16777216) (ha : patronQueryRule n s = (s, data))
    (hs : canServe ⟨0x1C, tag, bodyOf [(3, n)]⟩ s = true) :
    exec (.patronQuery tag (bodyOf [(3, n)])) s = .next (s.replied (0x1C + 0x80) tag data) :=
  exec_asked (rule := patronQueryRule (field _ 0 3)) rfl (by rw [field_head h]) rfl (by simp [bodyLengthOk]) rfl ha hs

theorem asked_shipmentQuery {n : Nat} (h : n < 65536) (ha : shipmentQueryRule n s = (s, data))
    (hs : canServe ⟨0x30, tag, bodyOf [(2, n)]⟩ s = true) :
    exec (.shipmentQuery tag (bodyOf [(2, n)])) s = .next (s.replied (0x30 + 0x80) tag data) :=
  exec_asked (rule := shipmentQueryRule (field _ 0 2)) rfl (by rw [field_head h]) rfl (by simp [bodyLengthOk]) rfl ha hs

/-- A body whose first two bytes are a number above 0 is not of the form whose first two bytes are 0. -/
theorem take_two_ne_zero {n : Nat} (pos : 0 < n) (h : n < 65536) (rest : List (Nat × Nat)) : (bodyOf ((2, n) :: rest)).take 2 ≠ [0, 0] := by
  rw [take_bodyOf_pair, Ne, leBytes_two_eq_zero h]
  omega

theorem asked_jobQuery {n start : Nat} (pos : 0 < n) (h : n < 65536) (ha : jobQueryRule n s = (s, data))
    (hs : canServe ⟨0x32, tag, bodyOf [(2, n), (1, start)]⟩ s = true) :
    exec (.jobQuery tag (bodyOf [(2, n), (1, start)])) s = .next (s.replied (0x32 + 0x80) tag data) :=
  exec_asked (rule := jobQueryRule (field _ 0 2)) rfl (by rw [field_head h]) (by exact if_neg (take_two_ne_zero pos h _))
    (by simp [bodyLengthOk]) rfl ha hs

theorem asked_containerQuery {n shipment : Nat} (pos : 0 < n) (h : n < 65536) (ha : containerQueryRule n s = (s, data))
    (hs : canServe ⟨0x49, tag, bodyOf [(2, n), (2, shipment)]⟩ s = true) :
    exec (.containerQuery tag (bodyOf [(2, n), (2, shipment)])) s = .next (s.replied (0x49 + 0x80) tag data) :=
  exec_asked (rule := containerQueryRule (field _ 0 2)) rfl (by rw [field_head h]) (by exact if_neg (take_two_ne_zero pos h _))
    (by simp [bodyLengthOk]) rfl ha hs

/-- A one-byte body other than FFh. -/
theorem byte_ne_ff {n : Nat} (h : n < 255) : bodyOf [(1, n)] ≠ [0xFF] := by
  rw [bodyOf_cons, leBytes_one]
  intro e
  have : BitVec.ofNat 8 n = BitVec.ofNat 8 255 := (List.cons.inj e).1
  rw [ofNat_byte_eq (by omega) (by omega)] at this
  omega

theorem asked_bayQuery {n : Nat} (h : n < 255) (ha : bayQueryRule n s = (s, data))
    (hs : canServe ⟨0x38, tag, bodyOf [(1, n)]⟩ s = true) :
    exec (.bayQuery tag (bodyOf [(1, n)])) s = .next (s.replied (0x38 + 0x80) tag data) :=
  exec_asked (rule := bayQueryRule (field _ 0 1)) rfl (by rw [field_head (by omega)]) (by exact if_neg (byte_ne_ff h)) (by simp [bodyLengthOk]) rfl ha hs

/-- The first byte of a body tells a form from every other below 256. -/
theorem form_ne {form k : Nat} (h : form < 256) (hk : k < 256) (ne : form ≠ k) (rest : List (Nat × Nat)) :
    (bodyOf ((1, form) :: rest)).head? ≠ some (BitVec.ofNat 8 k) := by
  rw [head?_bodyOf_byte]
  exact fun e => ne ((ofNat_byte_eq h hk).1 (Option.some.inj e))

theorem asked_cartridgeQuery {form serial : Nat} (h1 : form ≠ 1) (h2 : form ≠ 2) (hf : form < 256) (h : serial < 4294967296)
    (ha : cartridgeRecordRule form serial s = (s, data)) (hs : canServe ⟨0x40, tag, bodyOf [(1, form), (4, serial)]⟩ s = true) :
    exec (.cartridgeQueryRecord tag (bodyOf [(1, form), (4, serial)])) s = .next (s.replied (0x40 + 0x80) tag data) := by
  have f1 : field (bodyOf [(1, form), (4, serial)]) 0 1 = form := field_head hf _
  have f2 : field (bodyOf [(1, form), (4, serial)]) 1 4 = serial := by
    rw [field_skip _ (by decide)]
    exact field_head h _
  have head : headCommand ⟨0x40, tag, bodyOf [(1, form), (4, serial)]⟩ = .cartridgeQueryRecord tag (bodyOf [(1, form), (4, serial)]) :=
    (if_neg (form_ne hf (by decide) h1 _)).trans (if_neg (form_ne hf (by decide) h2 _))
  have long : bodyLengthOk ⟨0x40, tag, bodyOf [(1, form), (4, serial)]⟩ = true := by
    show bodyLengthOk.byForm _ _ [5, 1, 10] = true
    rw [bodyLengthOk.byForm, f1]
    rcases form with _ | _ | _ | form
    · simp
    · exact absurd rfl h1
    · exact absurd rfl h2
    · simp
  exact exec_asked (rule := cartridgeRecordRule (field _ 0 1) (field _ 1 4)) rfl (by rw [f1, f2]) head long rfl ha hs

theorem asked_loanQuery {form kind item : Nat} (h1 : form ≠ 1) (hf : form < 256) (hk : kind < 256) (h : item < 4294967296)
    (ha : loanItemRule form kind item s = (s, data)) (hs : canServe ⟨0x52, tag, bodyOf [(1, form), (1, kind), (4, item)]⟩ s = true) :
    exec (.loanQueryItem tag (bodyOf [(1, form), (1, kind), (4, item)])) s = .next (s.replied (0x52 + 0x80) tag data) := by
  have f1 : field (bodyOf [(1, form), (1, kind), (4, item)]) 0 1 = form := field_head hf _
  have f2 : field (bodyOf [(1, form), (1, kind), (4, item)]) 1 1 = kind := by
    rw [field_skip _ (by decide)]
    exact field_head hk _
  have f3 : field (bodyOf [(1, form), (1, kind), (4, item)]) 2 4 = item := by
    iterate 2 rw [field_skip _ (by decide)]
    exact field_head h _
  have long : bodyLengthOk ⟨0x52, tag, bodyOf [(1, form), (1, kind), (4, item)]⟩ = true := by
    show bodyLengthOk.byForm _ _ [6, 5] = true
    rw [bodyLengthOk.byForm, f1]
    rcases form with _ | _ | form
    · simp
    · exact absurd rfl h1
    · simp
  exact exec_asked (rule := loanItemRule (field _ 0 1) (field _ 1 1) (field _ 2 4)) rfl (by rw [f1, f2, f3])
    (by exact if_neg (form_ne hf (by decide) h1 _)) long rfl ha hs

end

/-! ## What the rules answer -/

theorem readyEntry_eq (s : State) (title : Nat) (m : Medium) :
    readyEntry s title m = s.titles.find? fun e => e.key.title = title ∧ e.key.medium = m ∧ e.state = .ready := by
  unfold readyEntry
  congr 1
  funext e
  rw [Bool.eq_iff_iff]
  simp [and_assoc]

theorem loanItemOf_none {kind item : Nat} (h : (kind ≠ 1 ∧ kind ≠ 2) ∨ item = 0 ∨ (kind = 2 ∧ 16777215 < item)) :
    loanItemOf kind item = none := by
  unfold loanItemOf
  split
  · exact if_pos (by omega)
  · exact if_pos (by simp only [maxCopy]; omega)
  · rfl

theorem loanItemOf_some {kind item : Nat} {i : LoanItem} (pos : item ≠ 0)
    (h : (kind = 1 ∧ i = .cartridge item) ∨ (kind = 2 ∧ item ≤ 16777215 ∧ i = .copy item)) : loanItemOf kind item = some i := by
  rcases h with ⟨rfl, rfl⟩ | ⟨rfl, le, rfl⟩
  · exact if_neg pos
  · exact if_neg (by simp only [maxCopy]; omega)

/-- Settles O58: each query, its fields read back, by the case of its rule. -/
theorem recordQueries : Obligations.RecordQueries := by
  unfold Obligations.RecordQueries
  intro s tag asked
  refine ⟨fun title medium edition start h1 h2 h3 h4 => ?_, fun n h => ⟨fun hn => ?_, fun p hp => ?_⟩, fun n h => ⟨fun hn => ?_, fun sh hsh => ?_⟩,
    fun n start pos h _ => ⟨fun hn => ?_, fun j hj => ?_⟩, fun n h h' => ?_, fun b => ?_, ?_, fun form serial h1 h2 hf h => ?_,
    fun n shipment pos h _ => ⟨fun hn => ?_, fun c hc => ?_⟩, fun form kind item h1 hf hk h => ?_⟩
  · intro asks
    refine ⟨fun hm => asked_titleQuery h1 h2 h3 h4 (by simp only [titleQueryRule, mediumOf_unlisted hm]; rfl), fun m hm => ?_⟩
    subst hm
    intro found
    have same : (if edition = 0 then readyEntry s title m else findTitle s ⟨title, m, edition⟩) = found := by
      rw [readyEntry_eq]
    refine ⟨fun hn => ?_, fun e he => ⟨fun hle => ?_, fun hlt => ?_⟩⟩
    · exact asked_titleQuery h1 h2 h3 h4 (by simp only [titleQueryRule, mediumOf_mediumCode, same.trans hn]; rfl)
    · exact asked_titleQuery h1 h2 h3 h4 (by simp only [titleQueryRule, mediumOf_mediumCode, same.trans he, if_pos hle]; rfl)
    · exact asked_titleQuery h1 h2 h3 h4 (by simp only [titleQueryRule, mediumOf_mediumCode, same.trans he, if_neg (Nat.not_le.2 hlt)]; rfl)
  · exact asked_patronQuery h (by simp only [patronQueryRule, hn]; rfl)
  · exact asked_patronQuery h (by simp only [patronQueryRule, hp]; rfl)
  · exact asked_shipmentQuery h (by simp only [shipmentQueryRule, hn]; rfl)
  · exact asked_shipmentQuery h (by simp only [shipmentQueryRule, hsh]; rfl)
  · exact asked_jobQuery pos h (by simp only [jobQueryRule, hn]; rfl)
  · exact asked_jobQuery pos h (by simp only [jobQueryRule, hj]; rfl)
  · exact asked_bayQuery h' (by simp only [bayQueryRule, bayOf, dif_neg (Nat.not_lt.2 h)]; rfl)
  · exact asked_bayQuery (by omega) (by simp only [bayQueryRule, bayOf, dif_pos b.isLt]; rfl)
  · exact exec_asked (rule := rackQueryRule) rfl rfl rfl rfl rfl rfl
  · intro asks
    refine ⟨fun bad => ?_, fun hz pos => ⟨fun hn => ?_, fun c hc => ?_⟩⟩
    · exact asked_cartridgeQuery h1 h2 hf h (by simp only [cartridgeRecordRule, if_pos bad]; rfl)
    · exact asked_cartridgeQuery h1 h2 hf h (by rw [cartridgeRecordRule, if_neg (by omega), hn]; rfl)
    · exact asked_cartridgeQuery h1 h2 hf h (by rw [cartridgeRecordRule, if_neg (by omega), hc]; rfl)
  · exact asked_containerQuery pos h (by simp only [containerQueryRule, hn]; rfl)
  · exact asked_containerQuery pos h (by simp only [containerQueryRule, hc]; rfl)
  · intro asks
    refine ⟨fun bad => asked_loanQuery h1 hf hk h ?_, fun i hz pos hi => ⟨fun hn => asked_loanQuery h1 hf hk h ?_,
      fun l hl => asked_loanQuery h1 hf hk h ?_⟩⟩
    · by_cases hz : form ≠ 0
      · rw [loanItemRule, if_pos hz]
        rfl
      · rw [loanItemRule, if_neg hz, loanItemOf_none (bad.resolve_left hz)]
        rfl
    · rw [loanItemRule, if_neg (not_not_intro hz), loanItemOf_some pos hi]
      simp only [hn]
      rfl
    · rw [loanItemRule, if_neg (not_not_intro hz), loanItemOf_some pos hi]
      simp only [hl]
      rfl

end Sys2Proof.Machine
end

section
/-! SUPPORT. The bytes of the replies: optional fields, lists and minutes as R193 gives them, fill marks, the replies of 10.5 (O60). -/

namespace Sys2Proof.Machine

/-! ## The parts of a record (R192, R193) -/

theorem optField_eq (w : Nat) (x : Option Nat) : optField w x = bodyOf [(1, if x = none then 0 else 1), (w, x.getD 0)] := by
  cases x <;> simp [optField, bodyOf_cons]

theorem listField_eq {α : Type} (entry : α → List Byte) (xs : List α) :
    listField entry xs = bodyOf [(1, (xs.map entry).length)] ++ (xs.map entry).flatten := by
  rw [listField, bodyOf_cons, bodyOf_nil, List.append_nil, List.length_map, List.flatMap_def]

theorem minuteField_eq (x : Option Nat) : minuteField x = bodyOf [(4, x.getD 0xFFFFFFFF)] := by
  cases x <;> simp [minuteField, bodyOf_cons, max32]

theorem bit_contains (n : Nat) (l : List Nat) : bit (l.contains n) = if n ∈ l then 1 else 0 := by
  simp [bit]

theorem bit_in_service (x : Bay) : bit (x.state != .outOfService) = if x.state = .outOfService then 0 else 1 := by
  by_cases h : x.state = .outOfService <;> simp [bit, h]

theorem ite_isSome {α β : Type} (x : Option α) (a b : β) [Decidable (x = none)] :
    (if x.isSome then a else b) = if x = none then b else a := by
  cases x <;> simp

theorem filter_eq_true {α : Type} (f : α → Bool) (l : List α) : l.filter f = l.filter fun x => f x = true :=
  List.filter_congr fun x _ => by simp

theorem jobLineData_eq (s : State) (l : JobLine) : jobLineData s l =
    leBytes 2 l.job ++ leBytes 1 l.index ++ optField 4 l.serial
      ++ leBytes 1 (((findJob s l.job).map fun j => jobStateCode j.state).getD 0)
      ++ optField 1 (((findJob s l.job).bind (·.bay)).map (·.val)) := rfl

theorem sought_eq (title : Nat) (m : Medium) (edition : Nat) :
    sought title m edition = fun p : Content => p.key.title = title ∧ p.key.medium = m ∧ (edition = 0 ∨ p.key.edition = edition) := by
  funext p
  rw [Bool.eq_iff_iff]
  simp [sought, and_assoc]

/-! ## Fill marks (R8) -/

/-- The number whose bits below `m` are those that a test picks. -/
def bitsOf (test : Nat → Bool) (m : Nat) : Nat := (List.range m).foldl (fun acc j => if test j then acc + 2 ^ j else acc) 0

theorem bitsOf_succ (test : Nat → Bool) (m : Nat) :
    bitsOf test (m + 1) = if test m then bitsOf test m + 2 ^ m else bitsOf test m := by
  simp [bitsOf, List.range_succ]

theorem bitsOf_lt (test : Nat → Bool) (m : Nat) : bitsOf test m < 2 ^ m := by
  induction m with
  | zero => simp [bitsOf]
  | succ m ih =>
    rw [bitsOf_succ, Nat.pow_succ]
    split <;> omega

theorem testBit_bitsOf (test : Nat → Bool) (m i : Nat) : (bitsOf test m).testBit i = (decide (i < m) && test i) := by
  induction m with
  | zero => simp [bitsOf]
  | succ m ih =>
    have small := bitsOf_lt test m
    rcases lt_trichotomy i m with lt | rfl | gt
    · have low : (bitsOf test m + 2 ^ m).testBit i = (bitsOf test m).testBit i := by
        rw [Nat.add_comm, Nat.testBit_two_pow_add_gt lt]
      rw [bitsOf_succ, show decide (i < m + 1) = decide (i < m) by simp [lt, Nat.lt_succ_of_lt lt], ← ih]
      split
      · exact low
      · rfl
    · have clear : (bitsOf test i).testBit i = false := Nat.testBit_lt_two_pow small
      rw [bitsOf_succ]
      split
      next h => rw [Nat.add_comm, Nat.testBit_two_pow_add_eq, clear, h]; simp
      next h => rw [clear]; simp [h]
    · have high : bitsOf test (m + 1) < 2 ^ i :=
        (bitsOf_lt test (m + 1)).trans_le (Nat.pow_le_pow_right (by decide) gt)
      rw [Nat.testBit_lt_two_pow high]
      simp; omega

theorem length_packMarks (occupied : List Nat) (start count : Nat) : (packMarks occupied start count).length = (count + 7) / 8 := by
  simp [packMarks]

/-- Bit `i % 8` of byte `i / 8` is the mark of the block `i` after the start. -/
theorem packMarks_bit {occupied : List Nat} {start count i : Nat} {x : Byte} (h : (packMarks occupied start count)[i / 8]? = some x) :
    x.getLsbD (i % 8) = true ↔ i < count ∧ start + i ∈ occupied := by
  rw [packMarks, List.getElem?_map, Option.map_eq_some_iff] at h
  obtain ⟨k, hk, rfl⟩ := h
  obtain ⟨lt, rfl⟩ := List.getElem?_eq_some_iff.1 hk
  rw [List.getElem_range]
  have bits := testBit_bitsOf
    (fun j => 8 * (i / 8) + j < count && occupied.contains (start + 8 * (i / 8) + j)) 8 (i % 8)
  have below : i % 8 < 8 := Nat.mod_lt _ (by decide)
  have split : 8 * (i / 8) + i % 8 = i := Nat.div_add_mod i 8
  rw [BitVec.getLsbD_ofNat, Bool.and_eq_true, decide_eq_true_eq]
  refine (and_iff_right below).trans ?_
  refine (Bool.eq_iff_iff.1 bits).trans ?_
  rw [Nat.add_assoc, split]
  simp [below]

theorem findPatron_number {s : State} {n : Nat} {p : Patron} (h : findPatron s n = some p) : p.number = n := by
  simpa using List.find?_some h

/-! ## The batch that carries a container (R141, R148) -/

theorem containerCutoff_eq (s : State) (c : Container) :
    containerCutoff s c = (s.batches.find? fun b => c.batch = some b.number).map (·.cutoff) := by
  unfold containerCutoff
  cases c.batch with
  | none => simp
  | some n =>
    rw [Option.bind_some]
    congr 2
    funext b
    rw [Bool.eq_iff_iff, beq_iff_eq, decide_eq_true_eq, Option.some.injEq]
    exact eq_comm

theorem entryData_held {s : State} {n : Nat} {c : Container} (h : findContainer s n = some c) (seq : Nat) : entryData s seq ⟨n, false⟩ =
    leBytes 2 n ++ leBytes 1 seq ++ leBytes 1 (containerStateCode c.state) ++ leBytes 1 (containerKindCode c.kind) ++ leBytes 1 c.units
      ++ leBytes 1 (bit c.final) ++ minuteField (containerCutoff s c) := by
  have kept : ((findContainer s n).filter fun _ => true) = some c := by rw [h, Option.filter_some, if_pos rfl]
  simp only [entryData, Bool.not_false, kept]

theorem entryData_released (s : State) (n seq : Nat) : entryData s seq ⟨n, true⟩ =
    leBytes 2 n ++ leBytes 1 seq ++ leBytes 1 4 ++ leBytes 1 0 ++ leBytes 1 0 ++ leBytes 1 0 ++ minuteField none := by
  have gone : ((findContainer s n).filter fun _ => false) = none := by simp
  simp only [entryData, Bool.not_true, gone]

theorem sealBits_eq (c : Container) : sealBits c =
    (if c.state = .open then 0 else 1) + (if c.final = true then 2 else 0) + (if c.state = .batched then 4 else 0) := by
  cases hs : c.state <;> cases hf : c.final <;> simp [sealBits, hs, hf, bit]

/-! ## Fields read back from a body -/

theorem field_head_mod (w n : Nat) (rest : List (Nat × Nat)) : field (bodyOf ((w, n) :: rest)) 0 w = n % 256 ^ w := by
  have e : (leBytes w n ++ bodyOf rest).take w = leBytes w n := by simp
  simp only [field, bodyOf_cons, List.drop_zero, e, leNat_leBytes]

theorem packReply_eq {s : State} {sh : Shipment} {c : Container} (hsh : findShipment s sh.number = some sh)
    (hc : findContainer s c.number = some c) (old : Nat) : 0x00 :: packReply s sh.number c.number old =
      bodyOf [(1, 0), (2, sh.number), (2, ((findPatron s sh.patron).map (·.card)).getD 0), (2, c.number), (1, c.seq),
        (1, containerKindCode c.kind), (1, c.units), (1, sealBits c), (4, (containerCutoff s c).getD 0xFFFFFFFF), (2, old), (1, sh.toScan)] := by
  simp only [packReply, hsh, hc, minuteField_eq, bodyOf_cons, bodyOf_nil, List.append_nil, List.append_assoc]
  rfl

/-! ## Recall filters (R171, R175) -/

theorem lowestSlot_eq {s : State} {c : Cartridge} {a : RecallAction} (n : Fin 16) (hm : slotMatches c s.slots[n] = true)
    (ha : s.slots[n].action = a) (first : ∀ m : Fin 16, m < n → slotMatches c s.slots[m] = true → s.slots[m].action ≠ a) :
    lowestSlot s c a = n.val := by
  rw [lowestSlot, slotList, List.findIdx_eq (by simp)]
  refine ⟨?_, fun j hj => ?_⟩
  · simpa using And.intro hm ha
  · refine Bool.eq_false_iff.2 fun h => ?_
    obtain ⟨hit, same⟩ := Bool.and_eq_true_iff.1 h
    exact first ⟨j, by omega⟩ hj hit (beq_iff_eq.1 same)

theorem filterReply_none {s : State} {c : Cartridge} (h : strongestAction s c = none) : filterReply s c = [0, 255, 255] := by
  rw [filterReply, h]
  rfl

theorem filterReply_some {s : State} {c : Cartridge} {a : RecallAction} (h : strongestAction s c = some a) : filterReply s c =
    if a = .count then bodyOf [(1, 0), (1, 255), (1, lowestSlot s c a)] else bodyOf [(1, actionCode a), (1, lowestSlot s c a), (1, 255)] := by
  rw [filterReply, h]
  cases a <;> simp [bodyOf_cons]

/-- Settles O60: each record's bytes, field by field; the marks, the cut-off of the batch, and the replies of the scans by their lemmas. -/
theorem repliesCarryTheirFields : Obligations.RepliesCarryTheirFields := by
  unfold Obligations.RepliesCarryTheirFields
  intro opt listed minute yes
  have hopt : ∀ w x, optField w x = opt w x := optField_eq
  have hlist : ∀ {α : Type} (f : α → List Byte) (xs : List α), listField f xs = listed (xs.map f) := listField_eq
  have hmin : ∀ x, minuteField x = minute x := minuteField_eq
  have hyes : ∀ b, bit b = yes b := fun _ => rfl
  refine ⟨by decide, fun e start => ?_, fun s p => ?_, fun i => ?_, fun s sh => ?_, fun s j => ?_, fun j => ?_, fun x => ?_, fun x => ?_,
    fun s c => ?_, fun title edition m c => ?_, fun s h => ?_, fun c => ?_, fun s c hc => ?_, fun s c => ?_, fun b => ?_, fun s l => ?_,
    fun f => ?_, fun s sh c old hsh hc => ?_, fun s c hc => ?_, fun s c => ?_⟩
  · refine ⟨packMarks e.occupied start (marksReported e start), ?_, length_packMarks _ _ _, fun i x => packMarks_bit⟩
    simp only [titleData, hopt, hlist, hyes, marksReported, bodyOf_cons, bodyOf_nil, List.append_nil, List.append_assoc]
  · simp only [patronData, hopt, bit_contains, bodyOf_cons, bodyOf_nil, List.append_nil, List.append_assoc]
  · simp only [itemData, bodyOf_cons, bodyOf_nil, List.append_nil, List.append_assoc]
  · have lines : jobLineData s = fun l => _ := funext (jobLineData_eq s)
    simp only [shipmentData, lines, hopt, hlist, hmin, bodyOf_cons, bodyOf_nil, List.append_nil, List.append_assoc]
    rfl
  · simp only [jobData, hopt, hlist, hmin, hyes, bodyOf_cons, bodyOf_nil, List.append_nil, List.append_assoc]
    rfl
  · simp only [queuedData, hmin, hyes, bodyOf_cons, bodyOf_nil, List.append_nil, List.append_assoc]
  · rw [bayData, bit_in_service]
    simp only [ite_isSome, filter_eq_true CheckEntry.passed, hopt, hyes, bodyOf_cons, bodyOf_nil, List.append_nil, List.append_assoc]
    rfl
  · simp only [rackData, hopt, bodyOf_cons, bodyOf_nil, List.append_nil, List.append_assoc]
  · simp only [cartridgeData, hopt, hlist, hyes, bodyOf_cons, bodyOf_nil, List.append_nil, List.append_assoc]
    rfl
  · simp only [foundData, sought_eq, hopt, bodyOf_cons, bodyOf_nil, List.append_nil, List.append_assoc]
  · simp only [holdData, bodyOf_cons, bodyOf_nil, List.append_nil, List.append_assoc]
    rfl
  · simp only [heldCopyData, volumesScanned, filter_eq_true id, id_eq, hopt, bodyOf_cons, bodyOf_nil, List.append_nil, List.append_assoc]
  · simp only [pickData, hc, hmin, bodyOf_cons, bodyOf_nil, List.append_nil, List.append_assoc]
  · intro cutoff
    have hcut : containerCutoff s c = cutoff := containerCutoff_eq s c
    refine ⟨fun sh p hsh hp => ?_, fun seq hc => ?_, fun seq n => ?_, ?_⟩
    · have number : sh.patron = p.number := (findPatron_number hp).symm
      simp only [containerData, hsh, hp, Option.bind_some, Option.map_some, Option.getD_some,
        hopt, hlist, hmin, hyes, hcut, bodyOf_cons, bodyOf_nil, List.append_nil, List.append_assoc]
      rw [number]
      rfl
    · simp only [entryData_held hc, hmin, hyes, hcut, bodyOf_cons, bodyOf_nil, List.append_nil, List.append_assoc]
    · simp only [entryData_released, hmin, bodyOf_cons, bodyOf_nil, List.append_nil, List.append_assoc]
    · simp only [batchedData, hyes, bodyOf_cons, bodyOf_nil, List.append_nil, List.append_assoc]
  · simp only [batchData, hyes, bodyOf_cons, bodyOf_nil, List.append_nil, List.append_assoc]
  · intro item
    have hitem : loanItemData l.item = item := by
      simp only [item]
      cases l.item <;> rfl
    refine ⟨?_, daysOverdue s l, ?_, fun no => ?_, fun marked due => ?_⟩
    · simp only [patronLoanData, hitem, hyes, bodyOf_cons, bodyOf_nil, List.append_nil, List.append_assoc]
    · simp only [loanData, hitem, hyes, bodyOf_cons, bodyOf_nil, List.append_nil, List.append_assoc]
    · rw [daysOverdue, no]
      rfl
    · rw [daysOverdue, marked]
      exact if_pos due
  · simp only [slotData, hyes, bodyOf_cons, bodyOf_nil, List.append_nil, List.append_assoc]
  · have whole := packReply_eq hsh hc old
    have sealed := sealBits_eq c
    intro body
    have hbody : body = bodyOf _ := whole
    rw [hbody]
    have kind : containerKindCode c.kind = if c.kind = .pouch then 1 else 2 := by cases c.kind <;> rfl
    refine ⟨by simp, ?_, ?_, ?_, ?_, ?_, ?_, ?_, ?_, ?_, ?_⟩
    all_goals
      repeat rw [field_skip _ (by decide)]
      refine (field_head_mod _ _ _).trans ?_
    · rfl
    · rfl
    · rfl
    · rfl
    · rw [kind]
      split <;> rfl
    · rfl
    · rw [sealed, Nat.mod_eq_of_lt]
      split <;> split <;> split <;> decide
    · rw [containerCutoff_eq]
      rfl
    · rfl
    · rfl
  · simp only [copyReply, hc, bodyOf_cons, bodyOf_nil, List.append_nil, List.append_assoc]
  · exact ⟨filterReply_none, fun n a ha hm hn first => by rw [filterReply_some ha, lowestSlot_eq n hm hn first]⟩

end Sys2Proof.Machine
end

section
/-! SUPPORT. The end of a selection step: what the first stages leave alone, the jobs a plan becomes, the shipment created, the offer of its
jobs (R43-R45, R57-R59; O34). -/

namespace Sys2Proof.Machine

/-! ## The estimate and the volumes (R45, R57) -/

theorem foldl_max_eq (xs : List Nat) (a : Nat) : xs.foldl max a = max a (xs.foldl max 0) := by
  induction xs generalizing a with
  | nil => simp
  | cons x xs ih =>
    rw [List.foldl_cons, List.foldl_cons, ih (max a x), ih (max 0 x)]
    omega

theorem le_foldl_max {xs : List Nat} {x : Nat} (h : x ∈ xs) : x ≤ xs.foldl max 0 := by
  induction xs with
  | nil => exact absurd h List.not_mem_nil
  | cons y ys ih =>
    rw [List.foldl_cons, foldl_max_eq]
    rcases List.mem_cons.1 h with rfl | h
    · omega
    · have := ih h
      omega

theorem foldl_max_mem {xs : List Nat} (h : xs ≠ []) : xs.foldl max 0 ∈ xs := by
  induction xs with
  | nil => exact absurd rfl h
  | cons y ys ih =>
    rw [List.foldl_cons, foldl_max_eq, Nat.zero_max]
    by_cases hys : ys = []
    · simp [hys]
    · rcases le_total y (ys.foldl max 0) with le | ge
      · rw [max_eq_right le]
        exact List.mem_cons_of_mem _ (ih hys)
      · rw [max_eq_left ge]
        exact List.mem_cons_self

theorem volumesOf_cons {s : State} {c : Copy} (h : findCopy s c.id = some c) (ids : List Nat) :
    volumesOf s (c.id :: ids) = c.volumes + volumesOf s ids := by
  simp [volumesOf, h]

/-! ## The first stages (R41, R42) -/

/-- From `s` to `t`, jobs, shipments and the eligibility queue stand, and the patron served is still there, of its kind. -/
structure Gathers (n : Nat) (s t : State) : Prop where
  jobs        : t.jobs = s.jobs
  shipments   : t.shipments = s.shipments
  eligibility : t.eligibility = s.eligibility
  patron      : ∀ p, findPatron s n = some p → ∃ q, findPatron t n = some q ∧ q.kind = p.kind

section
variable {n : Nat} {s t u : State}

theorem Gathers.of_same (hj : t.jobs = s.jobs) (hs : t.shipments = s.shipments) (he : t.eligibility = s.eligibility)
    (hp : t.patrons = s.patrons) : Gathers n s t :=
  ⟨hj, hs, he, fun p h => ⟨p, by rw [findPatron, hp]; exact h, rfl⟩⟩

theorem Gathers.refl (n : Nat) (s : State) : Gathers n s s := .of_same rfl rfl rfl rfl

theorem Gathers.trans (h : Gathers n s t) (k : Gathers n t u) : Gathers n s u where
  jobs := k.jobs.trans h.jobs
  shipments := k.shipments.trans h.shipments
  eligibility := k.eligibility.trans h.eligibility
  patron p hp := by
    obtain ⟨q, hq, kind⟩ := h.patron p hp
    obtain ⟨r, hr, kind'⟩ := k.patron q hq
    exact ⟨r, hr, kind'.trans kind⟩

end

theorem gathers_updatePatron (n : Nat) {f : Patron → Patron} (number : ∀ p, (f p).number = p.number) (kind : ∀ p, (f p).kind = p.kind)
    (s : State) : Gathers n s (updatePatron n f s) :=
  ⟨rfl, rfl, rfl, fun p h => ⟨f p, by rw [findPatron_updatePatron n f number, h]; rfl, kind p⟩⟩

theorem gathers_setItem (n title : Nat) (m : Medium) (st : ItemState) (s : State) : Gathers n s (updatePatron n (setItem title m st) s) :=
  gathers_updatePatron n (f := setItem title m st) (fun _ => rfl) (fun _ => rfl) s

theorem gathers_takeReserved (n shipment : Nat) (w : Walk) (i : ListItem) : Gathers n w.state (takeReserved n shipment w i).state := by
  unfold takeReserved
  split
  · split
    · refine .trans ?_ (gathers_setItem _ _ _ _ _)
      exact .of_same rfl rfl rfl rfl
    · exact .refl n _
  · exact .refl n _

theorem gathers_walkEmbossed (n shipment : Nat) (w : Walk) (i : ListItem) : Gathers n w.state (walkEmbossed n shipment w i).state := by
  unfold walkEmbossed
  split
  · refine .trans ?_ (gathers_updatePatron n (by exact fun _ => rfl) (by exact fun _ => rfl) _)
    exact .of_same rfl rfl rfl rfl
  · split
    · refine .trans ?_ (gathers_setItem _ _ _ _ _)
      exact .of_same rfl rfl rfl rfl
    · exact .refl n _

theorem gathers_walkItem (n shipment : Nat) (w : Walk) (i : ListItem) : Gathers n w.state (walkItem n shipment w i).state := by
  unfold walkItem
  split
  · split
    · exact gathers_walkEmbossed n shipment w i
    · exact .refl n _
  · split
    · split
      · exact .refl n _
      · exact gathers_setItem _ _ _ _ _
    · exact .refl n _

theorem gathers_walk {n : Nat} {f : Walk → ListItem → Walk} (step : ∀ w i, Gathers n w.state (f w i).state) (xs : List ListItem) (w : Walk) :
    Gathers n w.state (xs.foldl f w).state := by
  induction xs generalizing w with
  | nil => exact .refl n _
  | cons x xs ih => exact (step w x).trans (ih _)

theorem gathers_firstStages (n shipment : Nat) (s : State) : Gathers n s (firstStages n shipment s).state :=
  (gathers_walk (gathers_takeReserved n shipment) _ ⟨s, [], []⟩).trans (gathers_walk (gathers_walkItem n shipment) _ _)

/-! ## The jobs of a plan (R59, R60) -/

/-- The title table with one reference more for each part that names an entry (R5). -/
def raisedTitles (l : List TitleEntry) (parts : List Part) : List TitleEntry :=
  l.map fun e => { e with refs := e.refs + (parts.filter fun p => p.key = e.key).length }

theorem raisedTitles_append (l : List TitleEntry) (a b : List Part) : raisedTitles (raisedTitles l a) b = raisedTitles l (a ++ b) := by
  simp [raisedTitles, Nat.add_assoc]

theorem raiseRef_eq (p : Part) (s : State) : raiseRef p.key s = { s with titles := raisedTitles s.titles [p] } := by
  have titles : replace (·.key == p.key) (fun e : TitleEntry => { e with refs := e.refs + 1 }) s.titles = raisedTitles s.titles [p] := by
    refine List.map_congr_left fun e _ => ?_
    by_cases h : e.key = p.key
    · simp [h]
    · simp [h, Ne.symm h]
  rw [raiseRef, updateTitle, titles]

theorem foldl_raiseRef (parts : List Part) (s : State) :
    parts.foldl (fun u p => raiseRef p.key u) s = { s with titles := raisedTitles s.titles parts } := by
  induction parts generalizing s with
  | nil =>
    have same : raisedTitles s.titles [] = s.titles := by simp [raisedTitles]
    rw [same]
    rfl
  | cons p ps ih => rw [List.foldl_cons, ih, raiseRef_eq, raisedTitles_append, List.singleton_append]

/-- The job that a cartridge of a plan becomes (R59). -/
def plannedJob (shipment : Nat) (k : Kind) (target : Option Nat) (m index : Nat) (parts : List Part) : Job :=
  ⟨m, shipment, index, k, parts, estimate parts, target, false, .queued, none, none⟩

/-- The shipment table with job lines added to one shipment. -/
def linedShipments (shipment : Nat) (lines : List JobLine) (l : List Shipment) : List Shipment :=
  replace (·.number == shipment) (fun x => { x with jobLines := x.jobLines ++ lines }) l

theorem linedShipments_nil (shipment : Nat) (l : List Shipment) : linedShipments shipment [] l = l := by
  simp [linedShipments, replace]

theorem linedShipments_append (shipment : Nat) (a b : List JobLine) (l : List Shipment) :
    linedShipments shipment b (linedShipments shipment a l) = linedShipments shipment (a ++ b) l := by
  simp only [linedShipments, replace, List.map_map]
  refine List.map_congr_left fun x _ => ?_
  by_cases h : x.number = shipment <;> simp [h]

/-- A state with what the creation of jobs changes. -/
def State.withJobs (s : State) (jobs : List Job) (counter : Nat) (shipments : List Shipment) (titles : List TitleEntry) : State :=
  { s with jobs := jobs, jobCounter := counter, shipments := shipments, titles := titles }

/-- The number the next job takes (R60). -/
def nextJobNumber (s : State) : Nat := takeNumber 65535 (s.jobs.map (·.number)) s.jobCounter

theorem createJob_eq (shipment : Nat) (k : Kind) (target : Option Nat) (s : State) (cart : Nat × List Part) :
    createJob shipment k target s cart = s.withJobs
      (insertBy jobBefore (plannedJob shipment k target (nextJobNumber s) cart.1 cart.2) s.jobs) (numberAfter 65535 (nextJobNumber s))
      (linedShipments shipment [⟨nextJobNumber s, cart.1, none⟩] s.shipments) (raisedTitles s.titles cart.2) := by
  rw [createJob, foldl_raiseRef]
  rfl

theorem nextJobNumber_free {s : State} (room : s.jobs.length < 65535) : ∀ j ∈ s.jobs, j.number ≠ nextJobNumber s := by
  have free := takeNumber_free 65535 (s.jobs.map (·.number)) s.jobCounter (by simpa using room)
  exact fun j hj e => free (List.mem_map.2 ⟨j, hj, e⟩)

theorem takeNumber_of_free {top : Nat} {held : List Nat} {n : Nat} (h : n ∉ held) : takeNumber top held n = n := by
  rw [takeNumber, takeNumber.go, if_neg (by simpa using h)]

/-- `t` is `s` after the jobs of these cartridges, numbered from `i`, have been created under these numbers. -/
structure JobsMade (shipment : Nat) (k : Kind) (target : Option Nat) (carts : List (List Part)) (i : Nat) (s t : State) (numbers : List Nat) :
    Prop where
  length : numbers.length = carts.length
  frame  : t = s.withJobs t.jobs t.jobCounter
    (linedShipments shipment ((numbers.zipIdx i).map fun x => ⟨x.1, x.2, none⟩) s.shipments) (raisedTitles s.titles carts.flatten)
  perm   : t.jobs.Perm ((numbers.zip (carts.zipIdx i)).map (fun x => plannedJob shipment k target x.1 x.2.2 x.2.1) ++ s.jobs)
  sorted : s.jobs.Pairwise (fun a b => a.number ≤ b.number) → t.jobs.Pairwise fun a b => a.number ≤ b.number
  nodup  : numbers.Nodup
  fresh  : ∀ m ∈ numbers, ∀ j ∈ s.jobs, j.number ≠ m
  head   : (∀ j ∈ s.jobs, j.number ≠ s.jobCounter) → ∀ m, numbers.head? = some m → m = s.jobCounter
  counter : t.jobCounter = (numbers.getLast?.map (numberAfter 65535)).getD s.jobCounter

theorem JobsMade.nil (shipment : Nat) (k : Kind) (target : Option Nat) (i : Nat) (s : State) :
    JobsMade shipment k target [] i s s [] where
  length := rfl
  frame := by
    have titles : raisedTitles s.titles [].flatten = s.titles := by simp [raisedTitles]
    rw [titles, List.zipIdx_nil, List.map_nil, linedShipments_nil]
    rfl
  perm := .refl _
  sorted := id
  nodup := List.nodup_nil
  fresh m hm := absurd hm List.not_mem_nil
  head _ m hm := by cases hm
  counter := rfl

theorem JobsMade.cons {shipment : Nat} {k : Kind} {target : Option Nat} {c : List Part} {cs : List (List Part)} {i : Nat} {s t : State}
    {numbers : List Nat} (room : s.jobs.length < 65535)
    (h : JobsMade shipment k target cs (i + 1) (createJob shipment k target s (i, c)) t numbers) :
    JobsMade shipment k target (c :: cs) i s t (nextJobNumber s :: numbers) := by
  have first := createJob_eq shipment k target s (i, c)
  have jobs : (createJob shipment k target s (i, c)).jobs.Perm (plannedJob shipment k target (nextJobNumber s) i c :: s.jobs) := by
    rw [first]
    exact insertBy_perm _ _ _
  have fresh : ∀ m ∈ numbers, m ≠ nextJobNumber s ∧ ∀ j ∈ s.jobs, j.number ≠ m := fun m hm =>
    have later := h.fresh m hm
    ⟨(later _ (jobs.mem_iff.2 List.mem_cons_self)).symm, fun j hj => later j (jobs.mem_iff.2 (List.mem_cons_of_mem _ hj))⟩
  exact {
    length := by rw [List.length_cons, List.length_cons, h.length]
    frame := by
      have frame := h.frame
      rw [first] at frame
      rw [List.zipIdx_cons, List.map_cons, List.flatten_cons, ← raisedTitles_append, ← List.singleton_append, ← linedShipments_append]
      exact frame
    perm := by
      rw [List.zipIdx_cons, List.zip_cons_cons, List.map_cons, List.cons_append]
      exact h.perm.trans ((jobs.append_left _).trans List.perm_middle)
    sorted := fun hs => h.sorted (by
      rw [first]
      exact insertBy_ascending Job.number _ hs)
    nodup := List.nodup_cons.2 ⟨fun hm => (fresh _ hm).1 rfl, h.nodup⟩
    fresh := List.forall_mem_cons.2 ⟨nextJobNumber_free room, fun m hm => (fresh m hm).2⟩
    head := fun free m hm => by
      cases hm
      exact takeNumber_of_free fun held => by
        obtain ⟨j, hj, e⟩ := List.mem_map.1 held
        exact free j hj e
    counter := by
      have start : (createJob shipment k target s (i, c)).jobCounter = numberAfter 65535 (nextJobNumber s) := by
        rw [first]
        rfl
      rw [h.counter, start]
      cases numbers using List.reverseRec <;> simp [List.getLast?_cons] }

/-- The cartridges of a plan with their indexes, as `createJob` takes them. -/
theorem indexed_eq (carts : List (List Part)) : indexed carts = (carts.zipIdx 1).map fun x => (x.2, x.1) := by
  refine List.ext_getElem (by simp [indexed]) fun j h1 h2 => ?_
  simp [indexed, Nat.add_comm]

/-- Every plan whose jobs find room becomes jobs. -/
theorem createJobs_made (shipment : Nat) (k : Kind) (target : Option Nat) (carts : List (List Part)) (i : Nat) (s : State)
    (room : carts = [] ∨ s.jobs.length + carts.length ≤ 65535) : ∃ numbers, JobsMade shipment k target carts i s
      (((carts.zipIdx i).map fun x => (x.2, x.1)).foldl (createJob shipment k target) s) numbers := by
  induction carts generalizing i s with
  | nil => exact ⟨[], .nil shipment k target i s⟩
  | cons c cs ih =>
    have room' : s.jobs.length + (cs.length + 1) ≤ 65535 := room.resolve_left (List.cons_ne_nil _ _)
    have more : (createJob shipment k target s (i, c)).jobs.length = s.jobs.length + 1 := createJob_jobs_length _ _ _ _ _
    obtain ⟨numbers, made⟩ := ih (i + 1) (createJob shipment k target s (i, c)) (.inr (by omega))
    exact ⟨_, made.cons (by omega)⟩

/-- The job found under one of the numbers given is the one made of its cartridge. -/
theorem JobsMade.find {shipment : Nat} {k : Kind} {target : Option Nat} {carts : List (List Part)} {i : Nat} {s t : State}
    {numbers : List Nat} (h : JobsMade shipment k target carts i s t numbers) {x : Nat × List Part × Nat}
    (hx : x ∈ numbers.zip (carts.zipIdx i)) : findJob t x.1 = some (plannedJob shipment k target x.1 x.2.2 x.2.1) := by
  have there : plannedJob shipment k target x.1 x.2.2 x.2.1 ∈ t.jobs :=
    h.perm.mem_iff.2 (List.mem_append_left _ (List.mem_map.2 ⟨x, hx, rfl⟩))
  cases hf : findJob t x.1 with
  | none =>
    have := List.find?_eq_none.1 hf _ there
    simp [plannedJob] at this
  | some j =>
    have number : j.number = x.1 := by simpa using List.find?_some hf
    have mem := h.perm.mem_iff.1 (List.mem_of_find?_eq_some hf)
    rcases List.mem_append.1 mem with made | old
    · obtain ⟨y, hy, rfl⟩ := List.mem_map.1 made
      have nodup : ((numbers.zip (carts.zipIdx i)).map Prod.fst).Nodup := by
        rw [List.map_fst_zip (by simp [h.length])]
        exact h.nodup
      rw [List.inj_on_of_nodup_map nodup hy hx number]
    · exact absurd number (h.fresh _ (List.of_mem_zip hx).1 j old)

/-! ## The placed items (R59) -/

theorem setItems_list (keys : List TitleKey) (p : Patron) :
    keys.foldl (fun q key => setItem key.title key.medium .inShipment q) p = { p with
      list := p.list.map fun i => if keys.any (fun k => k.title = i.title ∧ k.medium = i.medium) then { i with state := .inShipment } else i } := by
  induction keys generalizing p with
  | nil => simp
  | cons key keys ih =>
    rw [List.foldl_cons, ih]
    simp only [setItem, replace, List.map_map]
    congr 1
    refine List.map_congr_left fun i _ => ?_
    have hit : isItem key.title key.medium i = decide (key.title = i.title ∧ key.medium = i.medium) := by
      rw [Bool.eq_iff_iff, decide_eq_true_eq, isItem, Bool.and_eq_true, beq_iff_eq, beq_iff_eq]
      exact and_congr eq_comm eq_comm
    simp only [Function.comp_apply, hit, List.any_cons, Bool.or_eq_true, decide_eq_true_eq]
    by_cases h : key.title = i.title ∧ key.medium = i.medium
    · simp [h]
    · simp [h]

/-! ## The offer of the jobs (R62, R78) -/

/-- From `s` to `t`, only bays, cartridges and, of a job, its state and its bay have changed; no job has become DONE. -/
structure Offers (s t : State) : Prop where
  shipments       : t.shipments = s.shipments
  titles          : t.titles = s.titles
  events          : t.events = s.events
  shipmentCounter : t.shipmentCounter = s.shipmentCounter
  eligibility     : t.eligibility = s.eligibility
  patrons         : t.patrons = s.patrons
  jobs            : ∀ m j, findJob s m = some j → j.state ≠ .done →
    ∃ st b, findJob t m = some { j with state := st, bay := b } ∧ st ≠ .done

section
variable {s t u : State}

theorem Offers.of_same (h1 : t.shipments = s.shipments) (h2 : t.titles = s.titles) (h3 : t.events = s.events)
    (h4 : t.shipmentCounter = s.shipmentCounter) (h5 : t.eligibility = s.eligibility) (h6 : t.patrons = s.patrons) (h7 : t.jobs = s.jobs) :
    Offers s t :=
  ⟨h1, h2, h3, h4, h5, h6, fun m j hj hd => ⟨j.state, j.bay, by rw [findJob, h7]; exact hj, hd⟩⟩

theorem Offers.refl (s : State) : Offers s s := .of_same rfl rfl rfl rfl rfl rfl rfl

theorem Offers.trans (h : Offers s t) (k : Offers t u) : Offers s u where
  shipments := k.shipments.trans h.shipments
  titles := k.titles.trans h.titles
  events := k.events.trans h.events
  shipmentCounter := k.shipmentCounter.trans h.shipmentCounter
  eligibility := k.eligibility.trans h.eligibility
  patrons := k.patrons.trans h.patrons
  jobs m j hj hd := by
    obtain ⟨st, b, ht, hd'⟩ := h.jobs m j hj hd
    obtain ⟨st', b', hu, hd''⟩ := k.jobs m _ ht hd'
    exact ⟨st', b', hu, hd''⟩

end

/-- A job found after another job's record, or its own, has changed. -/
theorem findJob_updateJob_any (n m : Nat) (f : Job → Job) (keep : ∀ j, (f j).number = j.number) (s : State) :
    findJob (updateJob n f s) m = (findJob s m).map fun j => if j.number = n then f j else j := by
  have same : ((fun j : Job => j.number == m) ∘ fun x => if (x.number == n) = true then f x else x) = fun j => j.number == m := by
    funext j
    by_cases h : j.number = n <;> simp [h, keep]
  rw [findJob, updateJob_jobs, replace, List.find?_map, same, findJob]
  simp only [beq_iff_eq]

theorem offers_assignJob (b : BayId) (n : Nat) (s : State) : Offers s (assignJob b n s) := by
  have assigned : Offers s (updateJob n (fun j => { j with state := .assigned, bay := some b }) s) :=
    ⟨rfl, rfl, rfl, rfl, rfl, rfl, fun m j hj hd => by
      have found := findJob_updateJob_any n m (fun j => { j with state := .assigned, bay := some b }) (fun _ => rfl) s
      rw [hj, Option.map_some] at found
      split at found
      · exact ⟨_, _, found, by decide⟩
      · exact ⟨j.state, j.bay, found, hd⟩⟩
  rw [assignJob, setEntry_eq]
  refine assigned.trans ?_
  exact .of_same rfl rfl rfl rfl rfl rfl rfl

theorem offers_offerJob (n : Nat) (s : State) : Offers s (offerJob n s) := by
  unfold offerJob
  split
  · split
    · exact offers_assignJob _ n s
    · exact .refl s
  · exact .refl s

theorem offers_offerJobs (ns : List Nat) (s : State) : Offers s (ns.foldl (fun t m => offerJob m t) s) := by
  induction ns generalizing s with
  | nil => exact .refl s
  | cons n ns ih => exact (offers_offerJob n s).trans (ih _)

/-! ## The commit (R44, R45, R59) -/

/-- The shipment that a step creates, with its job lines. -/
def newShipment (n number : Nat) (lines : List JobLine) (copies : List Nat) (plan : Plan) (s : State) : Shipment :=
  ⟨number, n, if plan.carts = [] then .ready else .assembling, lines, copies, targetCutoff s (shipmentEstimate plan), [],
    plan.carts.length + volumesOf s copies⟩

/-- The patron whose shipment is created. -/
def shippedPatron (number : Nat) (plan : Plan) (p : Patron) : Patron :=
  { p with
    shipment := some number
    commCarts := p.commCarts + plan.carts.length
    list := p.list.map fun i =>
      if plan.placed.any (fun k => k.title = i.title ∧ k.medium = i.medium) then { i with state := .inShipment } else i }

/-- The state with the shipment opened, before it has jobs. -/
def openedFor (n number : Nat) (copies : List Nat) (plan : Plan) (s : State) : State :=
  State.withPatron
    { s with shipments := s.shipments ++ [newShipment n number [] copies plan s], shipmentCounter := numberAfter 65535 number } n
    (shippedPatron number plan)

theorem linedShipments_new (n number : Nat) (lines : List JobLine) (copies : List Nat) (plan : Plan) {s : State}
    (free : ∀ x ∈ s.shipments, x.number ≠ number) :
    linedShipments number lines (openedFor n number copies plan s).shipments = s.shipments ++ [newShipment n number lines copies plan s] := by
  have old : replace (·.number == number) (fun x : Shipment => { x with jobLines := x.jobLines ++ lines }) s.shipments = s.shipments :=
    replace_none fun x hx => by simpa using free x hx
  have split : linedShipments number lines (openedFor n number copies plan s).shipments =
      replace (·.number == number) (fun x : Shipment => { x with jobLines := x.jobLines ++ lines }) s.shipments ++
        [{ newShipment n number [] copies plan s with jobLines := [] ++ lines }] := by
    simp [linedShipments, openedFor, State.withPatron, replace, newShipment]
  rw [split, old]
  rfl

/-- The step's shipment, found by its number, has the lines of its jobs. -/
theorem jobsOfShipment_new {n number : Nat} {numbers : List Nat} {copies : List Nat} {plan : Plan} {s t : State}
    (free : ∀ x ∈ s.shipments, x.number ≠ number)
    (h : t.shipments = s.shipments ++ [newShipment n number ((numbers.zipIdx 1).map fun x => ⟨x.1, x.2, none⟩) copies plan s]) :
    jobsOfShipment t number = numbers := by
  have absent : s.shipments.find? (·.number == number) = none := List.find?_eq_none.2 fun x hx => by simpa using free x hx
  have found : findShipment t number = some (newShipment n number ((numbers.zipIdx 1).map fun x => ⟨x.1, x.2, none⟩) copies plan s) := by
    rw [findShipment, h, List.find?_append, absent]
    simp [newShipment]
  rw [jobsOfShipment, found]
  simp only [newShipment, List.map_map]
  exact List.zipIdx_map_fst 1 numbers

/-- The commit: the shipment opened, its jobs made, SHIPMENT READY set if it has none, its jobs offered. -/
theorem commit_made {n number : Nat} {k : Kind} {copies : List Nat} {plan : Plan} {s : State} (free : ∀ x ∈ s.shipments, x.number ≠ number)
    (room : plan.carts = [] ∨ s.jobs.length + plan.carts.length ≤ 65535) : ∃ t numbers,
      JobsMade number k (targetCutoff s (shipmentEstimate plan)) plan.carts 1 (openedFor n number copies plan s) t numbers ∧
      commit n number k copies plan s =
        numbers.foldl (fun v m => offerJob m v) (if plan.carts = [] then t.flagged .shipmentReady else t) := by
  obtain ⟨numbers, made⟩ := createJobs_made number k (targetCutoff s (shipmentEstimate plan)) plan.carts 1 (openedFor n number copies plan s) room
  refine ⟨_, numbers, made, ?_⟩
  have opened : openedFor n number copies plan s = updatePatron n (fun p =>
      plan.placed.foldl (fun q key => setItem key.title key.medium .inShipment q)
        { p with shipment := some number, commCarts := p.commCarts + plan.carts.length })
      { s with
        shipments := s.shipments ++ [⟨number, n, if plan.carts.isEmpty then .ready else .assembling, [], copies,
          targetCutoff s (shipmentEstimate plan), [], plan.carts.length + volumesOf s copies⟩]
        shipmentCounter := numberAfter 65535 number } := by
    rw [updatePatron_eq]
    simp only [setItems_list, List.isEmpty_iff]
    rfl
  have shipments := (congrArg State.shipments made.frame).trans (linedShipments_new n number _ copies plan free)
  rw [commit, ← opened, indexed_eq]
  simp only [List.isEmpty_iff, setEvent_flagged]
  rw [jobsOfShipment_new free]
  split
  · exact shipments
  · exact shipments

/-! ## The step (R39, R40, R43) -/

/-- With the gate open, a patron at the head that is not dropped is served. -/
theorem selectionStep_served {s : State} {n : Nat} {rest : List Nat} {p : Patron} (hs : s.selection = .released) (hc : s.clock.set = true)
    (hj : (s.jobs.filter fun j => j.state = .queued).length < 80) (hn : s.shipments.length < 1024) (he : s.eligibility = n :: rest)
    (hp : findPatron s n = some p) (active : p.state = .active) (idle : p.shipment = none)
    (headroom : p.commCarts < p.cartAllow ∨ p.commCopies < p.embAllow ∨ ∃ i ∈ p.list, i.state = .reserved) :
    selectionStep s = servePatron n { s with eligibility := rest } := by
  have queued : (s.jobs.filter (·.state == .queued)) = s.jobs.filter fun j => j.state = .queued :=
    List.filter_congr fun j _ => by rw [Bool.eq_iff_iff]; simp
  have gate : gateOpen s = true := by
    simp [gateOpen, hs, hc, he, queued, queuedGate, shipmentCapacity, hj, hn]
  have kept : dropsAtOnce p = false := by
    have able : (cartHeadroom p == 0 && embHeadroom p == 0 && !p.list.any (·.state == .reserved)) = false := by
      rw [Bool.eq_false_iff]
      intro all
      simp only [Bool.and_eq_true, beq_iff_eq, cartHeadroom, embHeadroom, Bool.not_eq_true', List.any_eq_false] at all
      obtain ⟨⟨carts, copies⟩, reserved⟩ := all
      rcases headroom with h | h | ⟨i, hi, h⟩
      · omega
      · omega
      · exact reserved i hi h
    simp [dropsAtOnce, active, idle, able]
  have found : findPatron { s with eligibility := rest } n = some p := hp
  simp only [selectionStep, gate, if_true, he, found, kept, Bool.false_eq_true, if_false]

theorem newShipmentNumber_free {s : State} (room : s.shipments.length < 65535) : ∀ x ∈ s.shipments, x.number ≠ newShipmentNumber s := by
  have free := takeNumber_free 65535 (s.shipments.map (·.number)) s.shipmentCounter (by simpa using room)
  exact fun x hx e => free (List.mem_map.2 ⟨x, hx, e⟩)

/-- Settles O34: the stages gather, the plan is made under the cap, and the commit makes the shipment, its jobs and their offer. -/
theorem selectionStepCommits : Obligations.SelectionStepCommits := by
  unfold Obligations.SelectionStepCommits
  refine ⟨fun s c ids => ⟨rfl, fun h => volumesOf_cons h ids⟩, fun plan => ⟨fun h => ?_, fun h => ?_, fun parts hp => ?_⟩,
    fun s n rest p hpow hsel hclk hque hship hel hp active idle headroom => ?_⟩
  · rw [shipmentEstimate, h]
    rfl
  · exact foldl_max_mem (by simpa using h)
  · exact le_foldl_max (List.mem_map.2 ⟨parts, hp, rfl⟩)
  intro u number w
  have served : exec .selectionStep s = .next (servePatron n u).stamped :=
    (event_powered selectionStep hpow).trans (by rw [selectionStep_served hsel hclk hque hship hel hp active idle headroom])
  have gathered : Gathers n u w.state := gathers_firstStages n number u
  obtain ⟨q, hq, kind⟩ := gathered.patron p hp
  refine ⟨q, hq, kind, ?_⟩
  intro cap plan target
  have hcap : cartridgeCap w.state q = cap := by
    rw [cartridgeCap, gathered.jobs, kind]
    rfl
  have serves : servePatron n u = if plan.carts.isEmpty && w.copies.isEmpty then w.state else commit n number p.kind w.copies plan w.state := by
    have hplan : makePlan q.kind (cartridgeCap w.state q) w.candidates = plan := by rw [kind, hcap]
    rw [servePatron]
    simp only [show findPatron (firstStages n (newShipmentNumber u) u).state n = some q from hq]
    show (if (makePlan q.kind (cartridgeCap w.state q) w.candidates).carts.isEmpty && w.copies.isEmpty then w.state
      else commit n number q.kind w.copies (makePlan q.kind (cartridgeCap w.state q) w.candidates) w.state) = _
    rw [hplan, kind]
  refine ⟨fun noCarts noCopies => ?_, fun any => ?_⟩
  · rw [served, serves, noCarts, noCopies]
    rfl
  have hserves : servePatron n u = commit n number p.kind w.copies plan w.state := by
    rw [serves, if_neg]
    simpa [List.isEmpty_iff, imp_iff_not_or] using any
  have free : ∀ x ∈ s.shipments, x.number ≠ number := newShipmentNumber_free (s := u) (hship.trans (by decide))
  have free' : ∀ x ∈ w.state.shipments, x.number ≠ number := by
    rw [gathered.shipments]
    exact free
  have jobs : w.state.jobs = s.jobs := gathered.jobs
  have few : plan.carts.length ≤ 96 - s.jobs.length :=
    (makePlan_length _ _ _).trans ((min_le_right _ _).trans (min_le_left _ _))
  have room : plan.carts = [] ∨ w.state.jobs.length + plan.carts.length ≤ 65535 := by
    rw [jobs]
    rcases List.eq_nil_or_concat plan.carts with empty | ⟨_, _, h⟩
    · exact .inl empty
    · have : 0 < plan.carts.length := by simp [h]
      exact .inr (by omega)
  obtain ⟨t, numbers, made, committed⟩ := commit_made (n := n) (k := p.kind) (copies := w.copies) free' room
  refine ⟨(commit n number p.kind w.copies plan w.state).stamped, numbers, t.jobs, t.jobCounter, by rw [served, hserves], ?_⟩
  intro shipments titles placed result
  have frame : t = result := made.frame.trans (by
    rw [linedShipments_new n number _ w.copies plan free', gathered.shipments]
    rfl)
  have offered : Offers (if plan.carts = [] then t.flagged .shipmentReady else t) (commit n number p.kind w.copies plan w.state) := by
    rw [committed]
    exact offers_offerJobs _ _
  have before : (openedFor n number w.copies plan w.state).jobs = s.jobs := jobs
  have perm := made.perm
  have sorted := made.sorted
  have fresh := made.fresh
  have head := made.head
  rw [before] at perm sorted fresh head
  have base : ∀ {α : Type} (f : State → α), (∀ v : State, f (v.flagged .shipmentReady) = f v) →
      f (if plan.carts = [] then t.flagged .shipmentReady else t) = f result := by
    intro α f same
    rw [← frame]
    split
    · exact same t
    · rfl
  refine ⟨?_, perm, sorted, made.nodup, head, ?_, free, made.length, ?_, ?_, ?_, ?_, ?_, fun x hx => ⟨fresh x.1 (List.of_mem_zip hx).1, ?_⟩, ?_⟩
  · rw [committed, ← frame]
  · rw [made.counter]
    cases numbers.getLast? <;> rfl
  · exact (offered.eligibility.trans (base State.eligibility fun _ => rfl)).trans gathered.eligibility
  · exact offered.shipments.trans (base State.shipments fun _ => rfl)
  · exact offered.titles.trans (base State.titles fun _ => rfl)
  · refine offered.events.trans ?_
    rw [frame]
    split <;> rfl
  · exact offered.shipmentCounter.trans (base State.shipmentCounter fun _ => rfl)
  · have found := (base (findJob · x.1) fun _ => rfl).trans (frame ▸ made.find hx)
    obtain ⟨st, b, there, notDone⟩ := offered.jobs x.1 _ found (by simp [plannedJob])
    exact ⟨_, there, rfl, rfl, rfl, rfl, rfl, rfl, rfl, notDone⟩
  · have patrons := offered.patrons.trans (base State.patrons fun _ => rfl)
    refine ⟨shippedPatron number plan q, ?_, rfl, rfl, rfl⟩
    have shipped := findPatron_updatePatron n (shippedPatron number plan) (fun _ => rfl) w.state
    rw [hq, updatePatron_eq] at shipped
    show findPatron (commit n number p.kind w.copies plan w.state) n = _
    rw [findPatron, patrons]
    exact shipped

end Sys2Proof.Machine
end

section
/-! SUPPORT. Patrons and reading lists: the requests read back from their frames, the operations on patrons as the statements write them, and
each rule's outcomes (R26 to R38; O28, O29, O30, O31), with the settings (R39, R97, R161; O48). -/

namespace Sys2Proof.Machine

/-! ## Requests answered -/

/-- A request that is served leaves what its rule leaves, with the rule's reply made ready. -/
theorem exec_answered {c : Instr} {f : Frame} {s t : State} {k : Byte} {rule rule' : State → Answer} {data : List Byte}
    (he : exec c s = serve c f rule s) (hr : rule = rule') (hc : headCommand f = c) (hb : bodyLengthOk f = true)
    (hk : replyKind f.kind = k) (hs : canServe f s = true) (ha : rule' s = (t, data)) : exec c s = .next (t.replied k f.tag data) := by
  rw [exec_served he hr hc hs hb hk, ha]

section
variable {s t : State} {tag : Byte} {data : List Byte} {n : Nat}

theorem exec_patronEnter {kind cart emb mode card : Nat} (h1 : n < 16777216) (h2 : kind < 256) (h3 : cart < 256) (h4 : emb < 256)
    (h5 : mode < 256) (h6 : card < 65536)
    (hs : canServe ⟨0x18, tag, bodyOf [(3, n), (1, kind), (1, cart), (1, emb), (1, mode), (2, card)]⟩ s = true)
    (ha : patronEnterRule n kind cart emb mode card s = (t, data)) :
    exec (.patronEnter tag (bodyOf [(3, n), (1, kind), (1, cart), (1, emb), (1, mode), (2, card)])) s = .next (t.replied 0x98 tag data) := by
  have f1 : field (bodyOf [(3, n), (1, kind), (1, cart), (1, emb), (1, mode), (2, card)]) 0 3 = n := field_head h1 _
  have f2 : field (bodyOf [(3, n), (1, kind), (1, cart), (1, emb), (1, mode), (2, card)]) 3 1 = kind := by
    rw [field_skip _ (by decide)]
    exact field_head h2 _
  have f3 : field (bodyOf [(3, n), (1, kind), (1, cart), (1, emb), (1, mode), (2, card)]) 4 1 = cart := by
    iterate 2 rw [field_skip _ (by decide)]
    exact field_head h3 _
  have f4 : field (bodyOf [(3, n), (1, kind), (1, cart), (1, emb), (1, mode), (2, card)]) 5 1 = emb := by
    iterate 3 rw [field_skip _ (by decide)]
    exact field_head h4 _
  have f5 : field (bodyOf [(3, n), (1, kind), (1, cart), (1, emb), (1, mode), (2, card)]) 6 1 = mode := by
    iterate 4 rw [field_skip _ (by decide)]
    exact field_head h5 _
  have f6 : field (bodyOf [(3, n), (1, kind), (1, cart), (1, emb), (1, mode), (2, card)]) 7 2 = card := by
    iterate 5 rw [field_skip _ (by decide)]
    exact field_head h6 _
  exact exec_answered (rule := patronEnterRule (field _ 0 3) (field _ 3 1) (field _ 4 1) (field _ 5 1) (field _ 6 1) (field _ 7 2)) rfl
    (by rw [f1, f2, f3, f4, f5, f6]) rfl (by simp [bodyLengthOk]) rfl hs ha

theorem exec_patronRemove (h : n < 16777216) (hs : canServe ⟨0x19, tag, bodyOf [(3, n)]⟩ s = true)
    (ha : patronRemoveRule n s = (t, data)) : exec (.patronRemove tag (bodyOf [(3, n)])) s = .next (t.replied 0x99 tag data) :=
  exec_answered (rule := patronRemoveRule (field _ 0 3)) rfl (by rw [field_head h]) rfl (by simp [bodyLengthOk]) rfl hs ha

theorem exec_patronSuspend (h : n < 16777216) (hs : canServe ⟨0x1A, tag, bodyOf [(3, n)]⟩ s = true)
    (ha : patronSuspendRule n s = (t, data)) : exec (.patronSuspend tag (bodyOf [(3, n)])) s = .next (t.replied 0x9A tag data) :=
  exec_answered (rule := patronSuspendRule (field _ 0 3)) rfl (by rw [field_head h]) rfl (by simp [bodyLengthOk]) rfl hs ha

theorem exec_patronResume (h : n < 16777216) (hs : canServe ⟨0x1B, tag, bodyOf [(3, n)]⟩ s = true)
    (ha : patronResumeRule n s = (t, data)) : exec (.patronResume tag (bodyOf [(3, n)])) s = .next (t.replied 0x9B tag data) :=
  exec_answered (rule := patronResumeRule (field _ 0 3)) rfl (by rw [field_head h]) rfl (by simp [bodyLengthOk]) rfl hs ha

theorem exec_shipNow (h : n < 16777216) (hs : canServe ⟨0x1D, tag, bodyOf [(3, n)]⟩ s = true)
    (ha : shipNowRule n s = (t, data)) : exec (.shipNow tag (bodyOf [(3, n)])) s = .next (t.replied 0x9D tag data) :=
  exec_answered (rule := shipNowRule (field _ 0 3)) rfl (by rw [field_head h]) rfl (by simp [bodyLengthOk]) rfl hs ha

theorem exec_listAdd {title medium position : Nat} (h1 : n < 16777216) (h2 : title < 16777216) (h3 : medium < 256) (h4 : position < 256)
    (hs : canServe ⟨0x20, tag, bodyOf [(3, n), (3, title), (1, medium), (1, position)]⟩ s = true)
    (ha : listAddRule n title medium position s = (t, data)) :
    exec (.listAdd tag (bodyOf [(3, n), (3, title), (1, medium), (1, position)])) s = .next (t.replied 0xA0 tag data) := by
  have f1 : field (bodyOf [(3, n), (3, title), (1, medium), (1, position)]) 0 3 = n := field_head h1 _
  have f2 : field (bodyOf [(3, n), (3, title), (1, medium), (1, position)]) 3 3 = title := by
    rw [field_skip _ (by decide)]
    exact field_head h2 _
  have f3 : field (bodyOf [(3, n), (3, title), (1, medium), (1, position)]) 6 1 = medium := by
    iterate 2 rw [field_skip _ (by decide)]
    exact field_head h3 _
  have f4 : field (bodyOf [(3, n), (3, title), (1, medium), (1, position)]) 7 1 = position := by
    iterate 3 rw [field_skip _ (by decide)]
    exact field_head h4 _
  exact exec_answered (rule := listAddRule (field _ 0 3) (field _ 3 3) (field _ 6 1) (field _ 7 1)) rfl (by rw [f1, f2, f3, f4]) rfl
    (by simp [bodyLengthOk]) rfl hs ha

theorem exec_listDrop {title medium : Nat} (h1 : n < 16777216) (h2 : title < 16777216) (h3 : medium < 256)
    (hs : canServe ⟨0x21, tag, bodyOf [(3, n), (3, title), (1, medium)]⟩ s = true)
    (ha : listDropRule n title medium s = (t, data)) :
    exec (.listDrop tag (bodyOf [(3, n), (3, title), (1, medium)])) s = .next (t.replied 0xA1 tag data) := by
  have f1 : field (bodyOf [(3, n), (3, title), (1, medium)]) 0 3 = n := field_head h1 _
  have f2 : field (bodyOf [(3, n), (3, title), (1, medium)]) 3 3 = title := by
    rw [field_skip _ (by decide)]
    exact field_head h2 _
  have f3 : field (bodyOf [(3, n), (3, title), (1, medium)]) 6 1 = medium := by
    iterate 2 rw [field_skip _ (by decide)]
    exact field_head h3 _
  exact exec_answered (rule := listDropRule (field _ 0 3) (field _ 3 3) (field _ 6 1)) rfl (by rw [f1, f2, f3]) rfl
    (by simp [bodyLengthOk]) rfl hs ha

end

/-! ## Codes and clamps (R26, R192) -/

theorem kindOf_kindCode (k : Kind) : kindOf (kindCode k) = some k := by cases k <;> rfl

theorem modeOf_modeCode (m : Mode) : modeOf (modeCode m) = some m := by cases m <;> rfl

theorem kindOf_unlisted {n : Nat} (h : n ≠ 1 ∧ n ≠ 2) : kindOf n = none := by
  unfold kindOf
  split
  · exact absurd rfl h.1
  · exact absurd rfl h.2
  · rfl

theorem modeOf_unlisted {n : Nat} (h : n ≠ 1 ∧ n ≠ 2) : modeOf n = none := by
  unfold modeOf
  split
  · exact absurd rfl h.1
  · exact absurd rfl h.2
  · rfl

theorem clamp_cartridges (n : Nat) : clamp 1 6 n = if n = 0 then 1 else if 6 < n then 6 else n := by
  unfold clamp
  split_ifs <;> omega

theorem clamp_copies (n : Nat) : clamp 0 3 n = if 3 < n then 3 else n := by
  unfold clamp
  split_ifs <;> omega

/-! ## Records picked out -/

/-- Records picked by a test are those of which the statement it decides holds. -/
theorem filter_of_iff {α : Type} {test : α → Bool} {P : α → Prop} [DecidablePred P] (h : ∀ x, test x = true ↔ P x) (l : List α) :
    l.filter test = l.filter fun x => P x :=
  List.filter_congr fun x _ => Bool.eq_iff_iff.2 ((h x).trans decide_eq_true_iff.symm)

theorem find?_of_iff {α : Type} {test : α → Bool} {P : α → Prop} [DecidablePred P] (h : ∀ x, test x = true ↔ P x) (l : List α) :
    l.find? test = l.find? fun x => P x :=
  congrArg (l.find? ·) (funext fun x => Bool.eq_iff_iff.2 ((h x).trans decide_eq_true_iff.symm))

/-! ## A record in its place -/

/-- A record inserted by its number stands behind those of no greater number and in front of the first of a greater one. -/
theorem insertBy_between {α : Type} (key : α → Nat) (x : α) (xs : List α) : ∃ front back, xs = front ++ back ∧
    (∀ y ∈ front, key y ≤ key x) ∧ (∀ y, back.head? = some y → key x < key y) ∧
    insertBy (fun a b => decide (key a < key b)) x xs = front ++ x :: back := by
  induction xs with
  | nil => exact ⟨[], [], rfl, by simp, by simp, rfl⟩
  | cons y ys ih =>
    by_cases h : key x < key y
    · exact ⟨[], y :: ys, rfl, by simp, by simpa using h, by simp [insertBy, h]⟩
    · obtain ⟨front, back, split, below, above, inserted⟩ := ih
      refine ⟨y :: front, back, by rw [split]; rfl, List.forall_mem_cons.2 ⟨Nat.le_of_not_lt h, below⟩, above, ?_⟩
      simp only [insertBy, h, decide_false, Bool.false_eq_true, if_false, inserted, List.cons_append]

/-! ## The append to the eligibility queue (R34) -/

theorem mayQueue_iff (s : State) (p : Patron) : mayQueue s p = true ↔ p.state = .active ∧ p.shipment = none ∧ p.number ∉ s.eligibility := by
  simp [mayQueue, and_assoc]

theorem appendEligible_appends {s : State} {n : Nat} {p : Patron} (h : findPatron s n = some p) (active : p.state = .active)
    (idle : p.shipment = none) (auto : p.mode = .auto) (out : n ∉ s.eligibility) :
    appendEligible n s = { s with eligibility := s.eligibility ++ [n] } := by
  have may : mayQueue s p = true := (mayQueue_iff s p).2 ⟨active, idle, findPatron_number h ▸ out⟩
  simp only [appendEligible, h, may, auto, beq_self_eq_true, Bool.and_self, if_true]

theorem appendEligible_keeps {s : State} {n : Nat}
    (h : ∀ p, findPatron s n = some p → p.state ≠ .active ∨ p.shipment ≠ none ∨ p.mode ≠ .auto ∨ n ∈ s.eligibility) :
    appendEligible n s = s := by
  cases hp : findPatron s n with
  | none => simp only [appendEligible, hp]
  | some p =>
    have no : ¬((mayQueue s p && p.mode == .auto) = true) := by
      rw [Bool.and_eq_true, mayQueue_iff, findPatron_number hp, beq_iff_eq]
      have := h p hp
      tauto
    simp only [appendEligible, hp, if_neg no]

/-! ## PATRON ENTER (R26) -/

theorem patronEnterRule_unlisted {n kind cart emb mode card : Nat} (s : State)
    (h : n < 1 ∨ 999999 < n ∨ (kind ≠ 1 ∧ kind ≠ 2) ∨ (mode ≠ 1 ∧ mode ≠ 2)) :
    patronEnterRule n kind cart emb mode card s = (s, [0x05]) := by
  by_cases range : n < 1 ∨ maxNumber < n
  · exact if_pos range
  · have codes : kindOf kind = none ∨ modeOf mode = none := by
      rcases h with h | h | h | h
      · exact absurd (.inl h) range
      · exact absurd (.inr h) range
      · exact .inl (kindOf_unlisted h)
      · exact .inr (modeOf_unlisted h)
    rw [patronEnterRule, if_neg range]
    rcases codes with none | none
    · rw [none]
      rfl
    · rw [none]
      cases kindOf kind <;> rfl

section
variable {s : State} {n cart emb card : Nat} (k : Kind) (m : Mode) (h1 : 1 ≤ n) (h2 : n ≤ 999999)
include h1 h2

/-- With its codes in order, a number that a record has changes that record. -/
theorem patronEnterRule_held {p : Patron} (hp : findPatron s n = some p) :
    patronEnterRule n (kindCode k) cart emb (modeCode m) card s = okWith [] (appendEligible n (updatePatron n (fun q =>
      { q with kind := k, cartAllow := clamp 1 6 cart, embAllow := clamp 0 3 emb, mode := m, card := card }) s)) := by
  have range : ¬(n < 1 ∨ maxNumber < n) := not_or.2 ⟨Nat.not_lt.2 h1, Nat.not_lt.2 h2⟩
  simp only [patronEnterRule, if_neg range, kindOf_kindCode, modeOf_modeCode, hp]

/-- With its codes in order, a number that no record has takes a new one while there is room. -/
theorem patronEnterRule_new (none : findPatron s n = none) :
    patronEnterRule n (kindCode k) cart emb (modeCode m) card s =
      if patronCapacity ≤ s.patrons.length then statusOnly .full s
      else okWith [] (appendEligible n { s with patrons := insertBy patronBefore (newPatron n k cart emb m card) s.patrons }) := by
  have range : ¬(n < 1 ∨ maxNumber < n) := not_or.2 ⟨Nat.not_lt.2 h1, Nat.not_lt.2 h2⟩
  simp only [patronEnterRule, if_neg range, kindOf_kindCode, modeOf_modeCode, none]

end

/-- Settles O28: RANGE, FULL, a record inserted, a record changed. -/
theorem patronEnterCreatesOrUpdates : Obligations.PatronEnterCreatesOrUpdates := by
  unfold Obligations.PatronEnterCreatesOrUpdates
  intro s tag n kind cart emb mode card h1 h2 h3 h4 h5 h6 body hs
  refine ⟨fun bad => exec_patronEnter h1 h2 h3 h4 h5 h6 hs (patronEnterRule_unlisted s bad), ?_⟩
  rintro low high k m rfl rfl
  intro cart' emb'
  have hcart : clamp 1 6 cart = cart' := clamp_cartridges cart
  have hemb : clamp 0 3 emb = emb' := clamp_copies emb
  refine ⟨fun none full => ?_, fun none room => ?_, fun some => ?_⟩
  · exact exec_patronEnter h1 h2 h3 h4 h5 h6 hs ((patronEnterRule_new k m low high none).trans (if_pos full))
  · obtain ⟨before, behind, split, below, above, inserted⟩ := insertBy_between Patron.number (newPatron n k cart emb m card) s.patrons
    refine ⟨before, behind, split, below, above, exec_patronEnter h1 h2 h3 h4 h5 h6 hs
      ((patronEnterRule_new k m low high none).trans ((if_neg (Nat.not_le.2 room)).trans ?_))⟩
    rw [← hcart, ← hemb, show insertBy patronBefore (newPatron n k cart emb m card) s.patrons = _ from inserted]
    rfl
  · obtain ⟨p, hp⟩ := Option.ne_none_iff_exists'.1 some
    refine exec_patronEnter h1 h2 h3 h4 h5 h6 hs ((patronEnterRule_held k m low high hp).trans ?_)
    rw [updatePatron_eq, hcart, hemb]
    rfl

/-! ## PATRON SUSPEND and PATRON REMOVE (R29, R31, R126) -/

theorem reservedCopies_eq (s : State) (n : Nat) :
    reservedCopies s n = (s.copies.filter fun c => c.state = .reserved ∧ c.patron = some n).map (·.id) :=
  congrArg (List.map _) (filter_of_iff (fun c => by simp) _)

theorem suspendPatron_eq (p : Patron) : suspendPatron p = { p with
    state := .suspended
    commCopies := p.commCopies - (p.list.filter fun i => i.state = .reserved).length
    list := p.list.map fun i => if i.state = .reserved then { i with state := .waiting } else i } := by
  have reserved : p.list.filter (·.state == .reserved) = p.list.filter fun i => i.state = .reserved :=
    filter_of_iff (fun _ => beq_iff_eq) _
  simp only [suspendPatron, replace, reserved, beq_iff_eq]

theorem patronBusy_iff (s : State) (p : Patron) : patronBusy s p = true ↔
    (∃ l ∈ s.loans, l.patron = p.number) ∨ p.shipment ≠ none ∨ ∃ c ∈ s.copies, c.state = .reserved ∧ c.patron = some p.number := by
  simp [patronBusy, reservedCopies, or_assoc, Option.isSome_iff_ne_none]

/-- Settles O29: the suspension's own change before the copies go to SHELF, and the removal by what it is refused for. -/
theorem patronSuspendAndRemove : Obligations.PatronSuspendAndRemove := by
  unfold Obligations.PatronSuspendAndRemove
  intro s tag n h
  refine ⟨fun hs => ⟨fun none => ?_, fun some => ?_⟩, fun hs => ⟨fun none => ?_, fun p hp => ?_⟩⟩
  · exact exec_patronSuspend h hs (by rw [patronSuspendRule, none]; rfl)
  · obtain ⟨p, hp⟩ := Option.ne_none_iff_exists'.1 some
    refine exec_patronSuspend h hs ?_
    rw [patronSuspendRule, hp, reservedCopies_eq, updatePatron_eq]
    simp only [State.withPatron, suspendPatron_eq]
    rfl
  · exact exec_patronRemove h hs (by rw [patronRemoveRule, none]; rfl)
  · have busy : patronBusy s p = true ↔
        (∃ l ∈ s.loans, l.patron = n) ∨ p.shipment ≠ none ∨ ∃ c ∈ s.copies, c.state = .reserved ∧ c.patron = some n := by
      rw [patronBusy_iff, findPatron_number hp]
    refine ⟨fun any => exec_patronRemove h hs ?_, fun loans idle copies => exec_patronRemove h hs ?_⟩
    · rw [patronRemoveRule, hp]
      exact if_pos (busy.2 any)
    · have free : ¬patronBusy s p = true := by
        rw [busy]
        rintro (⟨l, hl, e⟩ | some | ⟨c, hc, e⟩)
        · exact loans l hl e
        · exact some idle
        · exact copies c hc e
      rw [patronRemoveRule, hp]
      refine (if_neg free).trans ?_
      rw [filter_key_bne Hold.patron, filter_bne_eq, filter_key_bne Patron.number]
      rfl

/-! ## PATRON RESUME and SHIP NOW (R30, R36) -/

/-- Settles O30: each request by its rule, and the append by its conditions. -/
theorem patronResumeAndShipNow : Obligations.PatronResumeAndShipNow := by
  unfold Obligations.PatronResumeAndShipNow
  refine ⟨fun s tag n h => ⟨fun hs => ⟨fun none => ?_, fun some => ?_⟩, fun hs => ⟨fun none => ?_, fun p hp => ⟨fun busy => ?_,
    fun active idle => ?_⟩⟩⟩, fun s n => ⟨fun p hp active idle auto out => appendEligible_appends hp active idle auto out, appendEligible_keeps⟩⟩
  · exact exec_patronResume h hs (by rw [patronResumeRule, none]; rfl)
  · obtain ⟨p, hp⟩ := Option.ne_none_iff_exists'.1 some
    refine exec_patronResume h hs ?_
    rw [patronResumeRule, hp, updatePatron_eq]
    rfl
  · exact exec_shipNow h hs (by rw [shipNowRule, none]; rfl)
  · refine exec_shipNow h hs ?_
    rw [shipNowRule, hp]
    exact if_pos (by rwa [Option.isSome_iff_ne_none])
  · refine exec_shipNow h hs ?_
    have free : ¬(p.state ≠ .active ∨ p.shipment.isSome) := by simp [active, idle]
    rw [shipNowRule, hp]
    refine (if_neg free).trans ?_
    by_cases queued : n ∈ s.eligibility
    · rw [if_pos (List.contains_iff_mem.2 queued), if_pos queued]
      rfl
    · rw [if_neg (mt List.contains_iff_mem.1 queued), if_neg queued]
      rfl

/-! ## LIST ADD and LIST DROP (R33, R37, R38) -/

theorem isItem_iff {title : Nat} {m : Medium} {i : ListItem} : isItem title m i = true ↔ i.title = title ∧ i.medium = m := by
  simp [isItem]

theorem findItem_eq (p : Patron) (title : Nat) (m : Medium) :
    findItem p title m = p.list.find? fun i => i.title = title ∧ i.medium = m := find?_of_iff (fun _ => isItem_iff) _

theorem removeItem_eq (title : Nat) (m : Medium) (p : Patron) :
    removeItem title m p = { p with list := p.list.filter fun i => ¬(i.title = title ∧ i.medium = m) } := by
  have others : p.list.filter (fun i => !isItem title m i) = p.list.filter fun i => ¬(i.title = title ∧ i.medium = m) :=
    filter_of_iff (fun i => by rw [Bool.not_eq_true', Bool.eq_false_iff, ne_eq, isItem_iff]) _
  rw [removeItem, others]

theorem dropHold_eq (title n : Nat) (s : State) :
    dropHold title n s = { s with holds := s.holds.filter fun h => ¬(h.title = title ∧ h.patron = n) } := by
  have others : s.holds.filter (fun h => !(h.title == title && h.patron == n)) = s.holds.filter fun h => ¬(h.title = title ∧ h.patron = n) :=
    filter_of_iff (fun h => by simp [imp_iff_not_or]) _
  rw [dropHold, others]

/-- The checks of LIST ADD for a patron and a medium that there are, in their order (R37). -/
theorem listAddRule_found {s : State} {n title position : Nat} {p : Patron} (m : Medium) (hp : findPatron s n = some p) (h1 : 1 ≤ title)
    (h2 : title ≤ 999999) : listAddRule n title (mediumCode m) position s =
      if p.list.any (isItem title m) then statusOnly .duplicate s
      else if listCapacity ≤ p.list.length then statusOnly .full s
      else if itemPool ≤ itemsUsed s then statusOnly .full s
      else okWith (leBytes 1 (listPosition p.list.length position)) (appendEligible n (updatePatron n (fun q =>
        { q with list := insertItem (listPosition p.list.length position) ⟨title, m, .waiting, today s⟩ q.list }) s)) := by
  have range : ¬(title < 1 ∨ maxNumber < title) := not_or.2 ⟨Nat.not_lt.2 h1, Nat.not_lt.2 h2⟩
  rw [listAddRule, hp, mediumOf_mediumCode]
  exact if_neg range

/-- Settles O31: the checks of LIST ADD in their order, and LIST DROP by the state of the item found. -/
theorem listAddAndDrop : Obligations.ListAddAndDrop := by
  unfold Obligations.ListAddAndDrop
  intro s tag n title medium position h1 h2 h3 h4
  refine ⟨?_, ?_⟩
  · intro body reply hs
    refine ⟨fun none => exec_listAdd h1 h2 h3 h4 hs (by rw [listAddRule, none]; rfl), fun p hp => ⟨fun bad => ?_, ?_⟩⟩
    · refine exec_listAdd h1 h2 h3 h4 hs ?_
      rw [listAddRule, hp]
      by_cases listed : medium = 0 ∨ 3 < medium
      · rw [mediumOf_unlisted listed]
        rfl
      · have range : title < 1 ∨ maxNumber < title := (or_assoc.2 bad).resolve_left listed
        cases mediumOf medium with
        | none => rfl
        | some m => exact if_pos range
    · rintro m rfl low high
      have rule := listAddRule_found (position := position) m hp low high
      refine ⟨fun ⟨i, hi, same⟩ => ?_, fun new => ⟨fun full => ?_, fun room pool => ?_⟩⟩
      · refine exec_listAdd h1 h2 h3 h4 hs (rule.trans (if_pos ?_))
        exact List.any_eq_true.2 ⟨i, hi, isItem_iff.2 same⟩
      all_goals
        have absent : ¬p.list.any (isItem title m) = true := by
          rw [List.any_eq_true]
          exact fun ⟨i, hi, same⟩ => new i hi (isItem_iff.1 same)
        refine exec_listAdd h1 h2 h3 h4 hs (rule.trans ((if_neg absent).trans ?_))
      · by_cases long : listCapacity ≤ p.list.length
        · exact if_pos long
        · exact (if_neg long).trans (if_pos (full.resolve_left long))
      · refine (if_neg (Nat.not_le.2 room)).trans ((if_neg (Nat.not_le.2 pool)).trans ?_)
        rw [updatePatron_eq]
        rfl
  · intro body reply hs
    refine ⟨fun bad => exec_listDrop h1 h2 h3 hs (by rw [listDropRule, mediumOf_unlisted bad]; rfl), ?_⟩
    rintro m rfl
    refine ⟨fun none => exec_listDrop h1 h2 h3 hs (by rw [listDropRule, mediumOf_mediumCode, none]; rfl),
      fun p hp => ⟨fun none => exec_listDrop h1 h2 h3 hs ?_, fun i hi => ?_⟩⟩
    · have missing : findItem p title m = Option.none := by
        rw [findItem_eq, List.find?_eq_none]
        exact fun i hi => by simpa using none i hi
      rw [listDropRule, mediumOf_mediumCode, hp]
      simp only [missing]
      rfl
    · intro dropped
      have found : findItem p title m = some i := (findItem_eq p title m).trans hi
      have removed : updatePatron n (removeItem title m) s = dropped := by
        rw [updatePatron_eq]
        simp only [State.withPatron, removeItem_eq]
        rfl
      refine ⟨fun st => exec_listDrop h1 h2 h3 hs ?_, fun st => exec_listDrop h1 h2 h3 hs ?_, fun st => exec_listDrop h1 h2 h3 hs ?_⟩
      · rcases st with st | st <;> simp only [listDropRule, mediumOf_mediumCode, hp, found, st] <;> rfl
      · rcases st with st | st <;> simp only [listDropRule, mediumOf_mediumCode, hp, found, st, removed] <;> rfl
      · simp only [listDropRule, mediumOf_mediumCode, hp, found, st, removed, dropHold_eq]
        rfl

/-! ## The settings (R39, R97, R161, R186) -/

theorem setSelection_same {x : Selection} {s : State} (h : s.selection = x) : setSelection x s = s := if_pos h

theorem setSelection_other {x : Selection} {s : State} (h : s.selection ≠ x) :
    setSelection x s = { s with selection := x }.noted .selectionHeld := (if_neg h).trans (markChanged_noted _ _)

theorem clamp_period (d : Nat) : clamp 7 120 d = if d < 7 then 7 else if 120 < d then 120 else d := by
  unfold clamp
  split_ifs <;> omega

/-- Settles O48: each setting's rule, the clamps written out, and the mark of SELECTION HELD only where the setting changes. -/
theorem settingsAreKept : Obligations.SettingsAreKept := by
  unfold Obligations.SettingsAreKept
  intro s tag m n hm hn kept
  have hkept : ∀ d, clamp 7 120 d = kept d := clamp_period
  have hold : canServe ⟨0x05, tag, []⟩ s = true → exec (.selectionHold tag []) s = .next ((setSelection .held s).replied 0x85 tag [0x00]) :=
    fun hs => exec_answered (rule := fun t => okWith [] (setSelection .held t)) rfl rfl rfl rfl rfl hs rfl
  have release : canServe ⟨0x06, tag, []⟩ s = true →
      exec (.selectionRelease tag []) s = .next ((setSelection .released s).replied 0x86 tag [0x00]) :=
    fun hs => exec_answered (rule := fun t => okWith [] (setSelection .released t)) rfl rfl rfl rfl rfl hs rfl
  refine ⟨fun hs => ?_, fun hs => ?_, fun hs => ⟨fun h => ?_, fun h => ?_⟩, fun hs => ⟨fun h => ?_, fun h => ?_⟩⟩
  · exact exec_answered (rule := supplyLevelRule (field _ 0 1)) (rule' := supplyLevelRule n) rfl (by rw [field_head hn]) rfl
      (by simp [bodyLengthOk]) rfl hs rfl
  · have f2 : field (bodyOf [(1, m), (1, n)]) 1 1 = n := by
      rw [field_skip _ (by decide)]
      exact field_head hn _
    refine exec_answered (rule := loanPeriodRule (field _ 0 1) (field _ 1 1)) (rule' := loanPeriodRule m n) rfl (by rw [field_head hm, f2]) rfl
      (by simp [bodyLengthOk]) rfl hs ?_
    rw [← hkept m, ← hkept n]
    rfl
  · rw [hold hs, setSelection_same h]
  · rw [hold hs, setSelection_other (by rw [h]; decide)]
  · rw [release hs, setSelection_same h]
  · rw [release hs, setSelection_other (by rw [h]; decide)]

end Sys2Proof.Machine
end

section
/-! SUPPORT. Selection: the gate, the patron dropped at once, and the first two stages of a step, item by item (R39 to R42; O32, O33). -/

namespace Sys2Proof.Machine

/-! ## The gate and the first test (R39, R40) -/

theorem gateOpen_iff (s : State) : gateOpen s = true ↔ s.selection = .released ∧ s.clock.set = true ∧
    (s.jobs.filter fun j => j.state = .queued).length < 80 ∧ s.eligibility ≠ [] ∧ s.shipments.length < 1024 := by
  have queued : s.jobs.filter (·.state == .queued) = s.jobs.filter fun j => j.state = .queued :=
    filter_of_iff (fun _ => beq_iff_eq) _
  simp [gateOpen, queued, queuedGate, shipmentCapacity, and_assoc]

theorem dropsAtOnce_iff (p : Patron) : dropsAtOnce p = true ↔ p.state ≠ .active ∨ p.shipment ≠ none ∨
    (p.cartAllow ≤ p.commCarts ∧ p.embAllow ≤ p.commCopies ∧ ∀ i ∈ p.list, i.state ≠ .reserved) := by
  simp [dropsAtOnce, cartHeadroom, embHeadroom, or_assoc, and_assoc, Option.isSome_iff_ne_none, Nat.sub_eq_zero_iff_le]

theorem selectionStep_shut {s : State} (h : ¬gateOpen s = true) : selectionStep s = s := if_neg h

/-- With the gate open, a patron at the head that is dropped, or is not in the table, leaves the queue and nothing else changes. -/
theorem selectionStep_dropped {s : State} {n : Nat} {rest : List Nat} (gate : gateOpen s = true) (he : s.eligibility = n :: rest)
    (h : ∀ p, findPatron s n = some p → dropsAtOnce p = true) : selectionStep s = { s with eligibility := rest } := by
  have found : findPatron { s with eligibility := rest } n = findPatron s n := rfl
  cases hp : findPatron s n with
  | none => simp only [selectionStep, gate, if_true, he, found, hp]
  | some p => simp only [selectionStep, gate, if_true, he, found, hp, h p hp]

/-- Settles O32: the gate by its conditions, the drop by its own. -/
theorem selectionGateAndDrop : Obligations.SelectionGateAndDrop := by
  unfold Obligations.SelectionGateAndDrop
  intro s power
  have step : exec .selectionStep s = .next (selectionStep s).stamped := event_powered selectionStep power
  refine ⟨fun shut => ?_, fun released clock queued room n rest he dropped => ?_⟩
  · have gate : ¬gateOpen s = true := by
      rw [gateOpen_iff]
      rintro ⟨released, clock, queued, waiting, room⟩
      rcases shut with h | h | h | h | h
      · rw [released] at h
        cases h
      · rw [clock] at h
        cases h
      · exact absurd queued (Nat.not_lt.2 h)
      · exact waiting h
      · exact absurd room (Nat.not_lt.2 h)
    rw [step, selectionStep_shut gate]
  · have gate : gateOpen s = true := (gateOpen_iff s).2 ⟨released, clock, queued, by simp [he], room⟩
    rw [step, selectionStep_dropped gate he fun p hp => (dropsAtOnce_iff p).2 (dropped p hp)]

/-! ## The operations of the walk, as the statements write them -/

theorem updateCopy_eq (id : Nat) (f : Copy → Copy) (s : State) : updateCopy id f s = s.withCopy id f := by
  simp only [updateCopy, State.withCopy, replace, beq_iff_eq]

theorem setItem_eq (title : Nat) (m : Medium) (st : ItemState) (p : Patron) : setItem title m st p =
    { p with list := p.list.map fun j => if j.title = title ∧ j.medium = m then { j with state := st } else j } := by
  simp only [setItem, replace, isItem_iff]

theorem allocateCopy_eq (id n shipment : Nat) (s : State) : allocateCopy id n shipment s =
    { s.withCopy id fun c => { c with state := .allocated, patron := some n, shipment := some shipment } with
      pickList := s.pickList ++ [id] } := by
  rw [allocateCopy, updateCopy_eq]

theorem shelfCopy_eq (s : State) (title : Nat) : shelfCopy s title = s.copies.find? fun c => c.title = title ∧ c.state = .shelf :=
  find?_of_iff (fun c => by simp) _

theorem headroomNow_eq {s : State} {n : Nat} {p : Patron} (h : findPatron s n = some p) : headroomNow s n = p.embAllow - p.commCopies := by
  simp only [headroomNow, h, embHeadroom]

/-! ## The walk, item by item (R41, R42) -/

section
variable {n shipment : Nat} {w : Walk} {i : ListItem}

theorem takeReserved_taken {c : Copy} (hi : i.state = .reserved)
    (hc : w.state.copies.find? (fun c => c.state = .reserved ∧ c.patron = some n ∧ c.title = i.title) = some c) :
    takeReserved n shipment w i = { w with
      state := updatePatron n (setItem i.title i.medium .inShipment) (allocateCopy c.id n shipment w.state)
      copies := w.copies ++ [c.id] } := by
  have found : w.state.copies.find? (fun c => c.state == .reserved && c.patron == some n && c.title == i.title) = some c :=
    (find?_of_iff (fun c => by simp [and_assoc]) _).trans hc
  simp only [takeReserved, hi, beq_self_eq_true, if_true, found]

theorem takeReserved_other (hi : i.state ≠ .reserved) : takeReserved n shipment w i = w := if_neg (by simpa using hi)

/-- An item of a title on cartridges that is WAITING: a candidate, or AWAITING MASTER. -/
theorem walkItem_waiting (hm : i.medium ≠ .embossed) (hi : i.state = .waiting) :
    (∀ e, readyEntry w.state i.title i.medium = some e → walkItem n shipment w i = { w with candidates := w.candidates ++ [e] }) ∧
    (readyEntry w.state i.title i.medium = none →
      walkItem n shipment w i = { w with state := updatePatron n (setItem i.title i.medium .awaitingMaster) w.state }) := by
  cases med : i.medium with
  | embossed => exact absurd med hm
  | audio | ebraille =>
    refine ⟨fun e he => ?_, fun none => ?_⟩
    · simp only [walkItem, med, hi, beq_self_eq_true, if_true, he]
    · simp only [walkItem, med, hi, beq_self_eq_true, if_true, none]

/-- An EMBOSSED item, WAITING or ON HOLD, with headroom. -/
theorem walkItem_embossed {p : Patron} (hp : findPatron w.state n = some p) (hm : i.medium = .embossed)
    (hi : i.state = .waiting ∨ i.state = .onHold) (room : p.commCopies < p.embAllow) :
    walkItem n shipment w i = walkEmbossed n shipment w i := by
  have headroom : 0 < headroomNow w.state n := by
    rw [headroomNow_eq hp]
    omega
  simp only [walkItem, hm]
  exact if_pos (by simpa [headroom] using hi)

theorem walkItem_full {p : Patron} (hp : findPatron w.state n = some p) (hm : i.medium = .embossed) (full : p.embAllow ≤ p.commCopies) :
    walkItem n shipment w i = w := by
  have headroom : headroomNow w.state n = 0 := by
    rw [headroomNow_eq hp]
    omega
  simp only [walkItem, hm]
  exact if_neg (by simp [headroom])

/-- An item in another state is passed over. -/
theorem walkItem_passed (hi : i.state = .awaitingMaster ∨ i.state = .reserved ∨ i.state = .inShipment) : walkItem n shipment w i = w := by
  have waiting : (i.state == .waiting) = false := by rcases hi with h | h | h <;> rw [h] <;> rfl
  have held : (i.state == .onHold) = false := by rcases hi with h | h | h <;> rw [h] <;> rfl
  unfold walkItem
  split
  · simp [waiting, held]
  · simp [waiting]

theorem walkEmbossed_taken {c : Copy} (hc : shelfCopy w.state i.title = some c) : walkEmbossed n shipment w i = { w with
    state := updatePatron n (fun p => setItem i.title .embossed .inShipment { p with commCopies := p.commCopies + 1 })
      (dropHold i.title n (allocateCopy c.id n shipment w.state))
    copies := w.copies ++ [c.id] } := by
  simp only [walkEmbossed, hc]

/-- Without a copy on SHELF: a WAITING item joins its title's hold queue while the pool has room, any other stays. -/
theorem walkEmbossed_missing (hc : shelfCopy w.state i.title = none) :
    (i.state = .waiting → w.state.holds.length < 4096 → walkEmbossed n shipment w i = { w with
      state := updatePatron n (setItem i.title .embossed .onHold)
        { w.state with holds := w.state.holds ++ [⟨i.title, n, today w.state⟩] } }) ∧
    (i.state = .onHold ∨ 4096 ≤ w.state.holds.length → walkEmbossed n shipment w i = w) := by
  refine ⟨fun hi room => ?_, fun hi => ?_⟩
  · simp only [walkEmbossed, hc, hi, beq_self_eq_true, Bool.true_and, decide_eq_true_eq]
    exact if_pos room
  · have no : ¬((i.state == .waiting && decide (w.state.holds.length < holdPool)) = true) := by
      rw [Bool.and_eq_true, beq_iff_eq, decide_eq_true_eq]
      rintro ⟨waiting, room⟩
      rcases hi with h | h
      · rw [waiting] at h
        cases h
      · exact absurd room (Nat.not_lt.2 h)
    simp only [walkEmbossed, hc, if_neg no]

end

/-- Settles O33: the two stages over the list, and each item by its medium and state. -/
theorem selectionWalkTakesEachItem : Obligations.SelectionWalkTakesEachItem := by
  unfold Obligations.SelectionWalkTakesEachItem
  refine ⟨fun s n number p hp => ?_, fun s copies found n number i p hp => ?_⟩
  · intro reserved
    obtain ⟨q, hq, -⟩ := (gathers_walk (gathers_takeReserved n number) p.list ⟨s, [], []⟩).patron p hp
    have list : listOf s n = p.list := by simp only [listOf, hp]
    have left : listOf reserved.state n = q.list := by simp only [listOf, show findPatron reserved.state n = some q from hq]
    refine ⟨q, hq, ?_⟩
    rw [← left]
    show (listOf ((listOf s n).foldl (takeReserved n number) ⟨s, [], []⟩).state n).foldl (walkItem n number) _ = _
    rw [list]
  · intro w give item
    have allocate : ∀ id, allocateCopy id n number s = give s id := fun id => allocateCopy_eq id n number s
    have set : ∀ (u : State) (st : ItemState), updatePatron n (setItem i.title i.medium st) u = item u st 0 := by
      intro u st
      rw [updatePatron_eq]
      simp only [State.withPatron, setItem_eq]
      rfl
    refine ⟨fun c hi hc => ?_, takeReserved_other, fun hm hi => ?_,
      fun hm hi room => ⟨fun c hc => ?_, fun none => ⟨fun hi pool => ?_, fun hi' => ?_⟩⟩, walkItem_full hp, walkItem_passed⟩
    · rw [takeReserved_taken (w := w) hi hc, allocate, set]
    · obtain ⟨ready, awaiting⟩ := walkItem_waiting (n := n) (shipment := number) (w := w) hm hi
      exact ⟨ready, fun none => (awaiting none).trans (by rw [set])⟩
    · rw [walkItem_embossed (w := w) hp hm hi room, walkEmbossed_taken (w := w) ((shelfCopy_eq s _).trans hc), allocate, dropHold_eq, updatePatron_eq]
      simp only [State.withPatron, setItem_eq, ← hm]
      rfl
    all_goals
      have missing : shelfCopy w.state i.title = Option.none := by
        rw [shelfCopy_eq, List.find?_eq_none]
        exact fun c hc => by simpa using none c hc
      obtain ⟨holds, stays⟩ := walkEmbossed_missing (n := n) (shipment := number) missing
    · rw [walkItem_embossed (w := w) hp hm (.inl hi) room, holds hi pool, ← hm, set]
      rfl
    · rw [walkItem_embossed (w := w) hp hm hi room, stays hi']

end Sys2Proof.Machine
end

section
/-! SUPPORT. SHIPMENT CANCEL: when it is refused, and what it undoes (R50; O37). -/

namespace Sys2Proof.Machine

/-! ## The request and its refusal -/

theorem exec_shipmentCancel {s t : State} {tag : Byte} {data : List Byte} {n : Nat} (h : n < 65536)
    (hs : canServe ⟨0x31, tag, bodyOf [(2, n)]⟩ s = true) (ha : shipmentCancelRule n s = (t, data)) :
    exec (.shipmentCancel tag (bodyOf [(2, n)])) s = .next (t.replied 0xB1 tag data) :=
  exec_answered (rule := shipmentCancelRule (field _ 0 2)) rfl (by rw [field_head h]) rfl (by simp [bodyLengthOk]) rfl hs ha

theorem findShipment_number {s : State} {n : Nat} {sh : Shipment} (h : findShipment s n = some sh) : sh.number = n := by
  simpa using List.find?_some h

theorem cancelBusy_iff (s : State) (sh : Shipment) : cancelBusy s sh = true ↔
    sh.containers ≠ [] ∨ ∃ l ∈ sh.jobLines, ∃ j, findJob s l.job = some j ∧ j.state ≠ .queued := by
  rw [cancelBusy, Bool.or_eq_true, List.any_eq_true]
  refine or_congr (by simp) (exists_congr fun l => and_congr_right fun _ => ?_)
  cases findJob s l.job <;> simp

/-! ## The items that return (R50, steps 2 and 3) -/

/-- The item is of the title of one of these copies. -/
def copiedItem (s : State) (ids : List Nat) (i : ListItem) : Bool :=
  i.medium == .embossed && ids.any fun id => (findCopy s id).any fun c => c.title == i.title

theorem copiedItem_iff (s : State) (ids : List Nat) (i : ListItem) : copiedItem s ids i = true ↔
    i.medium = .embossed ∧ ∃ id ∈ ids, ∃ c, findCopy s id = some c ∧ c.title = i.title := by
  simp [copiedItem, Option.any_eq_true]

/-- A change of a list that sets, copy after copy, the items of their titles to WAITING. -/
theorem foldl_copiedItems {s : State} {f : Patron → Nat → Patron}
    (held : ∀ q id c, findCopy s id = some c → f q id = setItem c.title .embossed .waiting q)
    (missing : ∀ q id, findCopy s id = none → f q id = q) (ids : List Nat) (p : Patron) :
    ids.foldl f p = { p with list := p.list.map fun i => if copiedItem s ids i then { i with state := .waiting } else i } := by
  induction ids generalizing p with
  | nil => simp [copiedItem]
  | cons id ids ih =>
    rw [List.foldl_cons, ih]
    cases hc : findCopy s id with
    | none =>
      rw [missing p id hc]
      simp [copiedItem, hc]
    | some c =>
      rw [held p id c hc, setItem_eq]
      simp only [List.map_map]
      congr 1
      refine List.map_congr_left fun i _ => ?_
      by_cases hm : i.medium = .embossed
      · by_cases ht : i.title = c.title
        · simp [copiedItem, hc, hm, ht]
        · simp [copiedItem, hc, hm, ht, Ne.symm ht]
      · simp [copiedItem, hm]

theorem releaseCopyItems_eq (s : State) (sh : Shipment) (p : Patron) : releaseCopyItems s sh p = { p with
    commCopies := p.commCopies - sh.copyLines.length
    list := p.list.map fun i => if copiedItem s sh.copyLines i then { i with state := .waiting } else i } := by
  unfold releaseCopyItems
  rw [foldl_copiedItems (s := s)]
  · exact fun q id c h => by simp only [h]
  · exact fun q id h => by simp only [h]

theorem mem_shipmentParts {s : State} {sh : Shipment} {q : Part} :
    q ∈ shipmentParts s sh ↔ ∃ l ∈ sh.jobLines, ∃ j, findJob s l.job = some j ∧ q ∈ j.parts := by
  rw [shipmentParts, List.mem_flatMap]
  refine exists_congr fun l => and_congr_right fun _ => ?_
  cases findJob s l.job <;> simp

/-- An item of a cancelled shipment, its jobs deleted: released if one of these parts carried it, WAITING if one of its copies was of its title. -/
def cancelledItem (s deleted : State) (sh : Shipment) (i : ListItem) : ListItem :=
  if copiedItem s sh.copyLines i then { i with state := .waiting }
  else if carriedBy (shipmentParts s sh) i then releasedItem deleted i else i

/-- The patron of a cancelled shipment (R50). -/
def cancelledPatron (s deleted : State) (sh : Shipment) (p : Patron) : Patron :=
  { p with
    shipment := none
    commCarts := p.commCarts - sh.jobLines.length
    commCopies := p.commCopies - sh.copyLines.length
    list := p.list.map (cancelledItem s deleted sh) }

theorem cancelledPatron_eq (s deleted : State) (sh : Shipment) (p : Patron) :
    { releaseCopyItems s sh (releaseItems deleted (shipmentParts s sh) { p with commCarts := p.commCarts - sh.jobLines.length }) with
      shipment := none } = cancelledPatron s deleted sh p := by
  simp only [releaseCopyItems_eq, releaseItems, cancelledPatron, replace, List.map_map]
  congr 1
  refine List.map_congr_left fun i _ => ?_
  have same : ∀ st, copiedItem s sh.copyLines { i with state := st } = copiedItem s sh.copyLines i := fun _ => rfl
  by_cases carried : carriedBy (shipmentParts s sh) i = true
  · simp [cancelledItem, carried, releasedItem, same]
  · simp [cancelledItem, carried]

/-! ## The shipment freed (R49, R50) -/

theorem patrons_deleteJob (n : Nat) (s : State) : (deleteJob n s).patrons = s.patrons := by
  cases h : findJob s n with
  | none => rw [deleteJob_missing h]
  | some j => rw [deleteJob_eq h]

theorem patrons_deleteLines (lines : List JobLine) (s : State) : (lines.foldl (fun t l => deleteJob l.job t) s).patrons = s.patrons := by
  induction lines generalizing s with
  | nil => rfl
  | cons l ls ih => rw [List.foldl_cons, ih, patrons_deleteJob]

/-- The state in which a cancelled shipment's copies go to SHELF. -/
def cancelledState (sh : Shipment) (s : State) : State :=
  let deleted := sh.jobLines.foldl (fun t l => deleteJob l.job t) s
  { deleted with
    patrons := s.patrons.map fun p => if p.number = sh.patron then cancelledPatron s deleted sh p else p
    shipments := s.shipments.filter fun x => x.number ≠ sh.number }

/-- A patron changed, and then its shipment freed. -/
theorem freeShipment_updatePatron {t : State} {sh : Shipment} (h : findShipment t sh.number = some sh) {f : Patron → Patron}
    (number : ∀ p, (f p).number = p.number) : freeShipment sh.number (updatePatron sh.patron f t) =
      { t with
        patrons := t.patrons.map fun p => if p.number = sh.patron then { f p with shipment := none } else p
        shipments := t.shipments.filter fun x => x.number ≠ sh.number } := by
  have found : findShipment (updatePatron sh.patron f t) sh.number = some sh := h
  simp only [freeShipment, found]
  simp only [updatePatron_eq, State.withPatron, filter_key_bne, List.map_map]
  congr 1
  refine List.map_congr_left fun p _ => ?_
  by_cases hp : p.number = sh.patron
  · simp [hp, number]
  · simp [hp]

theorem cancelShipment_eq {s : State} {sh : Shipment} (h : findShipment s sh.number = some sh) :
    cancelShipment sh s = sh.copyLines.foldl (fun t id => toShelf id t) (cancelledState sh s) := by
  have found : findShipment (sh.jobLines.foldl (fun t l => deleteJob l.job t) s) sh.number = some sh := by
    rw [findShipment, shipments_deleteLines]
    exact h
  unfold cancelShipment
  dsimp only
  rw [freeShipment_updatePatron found (fun p => by rw [releaseCopyItems_eq]; rfl), patrons_deleteLines, shipments_deleteLines]
  simp only [cancelledPatron_eq]
  rfl

/-- What becomes of an item of a cancelled shipment, as the statement writes it. -/
theorem cancelledItem_cases (s deleted : State) (sh : Shipment) (i : ListItem) :
    let carried := ∃ l ∈ sh.jobLines, ∃ j, findJob s l.job = some j ∧ ∃ q ∈ j.parts, i.title = q.key.title ∧ i.medium = q.key.medium
    let copied := i.medium = .embossed ∧ ∃ id ∈ sh.copyLines, ∃ c, findCopy s id = some c ∧ c.title = i.title
    (copied → cancelledItem s deleted sh i = { i with state := .waiting }) ∧
    (¬copied → i.state = .inShipment → carried → cancelledItem s deleted sh i =
      { i with state := if readyEntry deleted i.title i.medium = none then .awaitingMaster else .waiting }) ∧
    (¬copied → ¬(i.state = .inShipment ∧ carried) → cancelledItem s deleted sh i = i) := by
  intro carried copied
  have hcopied : copiedItem s sh.copyLines i = true ↔ copied := copiedItem_iff s sh.copyLines i
  have hcarried : carriedBy (shipmentParts s sh) i = true ↔ i.state = .inShipment ∧ carried := by
    rw [carriedBy, Bool.and_eq_true, beq_iff_eq, List.any_eq_true]
    refine and_congr_right fun _ => ⟨fun ⟨q, hq, same⟩ => ?_, fun ⟨l, hl, j, hj, q, hq, same⟩ =>
      ⟨q, mem_shipmentParts.2 ⟨l, hl, j, hj, hq⟩, isItem_iff.2 same⟩⟩
    obtain ⟨l, hl, j, hj, hq⟩ := mem_shipmentParts.1 hq
    exact ⟨l, hl, j, hj, q, hq, isItem_iff.1 same⟩
  refine ⟨fun hc => if_pos (hcopied.2 hc), fun hc hi hq => ?_, fun hc hq => ?_⟩
  · rw [cancelledItem, if_neg (mt hcopied.1 hc), if_pos (hcarried.2 ⟨hi, hq⟩), releasedItem, ite_isSome]
  · rw [cancelledItem, if_neg (mt hcopied.1 hc), if_neg (mt hcarried.1 hq)]

/-- Settles O37: the refusals, and the cancelled state with its patrons and their items one by one. -/
theorem shipmentCancelUndoes : Obligations.ShipmentCancelUndoes := by
  unfold Obligations.ShipmentCancelUndoes
  intro s tag n h hs reply
  refine ⟨fun none => exec_shipmentCancel h hs (by rw [shipmentCancelRule, none]; rfl), fun sh hsh => ⟨fun busy => ?_, fun closed queued => ?_⟩⟩
  · refine exec_shipmentCancel h hs ?_
    rw [shipmentCancelRule, hsh]
    exact if_pos ((cancelBusy_iff s sh).2 busy)
  · intro deleted carried copied
    obtain rfl : sh.number = n := findShipment_number hsh
    have free : ¬cancelBusy s sh = true := by
      rw [cancelBusy_iff]
      rintro (h | ⟨l, hl, j, hj, h⟩)
      · exact h closed
      · exact h (queued l hl j hj)
    refine ⟨cancelledState sh s, exec_shipmentCancel h hs ?_, rfl, ?_, List.length_map .., ?_⟩
    · rw [shipmentCancelRule, hsh]
      refine (if_neg free).trans ?_
      rw [cancelShipment_eq hsh]
      rfl
    · have patrons : s.patrons = deleted.patrons := (patrons_deleteLines _ _).symm
      have shipments : s.shipments = deleted.shipments := (shipments_deleteLines _ _).symm
      rw [patrons, shipments]
      rfl
    · intro y hy
      rw [show (cancelledState sh s).patrons = s.patrons.map _ from rfl, ← List.map_prod_left_eq_zip] at hy
      obtain ⟨p, -, rfl⟩ := List.mem_map.1 hy
      refine ⟨fun other => if_neg other, fun own => ?_⟩
      dsimp only at own ⊢
      rw [if_pos own]
      refine ⟨rfl, List.length_map .., fun x hx => ?_⟩
      rw [cancelledPatron, ← List.map_prod_left_eq_zip] at hx
      obtain ⟨i, -, rfl⟩ := List.mem_map.1 hx
      exact cancelledItem_cases s deleted sh i

end Sys2Proof.Machine
end

section
/-! SUPPORT. Containers: the number a new one takes, where an item goes, sealing, the cut-off between two seals, dissolution and the pack
deadline (R46, R133, R134, R139, R140, R145, R146, R156; O52). -/

namespace Sys2Proof.Machine

/-! ## The operations on containers, as the statements write them -/

theorem updateCart_eq (serial : Nat) (f : Cartridge → Cartridge) (s : State) : updateCart serial f s = s.withCart (some serial) f := by
  simp only [updateCart, State.withCart, replace, beq_iff_eq, Option.some.injEq, eq_comm (a := serial)]

theorem openBatch_eq (s : State) : openBatch s = s.batches.find? fun b => b.state = .open := rfl

theorem capacityOf_eq (k : ContainerKind) : capacityOf k = if k = .pouch then 3 else 24 := by cases k <;> rfl

theorem fitting_eq (s : State) (n units : Nat) : fitting s n units =
    (s.containers.find? fun c => c.shipment = n ∧ c.state = .open).filter fun c => c.units + units ≤ capacityOf c.kind := by
  rw [fitting, openContainer_eq]

/-! ## The number of a new container (R133) -/

/-- The container numbers that are held: those of the containers and those of the released entries. -/
def heldNumbers (s : State) : List Nat :=
  s.containers.map (·.number) ++ s.shipments.flatMap fun sh => (sh.containers.filter fun e => e.released = true).map (·.number)

theorem newContainerNumber_eq (s : State) : newContainerNumber s = takeNumber 65535 (heldNumbers s) s.containerCounter := by
  simp only [newContainerNumber, heldNumbers, filter_eq_true ContainerEntry.released]

/-! ## Placement (R139) -/

theorem placeItem_fitting {s : State} {sh : Shipment} {i : Item} {c : Container} (h : fitting s sh.number (itemUnits i) = some c) :
    placeItem sh i s = ⟨{ s with containers := s.containers.map fun d => if d = c then addItem i (now s) d else d }, c.number, 0⟩ := by
  simp only [placeItem, h, replace, beq_iff_eq]

theorem placeItem_new {s : State} {sh : Shipment} {i : Item} (h : fitting s sh.number (itemUnits i) = none) :
    placeItem sh i s = ⟨openFor (newContainerNumber s) sh i (sealAsItStands sh.number s), newContainerNumber s,
      ((openContainer s sh.number).map (·.number)).getD 0⟩ := by
  simp only [placeItem, h]

theorem sealAsItStands_open {s : State} {n : Nat} {c : Container} (h : openContainer s n = some c) :
    sealAsItStands n s = sealContainer c.number false s := by
  simp only [sealAsItStands, h]

theorem sealAsItStands_none {s : State} {n : Nat} (h : openContainer s n = none) : sealAsItStands n s = s := by
  simp only [sealAsItStands, h]

/-- A container opened stands in its place by number, and its shipment is PACKING with an entry for it (R46, R133, R139). -/
theorem openFor_between (n : Nat) (sh : Shipment) (i : Item) (u : State) : ∃ before behind, u.containers = before ++ behind ∧
    (∀ c ∈ before, c.number ≤ n) ∧ (∀ c, behind.head? = some c → n < c.number) ∧
    openFor n sh i u = State.withShipment { u with
        containers := before ++ firstContainer n sh i (now u) :: behind
        containerCounter := numberAfter 65535 n } sh.number fun x =>
          { x with state := .packing, containers := x.containers ++ [⟨n, false⟩] } := by
  obtain ⟨before, behind, split, below, above, inserted⟩ :=
    insertBy_between Container.number (firstContainer n sh i (now u)) u.containers
  refine ⟨before, behind, split, below, above, ?_⟩
  rw [openFor, updateShipment_eq, show insertBy containerBefore (firstContainer n sh i (now u)) u.containers = _ from inserted]

/-! ## Sealing (R46, R140, R145) -/

section
variable {s : State} {n container old : Nat} {sh : Shipment} {c : Container} (hsh : findShipment s n = some sh)
  (hc : findContainer s container = some c)
include hsh hc

theorem sealAfter_last (h : sh.toScan = 0) : sealAfter n container old s =
    sealShipment n (sealContainer container true (if old = 0 then s else betweenSeals s)) := by
  simp only [sealAfter, hsh, hc, h, if_true]

theorem sealAfter_full (h : sh.toScan ≠ 0) (full : c.units = capacityOf c.kind) : sealAfter n container old s =
    sealContainer container false (if old = 0 then s else betweenSeals s) := by
  simp only [sealAfter, hsh, hc, if_neg h, if_pos full]

theorem sealAfter_open (h : sh.toScan ≠ 0) (room : c.units ≠ capacityOf c.kind) : sealAfter n container old s =
    updateContainer container (fun x => { x with deadline := if readyToPack s sh then some (now s + 30) else none }) s := by
  simp only [sealAfter, hsh, hc, if_neg h, if_neg room, scanDeadline]

end

/-! ## A cut-off between two seals (R156) -/

theorem betweenSeals_none {s : State} (h : openBatch s = none) : betweenSeals s = s := by
  simp only [betweenSeals, cutoffDue, h, Bool.false_eq_true, if_false]

theorem cutoffDue_iff {s : State} {b : Batch} (h : openBatch s = some b) :
    cutoffDue s = true ↔ s.clock.set = true ∧ b.late = false ∧ b.cutoff ≤ now s := by
  simp [cutoffDue, h, and_assoc]

theorem betweenSeals_early {s : State} (h : ¬cutoffDue s = true) : betweenSeals s = s := if_neg h

/-- A cut-off that is due is taken or left, by a free value (log 35). -/
theorem betweenSeals_due {s : State} (h : cutoffDue s = true) : betweenSeals s = { s with choices := s.choices + 1 } ∨
    betweenSeals s = cutoffReached { s with choices := s.choices + 1 } := by
  rw [betweenSeals, if_pos h]
  exact (ite_eq_or_eq _ _ _).symm

/-! ## Dissolution (R146) -/

theorem dissolve_eq (c : Container) (s : State) : dissolve c s = afterDissolve c.shipment
    { ((c.items.foldl unpackItem s).withShipment c.shipment fun x =>
        { x with toScan := x.toScan + c.items.length, containers := x.containers.filter fun e => e.number ≠ c.number }) with
      containers := s.containers.filter fun d => d.number ≠ c.number } := by
  have same : ∀ f, ((c.items.foldl unpackItem s).withShipment c.shipment f).containers = s.containers := fun _ => containers_unpack _ _
  unfold dissolve
  dsimp only
  simp only [updateShipment_eq, filter_key_bne, same]

theorem unpackItem_cartridge (s : State) (serial : Nat) : unpackItem s (.cartridge serial) =
    s.withCart (some serial) fun r => { r with state := if r.state = .packed then .written else r.state } := by
  have same : (fun c : Cartridge => if c.state == .packed then { c with state := .written } else c) =
      fun r => { r with state := if r.state = .packed then .written else r.state } := by
    funext c
    by_cases h : c.state = .packed <;> simp [h]
  rw [unpackItem, updateCart_eq, same]

theorem volumesScanned_eq_zero (c : Copy) : volumesScanned c = 0 ↔ ∀ m ∈ c.marks, m = false := by
  simp [volumesScanned, List.filter_eq_nil_iff]

/-- Two changes of a copy are one. -/
theorem withCopy_withCopy (s : State) (id : Nat) {f : Copy → Copy} (keep : ∀ c, (f c).id = c.id) (g : Copy → Copy) :
    (s.withCopy id f).withCopy id g = s.withCopy id fun c => g (f c) := by
  simp only [State.withCopy, List.map_map]
  congr 1
  refine List.map_congr_left fun c _ => ?_
  by_cases h : c.id = id <;> simp [h, keep]

section
variable {s : State} {c : Copy} (h : findCopy s c.id = some c) (volume : Nat)
include h

theorem findCopy_setMark : findCopy (updateCopy c.id (setMark volume false) s) c.id = some (setMark volume false c) := by
  rw [findCopy_updateCopy c.id (setMark volume false) (fun _ => rfl), h, Option.map_some]

/-- The last mark of a PACKED copy cleared: ALLOCATED, at the pick list's tail. -/
theorem unpackItem_volume_last (packed : c.state = .packed) (clear : ∀ m ∈ (setMark volume false c).marks, m = false) :
    unpackItem s (.volume c.id volume) = { s.withCopy c.id fun d => { setMark volume false d with state := .allocated } with
      pickList := s.pickList ++ [c.id] } := by
  have out : ((setMark volume false c).state == .packed && volumesScanned (setMark volume false c) == 0) = true := by
    rw [Bool.and_eq_true, beq_iff_eq, beq_iff_eq, volumesScanned_eq_zero]
    exact ⟨packed, clear⟩
  simp only [unpackItem, findCopy_setMark h, out, if_true]
  rw [updateCopy_eq, updateCopy_eq, withCopy_withCopy _ _ (f := setMark volume false) (fun _ => rfl)]
  rfl

theorem unpackItem_volume_marked (left : c.state ≠ .packed ∨ true ∈ (setMark volume false c).marks) :
    unpackItem s (.volume c.id volume) = s.withCopy c.id (setMark volume false) := by
  have kept : ¬((setMark volume false c).state == .packed && volumesScanned (setMark volume false c) == 0) = true := by
    rw [Bool.and_eq_true, beq_iff_eq, beq_iff_eq, volumesScanned_eq_zero]
    rintro ⟨packed, clear⟩
    rcases left with other | mark
    · exact other packed
    · cases clear true mark
  simp only [unpackItem, findCopy_setMark h, if_neg kept]
  rw [updateCopy_eq]

end

section
variable {s : State} {n : Nat} {sh : Shipment} (h : findShipment s n = some sh)
include h

theorem afterDissolve_ready (none : sh.containers = []) (packing : sh.state = .packing) (written : allWritten s sh = true) :
    afterDissolve n s = (s.withShipment n fun x => { x with state := .ready }).flagged .shipmentReady := by
  simp only [afterDissolve, h, none, packing, written, List.isEmpty_nil, beq_self_eq_true, Bool.and_self, if_true]
  rw [setEvent_flagged, updateShipment_eq]

theorem afterDissolve_assembling (none : sh.containers = []) (packing : sh.state = .packing) (written : ¬allWritten s sh = true) :
    afterDissolve n s = s.withShipment n fun x => { x with state := .assembling } := by
  simp only [afterDissolve, h, none, packing, written, List.isEmpty_nil, beq_self_eq_true, Bool.and_self, if_true, Bool.false_eq_true, if_false]
  rw [updateShipment_eq]

theorem afterDissolve_packing (left : sh.containers ≠ [] ∨ sh.state ≠ .packing) : afterDissolve n s = s := by
  simp only [afterDissolve, h]
  exact if_neg (by simpa [imp_iff_not_or] using left)

end

/-! ## The pack deadline (R145) -/

theorem deadlinePassed_iff {s : State} {c : Container} {due : Nat} (h : c.deadline = some due) :
    deadlinePassed s c = true ↔ c.state = .open ∧ due ≤ now s := by
  simp [deadlinePassed, h]

theorem packTimeout_due {s : State} {n : Nat} {c : Container} (h : findContainer s n = some c) (due : deadlinePassed s c = true) :
    packTimeout n s = dissolve c s := by
  simp only [packTimeout, h, due, if_true]

theorem packTimeout_early {s : State} {n : Nat} (h : ∀ c, findContainer s n = some c → ¬deadlinePassed s c = true) : packTimeout n s = s := by
  cases hc : findContainer s n with
  | none => simp only [packTimeout, hc]
  | some c => simp only [packTimeout, hc, if_neg (h c hc)]

/-- Settles O52: each operation by its own lemmas. -/
theorem containersFillSealAndDissolve : Obligations.ContainersFillSealAndDissolve := by
  unfold Obligations.ContainersFillSealAndDissolve
  refine ⟨fun s n units => ?_, fun s => ?_, fun s sh i => ?_, fun s sh c old hsh hc => ?_,
    fun s => ⟨fun none => ?_, fun b hb => ⟨fun early => ?_, ?_⟩⟩,
    fun s n final => ?_, fun s c => dissolve_eq c s, unpackItem_cartridge, fun s c volume h => ?_, fun s sh h => ?_, fun s n c power => ?_⟩
  · exact fitting_eq s n units
  · intro held
    rw [newContainerNumber_eq]
    exact ⟨takeNumber_of_free, takeNumber_free _ _ _⟩
  · intro units kind
    have hunits : units = itemUnits i := by cases i <;> rfl
    have hkind : kind = newKind sh i := by
      cases i
      · simp only [newKind, List.isEmpty_iff]
        rfl
      · rfl
    clear_value units kind
    subst hunits hkind
    refine ⟨fun c hc => placeItem_fitting hc, fun hn => ?_⟩
    intro old u n
    have opened : openContainer s sh.number = old := openContainer_eq s _
    have hu : sealAsItStands sh.number s = u := by
      clear_value old
      cases old with
      | none => exact sealAsItStands_none opened
      | some c => exact sealAsItStands_open opened
    obtain ⟨before, behind, split, below, above, result⟩ := openFor_between n sh i u
    refine ⟨before, behind, split, below, above, ?_⟩
    rw [placeItem_new hn, hu, result, opened]
    rfl
  · intro second
    refine ⟨fun last => ?_, fun more full => ?_, fun more room => ?_⟩
    · rw [sealAfter_last hsh hc last, sealShipment_eq]
    · exact sealAfter_full hsh hc more (full.trans (capacityOf_eq _).symm)
    · rw [sealAfter_open hsh hc more (by rwa [capacityOf_eq]), updateContainer_eq]
      rfl
  · refine betweenSeals_none ?_
    rw [openBatch_eq, List.find?_eq_none]
    exact fun b hb => by simpa using none b hb
  · refine betweenSeals_early ?_
    rw [cutoffDue_iff ((openBatch_eq s).trans hb)]
    rintro ⟨clock, late, come⟩
    rcases early with h | h | h
    · rw [clock] at h
      cases h
    · rw [late] at h
      cases h
    · exact absurd come (Nat.not_le.2 h)
  · exact fun clock late come => betweenSeals_due ((cutoffDue_iff ((openBatch_eq s).trans hb)).2 ⟨clock, late, come⟩)
  · rw [sealContainer, updateContainer_eq]
    rfl
  · exact ⟨unpackItem_volume_last h volume, unpackItem_volume_marked h volume⟩
  · intro written becomes
    have hwritten : allWritten s sh = true ↔ written := allWritten_iff s sh
    exact ⟨fun none packing w => afterDissolve_ready h none packing (hwritten.2 w),
      fun none packing w => afterDissolve_assembling h none packing (mt hwritten.1 w), afterDissolve_packing h⟩
  · have step : exec (.packTimeout n) s = .next (packTimeout n s).stamped := event_powered (packTimeout n) power
    have waits : (∀ d, findContainer s n = some d → ¬deadlinePassed s d = true) → exec (.packTimeout n) s = .next s.stamped :=
      fun h => step.trans (by rw [packTimeout_early h])
    refine ⟨fun none => waits fun d hd => ?_, fun hc due hdue => ⟨fun opened come => ?_, fun early => waits fun d hd => ?_⟩,
      fun hc never => waits fun d hd => ?_⟩
    · rw [none] at hd
      cases hd
    · rw [step, packTimeout_due hc ((deadlinePassed_iff hdue).2 ⟨opened, come⟩)]
    · obtain rfl : c = d := Option.some.inj (hc.symm.trans hd)
      rw [deadlinePassed_iff hdue]
      rintro ⟨opened, come⟩
      exact early.elim (· opened) (Nat.not_lt.2 come)
    · obtain rfl : c = d := Option.some.inj (hc.symm.trans hd)
      simp [deadlinePassed, never]

end Sys2Proof.Machine
end

section
/-! SUPPORT. The queries of lists: each request reads back the fields it was built of, and its rule reports a part of a table (R38, R67, R111,
R113, R114, R129 to R131, R136, R148, R164, R179; O59). -/

namespace Sys2Proof.Machine

/-! ## The requests -/

section
variable {s : State} {tag : Byte} {data : List Byte}

theorem asked_listQuery {n : Nat} (h : n < 16777216) (ha : listQueryRule n s = (s, data))
    (hs : canServe ⟨0x22, tag, bodyOf [(3, n)]⟩ s = true) :
    exec (.listQuery tag (bodyOf [(3, n)])) s = .next (s.replied (0x22 + 0x80) tag data) :=
  exec_asked (rule := listQueryRule (field _ 0 3)) rfl (by rw [field_head h]) rfl (by simp [bodyLengthOk]) rfl ha hs

theorem asked_holdQueue {form title start : Nat} (h1 : form ≠ 1) (hf : form < 256) (ht : title < 16777216) (h : start < 65536)
    (ha : holdQueueRule form title start s = (s, data)) (hs : canServe ⟨0x2A, tag, bodyOf [(1, form), (3, title), (2, start)]⟩ s = true) :
    exec (.holdQueryQueue tag (bodyOf [(1, form), (3, title), (2, start)])) s = .next (s.replied (0x2A + 0x80) tag data) := by
  have f1 : field (bodyOf [(1, form), (3, title), (2, start)]) 0 1 = form := field_head hf _
  have f2 : field (bodyOf [(1, form), (3, title), (2, start)]) 1 3 = title := by
    rw [field_skip _ (by decide)]
    exact field_head ht _
  have f3 : field (bodyOf [(1, form), (3, title), (2, start)]) 4 2 = start := by
    iterate 2 rw [field_skip _ (by decide)]
    exact field_head h _
  have long : bodyLengthOk ⟨0x2A, tag, bodyOf [(1, form), (3, title), (2, start)]⟩ = true := by
    show bodyLengthOk.byForm _ _ [6, 7] = true
    rw [bodyLengthOk.byForm, f1]
    rcases form with _ | _ | form
    · simp
    · exact absurd rfl h1
    · simp
  exact exec_asked (rule := holdQueueRule (field _ 0 1) (field _ 1 3) (field _ 4 2)) rfl (by rw [f1, f2, f3])
    (by exact if_neg (form_ne hf (by decide) h1 _)) long rfl ha hs

theorem asked_holdCopies {title start : Nat} (ht : title < 16777216) (h : start < 16777216) (ha : holdCopiesRule title start s = (s, data))
    (hs : canServe ⟨0x2A, tag, bodyOf [(1, 1), (3, title), (3, start)]⟩ s = true) :
    exec (.holdQueryCopies tag (bodyOf [(1, 1), (3, title), (3, start)])) s = .next (s.replied (0x2A + 0x80) tag data) := by
  have f2 : field (bodyOf [(1, 1), (3, title), (3, start)]) 1 3 = title := by
    rw [field_skip _ (by decide)]
    exact field_head ht _
  have f3 : field (bodyOf [(1, 1), (3, title), (3, start)]) 4 3 = start := by
    iterate 2 rw [field_skip _ (by decide)]
    exact field_head h _
  exact exec_asked (rule := holdCopiesRule (field _ 1 3) (field _ 4 3)) rfl (by rw [f2, f3]) rfl rfl rfl ha hs

theorem asked_pickList {start : Nat} (h : start < 65536) (ha : pickListRule start s = (s, data))
    (hs : canServe ⟨0x2B, tag, bodyOf [(2, start)]⟩ s = true) :
    exec (.pickList tag (bodyOf [(2, start)])) s = .next (s.replied (0x2B + 0x80) tag data) :=
  exec_asked (rule := pickListRule (field _ 0 2)) rfl (by rw [field_head h]) rfl (by simp [bodyLengthOk]) rfl ha hs

theorem asked_jobQueue {start : Nat} (h : start < 256) (ha : jobQueueRule start s = (s, data))
    (hs : canServe ⟨0x32, tag, bodyOf [(2, 0), (1, start)]⟩ s = true) :
    exec (.jobQueryQueue tag (bodyOf [(2, 0), (1, start)])) s = .next (s.replied (0x32 + 0x80) tag data) := by
  have f2 : field (bodyOf [(2, 0), (1, start)]) 2 1 = start := by
    rw [field_skip _ (by decide)]
    exact field_head h _
  exact exec_asked (rule := jobQueueRule (field _ 2 1)) rfl (by rw [f2]) rfl (by simp [bodyLengthOk]) rfl ha hs

theorem asked_cartridgeSearch {title medium edition start : Nat} (h1 : title < 16777216) (h2 : medium < 256) (h3 : edition < 256)
    (h4 : start < 4294967296) (ha : cartridgeSearchRule title medium edition start s = (s, data))
    (hs : canServe ⟨0x40, tag, bodyOf [(1, 2), (3, title), (1, medium), (1, edition), (4, start)]⟩ s = true) :
    exec (.cartridgeQuerySearch tag (bodyOf [(1, 2), (3, title), (1, medium), (1, edition), (4, start)])) s =
      .next (s.replied (0x40 + 0x80) tag data) := by
  have f1 : field (bodyOf [(1, 2), (3, title), (1, medium), (1, edition), (4, start)]) 1 3 = title := by
    rw [field_skip _ (by decide)]
    exact field_head h1 _
  have f2 : field (bodyOf [(1, 2), (3, title), (1, medium), (1, edition), (4, start)]) 4 1 = medium := by
    iterate 2 rw [field_skip _ (by decide)]
    exact field_head h2 _
  have f3 : field (bodyOf [(1, 2), (3, title), (1, medium), (1, edition), (4, start)]) 5 1 = edition := by
    iterate 3 rw [field_skip _ (by decide)]
    exact field_head h3 _
  have f4 : field (bodyOf [(1, 2), (3, title), (1, medium), (1, edition), (4, start)]) 6 4 = start := by
    iterate 4 rw [field_skip _ (by decide)]
    exact field_head h4 _
  exact exec_asked (rule := cartridgeSearchRule (field _ 1 3) (field _ 4 1) (field _ 5 1) (field _ 6 4)) rfl (by rw [f1, f2, f3, f4]) rfl rfl
    rfl ha hs

theorem asked_containerList {n : Nat} (h : n < 65536) (ha : containerListRule n s = (s, data))
    (hs : canServe ⟨0x49, tag, bodyOf [(2, 0), (2, n)]⟩ s = true) :
    exec (.containerQueryShipment tag (bodyOf [(2, 0), (2, n)])) s = .next (s.replied (0x49 + 0x80) tag data) := by
  have f2 : field (bodyOf [(2, 0), (2, n)]) 2 2 = n := by
    rw [field_skip _ (by decide)]
    exact field_head h _
  exact exec_asked (rule := containerListRule (field _ 2 2)) rfl (by rw [f2]) rfl (by simp [bodyLengthOk]) rfl ha hs

theorem asked_batchQuery {n start : Nat} (pos : 0 < n) (hn : n < 65536) (h : start < 65536) (ha : batchQueryRule n start s = (s, data))
    (hs : canServe ⟨0x50, tag, bodyOf [(2, n), (2, start)]⟩ s = true) :
    exec (.batchQuery tag (bodyOf [(2, n), (2, start)])) s = .next (s.replied (0x50 + 0x80) tag data) := by
  have f2 : field (bodyOf [(2, n), (2, start)]) 2 2 = start := by
    rw [field_skip _ (by decide)]
    exact field_head h _
  exact exec_asked (rule := batchQueryRule (field _ 0 2) (field _ 2 2)) rfl (by rw [field_head hn, f2]) (by exact if_neg (take_two_ne_zero pos hn _))
    (by simp [bodyLengthOk]) rfl ha hs

theorem asked_batchTable {start : Nat} (ha : batchTableRule s = (s, data)) (hs : canServe ⟨0x50, tag, bodyOf [(2, 0), (2, start)]⟩ s = true) :
    exec (.batchQueryTable tag (bodyOf [(2, 0), (2, start)])) s = .next (s.replied (0x50 + 0x80) tag data) :=
  exec_asked (rule := batchTableRule) rfl rfl rfl (by simp [bodyLengthOk]) rfl ha hs

theorem asked_loansOf {n start : Nat} (hn : n < 16777216) (h : start < 256) (ha : loanPatronRule n start s = (s, data))
    (hs : canServe ⟨0x52, tag, bodyOf [(1, 1), (3, n), (1, start)]⟩ s = true) :
    exec (.loanQueryPatron tag (bodyOf [(1, 1), (3, n), (1, start)])) s = .next (s.replied (0x52 + 0x80) tag data) := by
  have f2 : field (bodyOf [(1, 1), (3, n), (1, start)]) 1 3 = n := by
    rw [field_skip _ (by decide)]
    exact field_head hn _
  have f3 : field (bodyOf [(1, 1), (3, n), (1, start)]) 4 1 = start := by
    iterate 2 rw [field_skip _ (by decide)]
    exact field_head h _
  exact exec_asked (rule := loanPatronRule (field _ 1 3) (field _ 4 1)) rfl (by rw [f2, f3]) rfl rfl rfl ha hs

end

/-! ## The parts of tables reported -/

theorem filter_both {α β γ : Type} [DecidableEq β] [DecidableEq γ] (f : α → β) (g : α → γ) (a : β) (b : γ) (l : List α) :
    l.filter (fun x => f x == a && g x == b) = l.filter fun x => f x = a ∧ g x = b :=
  filter_of_iff (fun x => by simp) l

theorem copiesFrom_eq (title start : Nat) (s : State) : copiesFrom title start s = s.copies.filter fun c => c.title = title ∧ start ≤ c.id :=
  filter_of_iff (fun c => by simp) _

theorem searchRecords_eq (title : Nat) (m : Medium) (edition start : Nat) (s : State) : searchRecords title m edition start s =
    s.cartridges.filter fun c : Cartridge => start ≤ c.serial ∧
      ∃ p ∈ c.content, p.key.title = title ∧ p.key.medium = m ∧ (edition = 0 ∨ p.key.edition = edition) :=
  filter_of_iff (fun c => by simp [sought_eq]) _

/-- The entries of a container list with their sequence numbers (R136). -/
theorem getElem?_numbered (l : List ContainerEntry) (i : Nat) : (numbered l)[i]? = l[i]?.map fun e => (i + 1, e) := by
  by_cases h : i < l.length
  · simp [numbered, h]
  · simp [numbered, Nat.not_lt.1 h]

theorem batchContainers_perm (s : State) (n : Nat) :
    (batchContainers s n).Perm (s.containers.filter fun c : Container => c.state = .batched ∧ c.batch = some n) := by
  have same : s.containers.filter (fun c => c.state == .batched && c.batch == some n) =
      s.containers.filter fun c : Container => c.state = .batched ∧ c.batch = some n :=
    filter_of_iff (fun c => by simp) _
  rw [batchContainers, same]
  exact sortBy_perm _ _

theorem batchContainers_ascending (s : State) (n : Nat) : (batchContainers s n).Pairwise fun c d => c.sealNo.getD 0 ≤ d.sealNo.getD 0 :=
  sortBy_ascending (fun c : Container => c.sealNo.getD 0) _

theorem length_waitingContainers (s : State) : (waitingContainers s).length = (s.containers.filter fun c : Container => c.state = .sealed).length :=
  (sortBy_perm _ _).length_eq

/-! ## Spares (R111, R113) -/

theorem inBaySpare_iff (s : State) (c : Cartridge) : inBaySpare s c = true ↔ c.state = .inBay ∧ ∃ b, c.bay = some b ∧ (getBay s b).job = none ∧
    ((getBay s b).state = .loaded ∨ (getBay s b).state = .wiping ∨ ((getBay s b).state = .paused ∧ (getBay s b).pausedFrom = some .wiping)) := by
  unfold inBaySpare
  cases c.bay <;> simp [or_assoc]

theorem queuedOf_eq (s : State) (k : Kind) : queuedOf s k = (s.jobs.filter fun j => j.state = .queued ∧ j.kind = k).length := by
  rw [queuedOf, filter_both Job.state Job.kind]

theorem spareCount_eq (s : State) (k : Kind) : spareCount s k = (s.cartridges.filter fun c => c.kind = k ∧
    (c.state = .blank ∨ c.state = .returned ∨ c.state = .fouled ∨ inBaySpare s c = true)).length - queuedOf s k := by
  have spare : s.cartridges.filter (fun c => c.kind == k && isSpare s c) = s.cartridges.filter fun c => c.kind = k ∧
      (c.state = .blank ∨ c.state = .returned ∨ c.state = .fouled ∨ inBaySpare s c = true) :=
    filter_of_iff (fun c => by simp [isSpare, or_assoc]) _
  rw [spareCount, spare]

theorem kindSummary_eq (s : State) (k : Kind) : kindSummary s k =
    [CartState.blank, .inBay, .written, .packed, .out, .returned, .fouled, .quarantined, .withdrawn].flatMap (fun st =>
        leBytes 2 (s.cartridges.filter fun c : Cartridge => c.kind = k ∧ c.state = st).length) ++
      leBytes 1 (s.cartridges.filter fun c : Cartridge => c.kind = k ∧ inBaySpare s c = true).length ++ leBytes 1 (queuedOf s k) ++
      leBytes 2 (spareCount s k) := by
  have spare : s.cartridges.filter (fun c => c.kind == k && inBaySpare s c) =
      s.cartridges.filter fun c : Cartridge => c.kind = k ∧ inBaySpare s c = true :=
    filter_of_iff (fun c => by simp) _
  simp only [kindSummary, spare, filter_both Cartridge.kind Cartridge.state, cartStates]

/-! ## What the rules answer -/

theorem holdQueueRule_range {form title : Nat} (start : Nat) (s : State) (h : form ≠ 0 ∨ title = 0 ∨ 999999 < title) :
    holdQueueRule form title start s = (s, [0x05]) := if_pos (h.imp_right (Or.imp_left Nat.lt_one_iff.2))

theorem holdQueueRule_listed {title : Nat} (start : Nat) (s : State) (pos : 0 < title) (le : title ≤ 999999) :
    holdQueueRule 0 title start s = (s, 0x00 :: ([CopyState.shelf, .reserved, .allocated, .packed, .out, .withdrawn].flatMap (fun st =>
        leBytes 2 (s.copies.filter fun c : Copy => c.title = title ∧ c.state = st).length) ++
      leBytes 2 (holdQueue s title).length ++ leBytes 2 (4096 - s.holds.length) ++ listField (holdData s) (page start 48 (holdQueue s title)))) := by
  have range : ¬(0 ≠ 0 ∨ title < 1 ∨ maxNumber < title) := by
    simp only [maxNumber]
    omega
  rw [holdQueueRule, if_neg range]
  simp only [filter_both Copy.title Copy.state]
  rfl

theorem holdCopiesRule_range {title : Nat} (start : Nat) (s : State) (h : title = 0 ∨ 999999 < title) :
    holdCopiesRule title start s = (s, [0x05]) := if_pos (h.imp Nat.lt_one_iff.2 .inl)

theorem holdCopiesRule_listed {title start : Nat} (s : State) (pos : 0 < title) (le : title ≤ 999999) (h : start < 16777216) :
    holdCopiesRule title start s = (s, 0x00 :: (listField heldCopyData ((copiesFrom title start s).take 32) ++
      leBytes 3 ((((copiesFrom title start s).drop 32).head?.map (·.id)).getD 0))) := by
  have range : ¬(title < 1 ∨ maxNumber < title ∨ maxCopy < start) := by
    simp only [maxNumber, maxCopy]
    omega
  exact if_neg range

theorem cartridgeSearchRule_range {title medium : Nat} (edition start : Nat) (s : State)
    (h : title = 0 ∨ 999999 < title ∨ (medium ≠ 1 ∧ medium ≠ 2)) : cartridgeSearchRule title medium edition start s = (s, [0x05]) := by
  cases hm : mediumOf medium with
  | none => simp only [cartridgeSearchRule, hm]; rfl
  | some m =>
    have range : m = .embossed ∨ title < 1 ∨ maxNumber < title := by
      rcases h with h | h | ⟨h1, h2⟩
      · exact .inr (.inl (Nat.lt_one_iff.2 h))
      · exact .inr (.inr h)
      · unfold mediumOf at hm
        split at hm
        · exact absurd rfl h1
        · exact absurd rfl h2
        · exact .inl (Option.some.inj hm).symm
        · cases hm
    simp only [cartridgeSearchRule, hm, if_pos range]
    rfl

theorem cartridgeSearchRule_listed {title : Nat} {m : Medium} (edition start : Nat) (s : State) (pos : 0 < title) (le : title ≤ 999999)
    (hm : m ≠ .embossed) : cartridgeSearchRule title (mediumCode m) edition start s =
      (s, 0x00 :: (listField (foundData title m edition) ((searchRecords title m edition start s).take 32) ++
        leBytes 4 ((((searchRecords title m edition start s).drop 32).head?.map (·.serial)).getD 0))) := by
  have range : ¬(m = .embossed ∨ title < 1 ∨ maxNumber < title) :=
    not_or.2 ⟨hm, not_or.2 ⟨Nat.not_lt.2 pos, Nat.not_lt.2 le⟩⟩
  simp only [cartridgeSearchRule, mediumOf_mediumCode, if_neg range]
  rfl

/-- Settles O59: each list query, its fields read back, by the part of the table that its rule reports. -/
theorem listQueries : Obligations.ListQueries := by
  unfold Obligations.ListQueries
  intro s tag asked counts
  refine ⟨inBaySpare_iff s, fun k => ⟨queuedOf_eq s k, spareCount_eq s k⟩, fun n h => ⟨fun none => ?_, fun p hp => ?_⟩,
    fun form title start h1 hf ht h => ⟨fun bad => ?_, fun hz pos le => ?_⟩, fun title start ht h => ⟨fun bad => ?_, fun pos le => ?_⟩,
    fun start h => ?_, fun start h => ?_, ?_, fun title medium edition start h1 h2 h3 h4 => ⟨fun bad => ?_, fun m pos le small hm => ?_⟩,
    fun n h => ⟨fun hz => ?_, fun pos none => ?_, fun sh pos hsh => ?_⟩, getElem?_numbered,
    fun n => ⟨batchContainers_perm s n, batchContainers_ascending s n⟩, fun n start pos hn h => ⟨fun none => ?_, fun b hb => ?_⟩, fun start _ => ?_,
    fun n start hn h => ⟨fun none => ?_, fun p hp => ?_⟩, ?_⟩
  · exact asked_listQuery h (by simp only [listQueryRule, none]; rfl)
  · exact asked_listQuery h (by simp only [listQueryRule, hp]; rfl)
  · exact asked_holdQueue h1 hf ht h (holdQueueRule_range start s bad)
  · subst hz
    exact asked_holdQueue h1 hf ht h (holdQueueRule_listed start s pos le)
  · exact asked_holdCopies ht h (holdCopiesRule_range start s bad)
  · intro found
    have hfound : copiesFrom title start s = found := copiesFrom_eq title start s
    exact asked_holdCopies ht h (hfound ▸ holdCopiesRule_listed s pos le h)
  · exact asked_pickList h rfl
  · exact asked_jobQueue h rfl
  · have hcounts : ∀ k, kindSummary s k = counts k := kindSummary_eq s
    refine exec_asked (rule := cartridgeSummaryRule) rfl rfl rfl rfl rfl ?_
    rw [← hcounts, ← hcounts]
    rfl
  · exact asked_cartridgeSearch h1 h2 h3 h4 (cartridgeSearchRule_range edition start s bad)
  · subst hm
    intro found
    have hfound : searchRecords title m edition start s = found := searchRecords_eq title m edition start s
    have other : m ≠ .embossed := by
      rintro rfl
      simp [mediumCode] at small
    exact asked_cartridgeSearch h1 h2 h3 h4 (hfound ▸ cartridgeSearchRule_listed edition start s pos le other)
  · exact asked_containerList h (if_pos hz)
  · exact asked_containerList h (by simp only [containerListRule, if_neg pos, none]; rfl)
  · exact asked_containerList h (by simp only [containerListRule, if_neg pos, hsh]; rfl)
  · have missing : s.batches.find? (·.number == n) = Option.none := by
      rw [List.find?_eq_none]
      exact fun b hb => by simpa using none b hb
    exact asked_batchQuery pos hn h (by simp only [batchQueryRule, missing]; rfl)
  · exact asked_batchQuery pos hn h (by simp only [batchQueryRule, show s.batches.find? (·.number == n) = some b from hb]; rfl)
  · refine asked_batchTable ?_
    rw [batchTableRule, length_waitingContainers]
    rfl
  · exact asked_loansOf hn h (by simp only [loanPatronRule, none]; rfl)
  · exact asked_loansOf hn h (by simp only [loanPatronRule, hp]; rfl)
  · exact exec_asked (rule := countersReadRule) rfl rfl rfl rfl rfl rfl

end Sys2Proof.Machine
end

section
/-! SUPPORT. Bays: a job taken, given back or offered, a wipe begun, the cartridge gone, a fault (R62, R63, R75 to R78, R89 to R91; O38, O40,
O41). -/

namespace Sys2Proof.Machine

/-! ## The operations on bays and jobs, as the statements write them -/

theorem updateBay_eq (b : BayId) (f : Bay → Bay) (s : State) : updateBay b f s = s.withBay b (f (getBay s b)) := rfl

@[simp] theorem getBay_withBay (s : State) (b : BayId) (x : Bay) : getBay (s.withBay b x) b = x := getBay_setBay_self b x s

@[simp] theorem withBay_withBay (s : State) (b : BayId) (x y : Bay) : (s.withBay b x).withBay b y = s.withBay b y := by
  simp only [State.withBay, Vector.set_set]

theorem updateJob_assigned (n : Nat) (b : BayId) (s : State) :
    updateJob n (fun j => { j with state := .assigned, bay := some b }) s = s.assigned n b := by
  simp only [updateJob, replace, beq_iff_eq, State.assigned]

theorem updateJob_requeued (n : Nat) (s : State) :
    updateJob n (fun j => { j with state := .queued, bay := none, requeued := true }) s = s.requeued n := by
  simp only [updateJob, replace, beq_iff_eq, State.requeued]

@[simp] theorem withCart_none (f : Cartridge → Cartridge) (s : State) : s.withCart none f = s := by
  simp [State.withCart]

/-- A bay's record changed, and its cartridge's entry state set before. -/
theorem updateBay_setEntry (b : BayId) (e : CartState) (f : Bay → Bay) (s : State) :
    updateBay b f (setEntry b e s) = (s.withCart (getBay s b).occupant fun c => { c with entry := some e }).withBay b (f (getBay s b)) := by
  rw [updateBay, getBay_setEntry, setEntry_eq]
  rfl

/-! ## A job is taken, a wipe begins (R75, R78, R99) -/

theorem assignJob_eq (b : BayId) (n : Nat) (s : State) : assignJob b n s =
    ((s.assigned n b).withCart (getBay s b).occupant fun c => { c with entry := some .fouled }).withBay b { getBay s b with
      state := if s.supply = .low then .paused else .writing
      pausedFrom := if s.supply = .low then some .writing else none
      job := some n
      checkList := []
      retry := 0
      writePos := ⟨1, 0⟩
      fetchPos := ⟨1, 0⟩ } := by
  rw [assignJob, enterWriting, updateBay_setEntry, updateJob_assigned, updateBay_eq, getBay_withBay, setEntry_eq]
  by_cases low : s.supply = .low
  · simp only [State.withCart, State.withBay, State.assigned, low, if_true, Vector.set_set]
    rfl
  · simp only [State.withCart, State.withBay, State.assigned, low, if_false, Vector.set_set]
    rfl

theorem enterWiping_eq (b : BayId) (s : State) : enterWiping b s =
    (s.withCart (getBay s b).occupant fun c => { c with entry := some .fouled }).withBay b { getBay s b with
      state := if s.supply = .low then .paused else .wiping
      pausedFrom := if s.supply = .low then some .wiping else none
      wipeTimer := 0 } := by
  rw [enterWiping, updateBay_setEntry]
  split <;> rfl

/-! ## A job finds its bay, a bay its job (R61, R62, R78) -/

section
variable {b : BayId} {s : State} {c : Cartridge} (h : occupantOf s b = some c)
include h

theorem occupantOf_loaded : occupantOf (s.withBay b { getBay s b with state := .loaded, wipeTimer := 0 }) b = some c := by
  rw [← h, occupantOf, getBay_withBay]
  rfl

theorem enterLoaded_job {j : Job} (hj : (jobQueue s).find? (·.kind == c.kind) = some j) : enterLoaded b s =
    assignJob b j.number (s.withBay b { getBay s b with state := .loaded, wipeTimer := 0 }) := by
  have found : (jobQueue (s.withBay b { getBay s b with state := .loaded, wipeTimer := 0 })).find? (·.kind == c.kind) = some j := hj
  simp only [enterLoaded, updateBay_eq, occupantOf_loaded h, found]

theorem enterLoaded_idle (hj : (jobQueue s).find? (·.kind == c.kind) = none) : enterLoaded b s =
    s.withBay b { getBay s b with state := .loaded, wipeTimer := 0 } := by
  have missing : (jobQueue (s.withBay b { getBay s b with state := .loaded, wipeTimer := 0 })).find? (·.kind == c.kind) = none := hj
  simp only [enterLoaded, updateBay_eq, occupantOf_loaded h, missing]

end

theorem loadedWith_iff (s : State) (k : Kind) (b : BayId) :
    loadedWith s k b = true ↔ (getBay s b).state = .loaded ∧ ∃ c, occupantOf s b = some c ∧ c.kind = k := by
  cases h : occupantOf s b <;> simp [loadedWith, h]

theorem offerJob_taken {s : State} {n : Nat} {j : Job} {b : BayId} (h : findJob s n = some j)
    (hb : bayIds.find? (loadedWith s j.kind) = some b) : offerJob n s = assignJob b n s := by
  simp only [offerJob, h, hb]

theorem offerJob_waits {s : State} {n : Nat} {j : Job} (h : findJob s n = some j) (hb : bayIds.find? (loadedWith s j.kind) = none) :
    offerJob n s = s := by
  simp only [offerJob, h, hb]

theorem mem_jobQueue (s : State) (j : Job) : j ∈ jobQueue s ↔ j ∈ s.jobs ∧ j.state = .queued := by
  rw [jobQueue, (sortBy_perm _ _).mem_iff, List.mem_filter, beq_iff_eq]

theorem bayIds_ascending : bayIds.Pairwise fun a b => a.val < b.val := by decide

/-- Settles O38: what each of the two searches finds, and `assignJob_eq`. -/
theorem loadedBaysTakeJobs : Obligations.LoadedBaysTakeJobs := by
  unfold Obligations.LoadedBaysTakeJobs
  refine fun s b => ⟨enterWiping_eq b s, fun c hc => ⟨fun j hj => ?_, fun none => ?_⟩, fun j hj => ⟨fun none => ?_, fun d hd before => ?_⟩⟩
  · rw [enterLoaded_job hc hj]
    exact assignJob_eq b j.number _
  · have missing : (jobQueue s).find? (·.kind == c.kind) = Option.none := by
      rw [List.find?_eq_none]
      intro j hj
      obtain ⟨mem, queued⟩ := (mem_jobQueue s j).1 hj
      simpa using none j mem queued
    exact enterLoaded_idle hc missing
  · have missing : bayIds.find? (loadedWith s j.kind) = Option.none :=
      List.find?_eq_none.2 fun d _ => (loadedWith_iff s j.kind d).not.2 (none d)
    exact offerJob_waits hj missing
  · have found : bayIds.find? (loadedWith s j.kind) = some d :=
      find?_of_ascending bayIds_ascending (mem_bayIds d) ((loadedWith_iff s j.kind d).2 hd) fun e he =>
        Bool.eq_false_iff.2 ((loadedWith_iff s j.kind e).not.2 (before e he))
    rw [offerJob_taken hj found]
    exact assignJob_eq d j.number s

/-! ## A bay gives back its job (R63) -/

section
variable (b : BayId) (s : State) {x : Bay}

theorem giveBack_idle (h : x.job = none) : giveBack b (s.withBay b x) = s.withBay b x := by
  simp only [giveBack, getBay_withBay, h]

theorem giveBack_missing {n : Nat} (h : x.job = some n) (hn : findJob s n = none) :
    giveBack b (s.withBay b x) = s.withBay b { x with job := none } := by
  have missing : findJob (s.withBay b { x with job := none }) n = none := hn
  simp only [giveBack, getBay_withBay, h, updateBay_eq, withBay_withBay, missing]

theorem giveBack_offered {n : Nat} (h : x.job = some n) (hn : findJob s n ≠ none) :
    giveBack b (s.withBay b x) = offerJob n ((s.withBay b { x with job := none }).requeued n) := by
  obtain ⟨j, hj⟩ := Option.ne_none_iff_exists'.1 hn
  have found : findJob (s.withBay b { x with job := none }) n = some j := hj
  simp only [giveBack, getBay_withBay, h, updateBay_eq, withBay_withBay, found, updateJob_requeued]

end

/-! ## A cartridge is removed (R89, R90) -/

/-- A bay whose cartridge has gone, with the job that it still names (R89). -/
def Bay.cleared (x : Bay) : Bay :=
  { x.vacated (stateAfterRemoval x) with faults := if stateAfterRemoval x = .outOfService then 0 else x.faults }

theorem cleared_eq (x : Bay) : x.cleared = { x.quiet with
    state := if x.state = .fault ∧ 3 ≤ x.faults then .outOfService else .empty
    occupant := none
    rejected := none
    rejectReason := none
    faultReason := none
    pausedFrom := none
    checkList := []
    wipeTimer := 0
    present := false
    faults := if x.state = .fault ∧ 3 ≤ x.faults then 0 else x.faults } := by
  by_cases out : x.state = .fault ∧ 3 ≤ x.faults
  · simp only [Bay.cleared, stateAfterRemoval, if_pos out, if_true]
    rfl
  · simp only [Bay.cleared, stateAfterRemoval, if_neg out, reduceCtorEq, if_false]
    rfl

theorem vacateBay_eq (b : BayId) (s : State) : vacateBay b s =
    ((s.withoutFeed b).withCart (getBay s b).occupant leaveCart).withBay b (getBay s b).cleared := by
  cases ho : (getBay s b).occupant with
  | none =>
    simp only [vacateBay, ho, discardGrant_eq, withCart_none]
    rfl
  | some serial =>
    simp only [vacateBay, ho, discardGrant_eq, updateCart_eq]
    rfl

section
variable {b : BayId} {s : State}

theorem removeCartridge_absent (h : (getBay s b).state = .absent ∨ (getBay s b).state = .empty) : removeCartridge b s = s := by
  rcases h with h | h <;> simp only [removeCartridge, h]

theorem removeCartridge_outOfService (h : (getBay s b).state = .outOfService) :
    removeCartridge b s = s.withBay b { getBay s b with present := false } := by
  simp only [removeCartridge, h, updateBay_eq]

theorem removeCartridge_done (h : (getBay s b).state = .done) (ho : (getBay s b).occupant = none) :
    removeCartridge b s = vacateBay b s := by
  simp only [removeCartridge, h, ho]

theorem removeCartridge_written {n : Nat} (h : (getBay s b).state = .done) (ho : (getBay s b).occupant = some n) :
    removeCartridge b s = cartWritten n (vacateBay b s) := by
  simp only [removeCartridge, h, ho]

theorem removeCartridge_stopped (h1 : (getBay s b).state ≠ .absent) (h2 : (getBay s b).state ≠ .empty)
    (h3 : (getBay s b).state ≠ .outOfService) (h4 : (getBay s b).state ≠ .done) : removeCartridge b s = giveBack b (vacateBay b s) := by
  unfold removeCartridge
  dsimp only
  split
  case h_5 => rfl
  all_goals contradiction

end

/-- Settles O40, by the bay's state, and in the last case by what `giveBack` does with the job. -/
theorem removalVacatesTheBay : Obligations.RemovalVacatesTheBay := by
  unfold Obligations.RemovalVacatesTheBay
  intro s b power
  have removed : exec (.cartridgeRemoved b) s = .next (removeCartridge b s).stamped := event_powered _ power
  rw [removed]
  refine ⟨fun h => ?_, fun h => ?_, fun h => ⟨fun ho => ?_, fun n ho => ?_⟩, fun h1 h2 h3 h4 => ?_⟩
  · rw [removeCartridge_absent h]
  · rw [removeCartridge_outOfService h]
  · rw [removeCartridge_done h ho, vacateBay_eq, cleared_eq]
    rfl
  · rw [removeCartridge_written h ho, vacateBay_eq, cleared_eq]
    rfl
  · rw [removeCartridge_stopped h1 h2 h3 h4, vacateBay_eq]
    refine ⟨fun hj => ?_, fun n hj => ⟨fun hn => ?_, fun hn => ?_⟩⟩
    · rw [giveBack_idle b _ (x := (getBay s b).cleared) hj, cleared_eq, ← hj]
      rfl
    · rw [giveBack_missing b ((s.withoutFeed b).withCart _ leaveCart) (x := (getBay s b).cleared) hj hn, cleared_eq]
      rfl
    · rw [giveBack_offered b ((s.withoutFeed b).withCart _ leaveCart) (x := (getBay s b).cleared) hj hn, cleared_eq]
      rfl

/-! ## A fault, the end of a wipe (R76, R77, R91) -/

/-- A bay that enters FAULT, with the job that it gives back (R91). -/
def Bay.faulted (x : Bay) (reason : BayFault) : Bay :=
  { x.quiet with
    state := .fault
    faultReason := some reason
    pausedFrom := none
    faults := min 3 (x.faults + 1) }

section
variable (b : BayId) (reason : BayFault) (s : State)

theorem faultBay_eq : faultBay b reason s =
    (giveBack b (((s.withoutFeed b).withCart (getBay s b).occupant chargeFault).withBay b ((getBay s b).faulted reason))).bayFlagged b := by
  rw [faultBay, setBayEvent_bayFlagged, discardGrant_eq]
  cases ho : (getBay s b).occupant with
  | none =>
    rw [withCart_none]
    rfl
  | some serial =>
    simp only [updateCart_eq]
    rfl

/-- Without a job that is held, the bay names none. -/
theorem faultBay_jobless (h : ∀ n, (getBay s b).job = some n → findJob s n = none) : faultBay b reason s =
    (((s.withoutFeed b).withCart (getBay s b).occupant chargeFault).withBay b { (getBay s b).faulted reason with job := none }).bayFlagged b := by
  rw [faultBay_eq]
  cases hj : (getBay s b).job with
  | none =>
    have job : { (getBay s b).faulted reason with job := none } = (getBay s b).faulted reason := by rw [← hj]; rfl
    rw [giveBack_idle b _ (x := (getBay s b).faulted reason) hj, job]
  | some n => rw [giveBack_missing b ((s.withoutFeed b).withCart _ chargeFault) (x := (getBay s b).faulted reason) hj (h n hj)]

theorem faultBay_offers {n : Nat} (hj : (getBay s b).job = some n) (hn : findJob s n ≠ none) : faultBay b reason s =
    (offerJob n ((((s.withoutFeed b).withCart (getBay s b).occupant chargeFault).withBay b
      { (getBay s b).faulted reason with job := none }).requeued n)).bayFlagged b := by
  rw [faultBay_eq, giveBack_offered b ((s.withoutFeed b).withCart _ chargeFault) (x := (getBay s b).faulted reason) hj hn]

end

section
variable {b : BayId} {s : State}

theorem wipeDone_wiping (h : (getBay s b).state = .wiping) : wipeDone b s = enterLoaded b (s.withCart (getBay s b).occupant wiped) := by
  simp only [wipeDone, h, if_true]
  cases ho : (getBay s b).occupant with
  | none => simp only [withCart_none]
  | some serial => simp only [updateCart_eq]

theorem wipeFailed_wiping (h : (getBay s b).state = .wiping) : wipeFailed b s = faultBay b .wipeFailure s := if_pos h

theorem wipeLate_wiping (h : (getBay s b).state = .wiping) : wipeLate b s = faultBay b .wipeTimeout s := if_pos h

theorem wipeDone_idle (h : (getBay s b).state ≠ .wiping) : wipeDone b s = s := if_neg h

theorem wipeFailed_idle (h : (getBay s b).state ≠ .wiping) : wipeFailed b s = s := if_neg h

theorem wipeLate_idle (h : (getBay s b).state ≠ .wiping) : wipeLate b s = s := if_neg h

end

/-- Settles O41. The job of a faulted bay is given back as that of a vacated one. -/
theorem faultsAndWipeEnds : Obligations.FaultsAndWipeEnds := by
  unfold Obligations.FaultsAndWipeEnds
  intro s b power
  have completed : exec (.wipeComplete b) s = .next (wipeDone b s).stamped := event_powered _ power
  have failed : exec (.wipeFailure b) s = .next (wipeFailed b s).stamped := event_powered _ power
  have late : exec (.wipeTimeout b) s = .next (wipeLate b s).stamped := event_powered _ power
  rw [completed, failed, late]
  refine ⟨fun reason => ⟨faultBay_jobless b reason s, fun n => faultBay_offers b reason s⟩, fun h => ?_, fun h => ?_⟩
  · rw [wipeDone_wiping h, wipeFailed_wiping h, wipeLate_wiping h]
    exact ⟨rfl, rfl, rfl⟩
  · rw [wipeDone_idle h, wipeFailed_idle h, wipeLate_idle h]
    exact ⟨rfl, rfl, rfl⟩

end Sys2Proof.Machine
end

section
/-! SUPPORT. The directory and the completion of a cartridge (R64, R86 to R88, R98, R107, R109; O45). -/

namespace Sys2Proof.Machine

/-! ## What the directory holds (R86) -/

theorem jobParts_eq {s : State} {b : BayId} {j : Job} (h : (getBay s b).job = some j.number) (hj : findJob s j.number = some j) :
    jobParts s b = j.parts := by
  have found : (getBay s b).job.bind (findJob s) = some j := by rw [h]; exact hj
  simp only [jobParts, found]

theorem length_directoryListing_go (start : Nat) (parts : List Part) : (directoryListing.go start parts).length = parts.length := by
  induction parts generalizing start with
  | nil => rfl
  | cons p ps ih => exact congrArg (· + 1) (ih _)

theorem directoryListing_go_getElem? {parts : List Part} {i : Nat} {p : Part} (h : parts[i]? = some p) (start : Nat) :
    (directoryListing.go start parts)[i]? = some ⟨p.key, p.first, p.count, start + ((parts.take i).map (·.count)).sum⟩ := by
  induction parts generalizing start i with
  | nil => cases h
  | cons q qs ih =>
    cases i with
    | zero =>
      obtain rfl : q = p := Option.some.inj h
      rfl
    | succ i =>
      rw [directoryListing.go, List.getElem?_cons_succ, ih h]
      simp [Nat.add_assoc]

theorem volumeTable_eq {s : State} {p : Part} {e : TitleEntry} (h : findTitle s p.key = some e) : volumeTable s p =
    (e.breaks.filter fun k => p.first < k ∧ k < p.first + p.count).map (· - p.first) := by
  simp only [volumeTable, h]

/-- The volume tables of a job's parts, in part order (R86). -/
def volumeTables (s : State) (parts : List Part) : List DirectoryBlock := parts.map fun p => .volumes (volumeTable s p)

/-- The directory of a bay that holds a job of at most 12 parts and a cartridge (R86). -/
theorem buildDirectory_eq {s : State} {b : BayId} {j : Job} {c : Cartridge} (h : (getBay s b).job = some j.number)
    (hj : findJob s j.number = some j) (hc : occupantOf s b = some c) (few : j.parts.length ≤ 12) : buildDirectory s b =
    .header c.serial c.kind s.clock.day (directoryListing j.parts) ::
      (volumeTables s j.parts ++ List.replicate (15 - j.parts.length) .fill) := by
  simp only [buildDirectory, jobParts_eq h hj, hc, List.take_of_length_le few, List.length_map, volumeTables]
  rfl

section
variable (s : State) {parts : List Part} (first : DirectoryBlock)

theorem length_directory (few : parts.length ≤ 12) :
    (first :: (volumeTables s parts ++ List.replicate (15 - parts.length) .fill)).length = 16 := by
  simp only [volumeTables, List.length_cons, List.length_append, List.length_map, List.length_replicate]
  omega

theorem directory_table {i : Nat} {p : Part} (h : parts[i]? = some p) :
    (first :: (volumeTables s parts ++ List.replicate (15 - parts.length) .fill))[i + 1]? = some (.volumes (volumeTable s p)) := by
  have table : (volumeTables s parts)[i]? = some (.volumes (volumeTable s p)) := by rw [volumeTables, List.getElem?_map, h]; rfl
  rw [List.getElem?_cons_succ, List.getElem?_append_left (List.getElem?_eq_some_iff.1 table).1, table]

theorem directory_fill {i : Nat} (h : parts.length < i) (small : i < 16) :
    (first :: (volumeTables s parts ++ List.replicate (15 - parts.length) .fill))[i]? = some .fill := by
  obtain ⟨i, rfl⟩ := Nat.exists_eq_add_one_of_ne_zero (Nat.ne_zero_of_lt h)
  have behind : (volumeTables s parts).length ≤ i := by
    rw [volumeTables, List.length_map]
    omega
  rw [List.getElem?_cons_succ, List.getElem?_append_right behind, List.getElem?_replicate, if_pos]
  rw [volumeTables, List.length_map]
  omega

end

/-! ## The directory is written (R87, R98) -/

section
variable {s : State} {b : BayId}

theorem writeDirectoryBlock_eq {l : List DirectoryBlock} {k : Nat} {d : DirectoryBlock} (h : (getBay s b).directory = some l)
    (hd : l[k]? = some d) : writeDirectoryBlock b k s = beginWrite b k (directoryBytes d) s := by
  have block : ((getBay s b).directory.getD [])[k]? = some d := by rw [h]; exact hd
  simp only [writeDirectoryBlock, block]

theorem writeDirectory_next (h : (getBay s b).retry ≠ 1) : writeDirectory b s = writeDirectoryBlock b (directoryWritten (getBay s b)) s := by
  simp only [writeDirectory, if_neg h]

theorem writeDirectory_again (h : (getBay s b).retry = 1) :
    writeDirectory b s = writeDirectoryBlock b (directoryWritten (getBay s b) - 1) s := by
  simp only [writeDirectory, if_pos h]

/-- The bay with its directory built (R86). -/
def builtDirectory (b : BayId) (s : State) : State :=
  s.withBay b { getBay s b with phase := some .directory, readBack := none, directory := some (buildDirectory s b) }

theorem enterDirectory_low (h : s.supply = .low) : enterDirectory b s = pauseBay b .verifying (builtDirectory b s) := if_pos h

theorem enterDirectory_normal (h : s.supply = .normal) : enterDirectory b s = writeDirectory b (builtDirectory b s) :=
  if_neg (show ¬s.supply = .low by simp [h])

end

/-! ## The cartridge is complete (R64, R88, R107, R109) -/

/-- The job of a completed cartridge is DONE (R88). -/
theorem updateJob_done (n serial : Nat) (s : State) : updateJob n (fun k => { k with state := .done, bay := none, serial := some serial }) s =
    { s with jobs := s.jobs.map fun k => if k.number = n then { k with state := .done, bay := none, serial := some serial } else k } := by
  simp only [updateJob, replace, beq_iff_eq]

theorem finishBay_eq {s : State} {b : BayId} {j : Job} {serial : Nat} (h : (getBay s b).job = some j.number)
    (hj : findJob s j.number = some j) (ho : (getBay s b).occupant = some serial) : finishBay b s =
    State.bayFlagged (((({ s with jobs := s.jobs.map fun k =>
        if k.number = j.number then { k with state := .done, bay := none, serial := some serial } else k } : State).withCart (some serial)
      (completeCart j (directoryDay ((getBay s b).directory.getD [])))).withShipment j.shipment fun sh =>
        { sh with jobLines := sh.jobLines.map fun l => if l.job = j.number then { l with serial := some serial } else l }).withBay b
          { (getBay s b).quiet with state := .done, job := none, faults := 0 }) b := by
  have found : (getBay s b).job.bind (findJob s) = some j := by rw [h]; exact hj
  simp only [finishBay, found, ho, setBayEvent_bayFlagged, updateJob_done, updateCart_eq, updateShipment_eq, replace, beq_iff_eq]
  rfl

/-- Settles O45: what the bay builds, which block it writes, and the records that a completion changes. -/
theorem directoryAndCompletion : Obligations.DirectoryAndCompletion := by
  unfold Obligations.DirectoryAndCompletion
  refine ⟨fun s b j c h hj hc few => ?_, fun s b l k d h hd => writeDirectoryBlock_eq h hd, rfl,
    fun s b => ⟨writeDirectory_next, writeDirectory_again⟩, fun s b => ⟨enterDirectory_low, enterDirectory_normal, fun normal retry data => ?_⟩,
    fun s b j serial c day listing rest h hj ho hc hd => ?_⟩
  · rw [buildDirectory_eq h hj hc few]
    refine ⟨length_directory s _ few, ⟨_, rfl, length_directoryListing_go 16 j.parts, fun i p hp => directoryListing_go_getElem? hp 16⟩,
      fun i p e hp he => ?_, fun i => directory_fill s _⟩
    rw [directory_table s _ hp, volumeTable_eq he]
  · have none : ((getBay s b).checkList.filter fun e => e.block < 16) = [] := by
      rw [List.filter_eq_nil_iff]
      intro e he
      simpa using data e he
    have written : directoryWritten (getBay (builtDirectory b s) b) = 0 := by
      rw [builtDirectory, getBay_withBay]
      exact congrArg List.length none
    rw [enterDirectory_normal normal, writeDirectory_next, written]
    · rfl
    · rw [builtDirectory, getBay_withBay]
      simp [retry]
  · have day : directoryDay ((getBay s b).directory.getD []) = day := by rw [hd]; rfl
    rw [finishBay_eq h hj ho, day]
    rfl

end Sys2Proof.Machine
end

section
/-! SUPPORT. The order of the job queue, the target cut-off and the estimate (R57, R58, R61; O36). -/

namespace Sys2Proof.Machine

/-! ## The job queue (R61) -/

/-- Keys compare as lists do, number by number. -/
theorem keyBefore_iff (xs ys : List Nat) : keyBefore xs ys = true ↔ xs < ys := by
  induction xs generalizing ys with
  | nil => cases ys <;> simp [keyBefore]
  | cons x xs ih =>
    cases ys with
    | nil => simp [keyBefore]
    | cons y ys => simp [keyBefore, List.cons_lt_cons_iff, ih]

/-- An insertion behind every record that the new one does not precede leaves a list sorted in which no record precedes an earlier one. -/
theorem insertBy_sorted {α β : Type} [LinearOrder β] {before : α → α → Bool} {key : α → β} (hb : ∀ a b, before a b = true ↔ key a < key b)
    (x : α) {xs : List α} (h : xs.Pairwise fun a b => ¬key b < key a) : (insertBy before x xs).Pairwise fun a b => ¬key b < key a := by
  induction xs with
  | nil => exact List.pairwise_singleton _ _
  | cons y ys ih =>
    obtain ⟨hy, hys⟩ := List.pairwise_cons.1 h
    by_cases hxy : key x < key y
    · rw [insertBy, if_pos ((hb x y).2 hxy)]
      refine List.pairwise_cons.2 ⟨fun z hz => ?_, h⟩
      rcases List.mem_cons.1 hz with rfl | hz
      · exact hxy.asymm
      · exact (hxy.trans_le (not_lt.1 (hy z hz))).asymm
    · rw [insertBy, if_neg ((hb x y).not.2 hxy)]
      refine List.pairwise_cons.2 ⟨fun z hz => ?_, ih hys⟩
      rcases (mem_insertBy _ _ _ _).1 hz with rfl | hz
      · exact hxy
      · exact hy z hz

theorem sortBy_sorted {α β : Type} [LinearOrder β] {before : α → α → Bool} {key : α → β} (hb : ∀ a b, before a b = true ↔ key a < key b)
    (xs : List α) : (sortBy before xs).Pairwise fun a b => ¬key b < key a := by
  have go : ∀ (xs acc : List α), acc.Pairwise (fun a b => ¬key b < key a) →
      (xs.foldl (fun acc x => insertBy before x acc) acc).Pairwise fun a b => ¬key b < key a := by
    intro xs
    induction xs with
    | nil => exact fun _ h => h
    | cons x xs ih => exact fun acc h => ih _ (insertBy_sorted hb x h)
  exact go xs [] .nil

/-- The part of R61's key behind the target. -/
theorem tieLater_iff (place : Job → Nat) (a b : Job) : tieLater place a b ↔
    [1 - bit b.requeued, place b, b.index] < [1 - bit a.requeued, place a, a.index] := by
  cases ha : a.requeued <;> cases hb : b.requeued <;>
    simp [tieLater, bit, ha, hb, List.cons_lt_cons_iff, eq_comm (a := place a)]

theorem jobKey_of_target {s : State} {j : Job} {t : Nat} (h : j.target = some t) :
    jobKey s j = 0 :: t :: [1 - bit j.requeued, shipmentPlace s j.shipment, j.index] := by
  simp only [jobKey, h]
  rfl

theorem jobKey_of_none {s : State} {j : Job} (h : j.target = none) :
    jobKey s j = 1 :: 0 :: [1 - bit j.requeued, shipmentPlace s j.shipment, j.index] := by
  simp only [jobKey, h]
  rfl

section
variable {s : State} {a b : Job}

theorem jobKey_lt_of_targets {x y : Nat} (ha : a.target = some x) (hb : b.target = some y) :
    jobKey s b < jobKey s a ↔ y < x ∨ (x = y ∧ tieLater (fun j => shipmentPlace s j.shipment) a b) := by
  rw [jobKey_of_target ha, jobKey_of_target hb, tieLater_iff]
  simp only [List.cons_lt_cons_iff (a := 0), List.cons_lt_cons_iff (a := y), Nat.lt_irrefl, false_or, true_and, eq_comm (a := y)]

theorem jobKey_lt_of_none (ha : a.target = none) (hb : b.target = none) :
    jobKey s b < jobKey s a ↔ tieLater (fun j => shipmentPlace s j.shipment) a b := by
  rw [jobKey_of_none ha, jobKey_of_none hb, tieLater_iff]
  simp only [List.cons_lt_cons_iff (a := 0), List.cons_lt_cons_iff (a := 1), Nat.lt_irrefl, false_or, true_and]

theorem jobKey_target_lt {y : Nat} (ha : a.target = none) (hb : b.target = some y) : jobKey s b < jobKey s a := by
  rw [jobKey_of_none ha, jobKey_of_target hb]
  exact List.cons_lt_cons_iff.2 (.inl Nat.zero_lt_one)

end

theorem jobQueue_sorted (s : State) : (jobQueue s).Pairwise fun a b => ¬jobKey s b < jobKey s a :=
  sortBy_sorted (key := jobKey s) (fun _ _ => keyBefore_iff _ _) _

/-! ## The target cut-off (R58) -/

/-- The cut-offs of today, tomorrow and the day after, no day after day 65,535 (R58). -/
def comingCutoffs (s : State) : List Nat :=
  (List.range 3).flatMap fun d => if s.clock.day + d ≤ maxDay then s.cutoffs.map fun m => (s.clock.day + d) * 1440 + m else []

theorem targetCutoff_eq (s : State) (e : Nat) : targetCutoff s e =
    (comingCutoffs s).find? fun t => decide (s.clock.day * 1440 + s.clock.minute + (e + 59) / 60 + 15 ≤ t) := rfl

theorem mem_comingCutoffs (s : State) (t : Nat) : t ∈ comingCutoffs s ↔
    ∃ d, d < 3 ∧ s.clock.day + d ≤ 65535 ∧ ∃ m ∈ s.cutoffs, t = (s.clock.day + d) * 1440 + m := by
  have day : ∀ d, (t ∈ if s.clock.day + d ≤ maxDay then s.cutoffs.map fun m => (s.clock.day + d) * 1440 + m else []) ↔
      s.clock.day + d ≤ 65535 ∧ ∃ m ∈ s.cutoffs, t = (s.clock.day + d) * 1440 + m := by
    intro d
    by_cases h : s.clock.day + d ≤ 65535 <;> simp [h, eq_comm]
  simp only [comingCutoffs, List.mem_flatMap, List.mem_range, day]

theorem comingCutoffs_rising {s : State} (rising : s.cutoffs.Pairwise (· < ·)) (minutes : ∀ m ∈ s.cutoffs, m < 1440) :
    (comingCutoffs s).Pairwise (· < ·) := by
  rw [comingCutoffs, List.pairwise_flatMap]
  refine ⟨fun d _ => ?_, List.pairwise_lt_range.imp fun {c d} hcd x hx y hy => ?_⟩
  · split
    · exact List.pairwise_map.2 (rising.imp fun h => Nat.add_lt_add_left h _)
    · exact .nil
  · have of_mem : ∀ {d x}, (x ∈ if s.clock.day + d ≤ maxDay then s.cutoffs.map fun m => (s.clock.day + d) * 1440 + m else []) →
        ∃ m ∈ s.cutoffs, (s.clock.day + d) * 1440 + m = x := by
      intro d x h
      split at h
      · exact List.mem_map.1 h
      · cases h
    obtain ⟨m, hm, rfl⟩ := of_mem hx
    obtain ⟨n, -, rfl⟩ := of_mem hy
    have := minutes m hm
    omega

/-- Settles O36: the queue by its key as a list in lexicographic order, the target as the first of the coming cut-offs, which rise. -/
theorem jobQueueAndTarget : Obligations.JobQueueAndTarget := by
  unfold Obligations.JobQueueAndTarget
  refine ⟨fun s => ⟨sortBy_perm _ _, (jobQueue_sorted s).imp fun {a b} sorted => ?_⟩, fun s e rising minutes => ⟨fun t ht => ?_, fun none t' ht' => ?_⟩,
    fun parts => ?_⟩
  · cases ha : a.target <;> cases hb : b.target
    case none.none =>
      simp only [ha, hb]
      exact fun tie => sorted ((jobKey_lt_of_none ha hb).2 tie)
    case none.some => exact absurd (jobKey_target_lt ha hb) sorted
    case some.none =>
      simp only [ha, hb]
      exact not_false
    case some.some =>
      simp only [ha, hb]
      exact fun later => sorted ((jobKey_lt_of_targets ha hb).2 later)
  · rw [targetCutoff_eq] at ht
    refine ⟨(mem_comingCutoffs s t).1 (List.mem_of_find?_eq_some ht), by simpa using List.find?_some ht, fun t' ht' le => ?_⟩
    exact find?_least (comingCutoffs_rising rising minutes) ht t' ((mem_comingCutoffs s t').2 ht') (by simpa using le)
  · rw [targetCutoff_eq, List.find?_eq_none] at none
    simpa using none t' ((mem_comingCutoffs s t').2 ht')
  · simp only [estimate]
    omega

end Sys2Proof.Machine
end

section
/-! SUPPORT. The Planner's walk: where a candidate's parts go, and the bounds of the plan (R52 to R56; O35). -/

namespace Sys2Proof.Machine

/-- The blocks of a run of volumes. -/
def runBlocks (run : List Volume) : Nat := (run.map (·.size)).sum

theorem runBlocks_cons (v : Volume) (vs : List Volume) : runBlocks (v :: vs) = v.size + runBlocks vs := List.sum_cons

/-! ## The longest run of whole volumes (R54) -/

theorem takeRun_cons {free : Nat} {v : Volume} (h : v.size ≤ free) (vs : List Volume) :
    takeRun free (v :: vs) = (v :: (takeRun (free - v.size) vs).1, (takeRun (free - v.size) vs).2) := by
  simp only [takeRun, if_pos h]

theorem takeRun_tight {free : Nat} {v : Volume} (h : free < v.size) (vs : List Volume) : takeRun free (v :: vs) = ([], v :: vs) := by
  simp only [takeRun, if_neg (Nat.not_le.2 h)]

theorem takeRun_split (free : Nat) (vols : List Volume) : (takeRun free vols).1 ++ (takeRun free vols).2 = vols := by
  induction vols generalizing free with
  | nil => rfl
  | cons v vs ih =>
    by_cases h : v.size ≤ free
    · rw [takeRun_cons h, List.cons_append, ih]
    · rw [takeRun_tight (Nat.lt_of_not_le h), List.nil_append]

theorem takeRun_fits (free : Nat) (vols : List Volume) : runBlocks (takeRun free vols).1 ≤ free := by
  induction vols generalizing free with
  | nil => exact Nat.zero_le _
  | cons v vs ih =>
    by_cases h : v.size ≤ free
    · rw [takeRun_cons h, runBlocks_cons]
      have := ih (free - v.size)
      omega
    · rw [takeRun_tight (Nat.lt_of_not_le h)]
      exact Nat.zero_le _

/-- A run that fits, and that the next volume would carry past the free space, is the one taken. -/
theorem takeRun_longest {free : Nat} {run behind : List Volume} (fits : runBlocks run ≤ free)
    (full : ∀ v, behind.head? = some v → free < runBlocks run + v.size) : takeRun free (run ++ behind) = (run, behind) := by
  induction run generalizing free with
  | nil =>
    cases behind with
    | nil => rfl
    | cons v vs =>
      have := full v rfl
      exact takeRun_tight (by simpa [runBlocks] using this) vs
  | cons v vs ih =>
    rw [runBlocks_cons] at fits full
    have rest := ih (free := free - v.size) (by omega) fun w hw => by
      have := full w hw
      omega
    rw [List.cons_append, takeRun_cons (by omega), rest]

/-! ## One stage (R54) -/

section
variable (k : Kind) {cap : Nat} (key : TitleKey) {vols : List Volume} {carts rest : List PlanCart} {c : PlanCart}

theorem openStage_opened {v : Volume} {vs behind : List Volume} (room : carts.length < cap)
    (run : takeRun (usable k) vols = (v :: vs, behind)) :
    openStage k cap key vols carts = some (behind, (newCart k).place (runPart key (v :: vs)) :: carts) := by
  simp only [openStage, if_pos room, run]

theorem openStage_capped (h : cap ≤ carts.length) : openStage k cap key vols carts = none := if_neg (Nat.not_lt.2 h)

theorem splitStage_placed {v : Volume} {vs behind : List Volume} (run : takeRun c.free vols = (v :: vs, behind)) (few : c.parts.length < 12) :
    splitStage k cap key vols (c :: rest) = some (behind, c.place (runPart key (v :: vs)) :: rest) := by
  simp only [splitStage, run, if_pos few]

theorem splitStage_many {v : Volume} {vs behind : List Volume} (run : takeRun c.free vols = (v :: vs, behind)) (many : 12 ≤ c.parts.length) :
    splitStage k cap key vols (c :: rest) = openStage k cap key vols (c :: rest) := by
  simp only [splitStage, run, if_neg (Nat.not_lt.2 many)]

theorem splitStage_tight {behind : List Volume} (run : takeRun c.free vols = ([], behind)) :
    splitStage k cap key vols (c :: rest) = openStage k cap key vols (c :: rest) := by
  simp only [splitStage, run]

end

/-! ## Where a part goes (R52 to R54) -/

/-- A part placed on the current cartridge, or on a new one that becomes the current one. -/
inductive Places (k : Kind) (p : Part) : List PlanCart → List PlanCart → Prop where
  | current (c : PlanCart) (rest : List PlanCart) (fits : p.count ≤ c.free) (few : c.parts.length < 12) :
    Places k p (c :: rest) (c.place p :: rest)
  | opened {carts : List PlanCart} (fits : p.count ≤ usable k) : Places k p carts ((newCart k).place p :: carts)

/-- The cartridges of a working plan: each has its kind's space, in free blocks and in at most 12 parts, every part of one of these entries. -/
def PlanFits (k : Kind) (keys : List TitleKey) (carts : List PlanCart) : Prop :=
  ∀ c ∈ carts, c.free + (c.parts.map (·.count)).sum = usable k ∧ c.parts.length ≤ 12 ∧ ∀ q ∈ c.parts, q.key ∈ keys

section
variable {k : Kind} {p : Part} {carts got : List PlanCart} {keys : List TitleKey}

theorem Places.parts (h : Places k p carts got) : got.reverse.flatMap (·.parts) = carts.reverse.flatMap (·.parts) ++ [p] := by
  cases h with
  | current c rest fits few => simp [PlanCart.place]
  | opened fits => simp [PlanCart.place, newCart]

theorem Places.fits (h : Places k p carts got) (named : p.key ∈ keys) (w : PlanFits k keys carts) : PlanFits k keys got := by
  cases h with
  | current c rest fits few =>
    obtain ⟨hc, hrest⟩ := List.forall_mem_cons.1 w
    obtain ⟨space, -, keys⟩ := hc
    refine List.forall_mem_cons.2 ⟨⟨?_, ?_, ?_⟩, hrest⟩
    · simp only [PlanCart.place, List.map_append, List.sum_append, List.map_cons, List.map_nil, List.sum_singleton]
      omega
    · simpa [PlanCart.place] using few
    · simpa [PlanCart.place, or_imp, forall_and, named] using keys
  | opened fits =>
    refine List.forall_mem_cons.2 ⟨⟨?_, ?_, ?_⟩, w⟩
    · simp [PlanCart.place, newCart, Nat.sub_add_cancel fits]
    · simp [PlanCart.place, newCart]
    · simpa [PlanCart.place, newCart] using named

end

/-! ## A title placed whole (R53) -/

theorem placeWhole_current {k : Kind} {cap : Nat} {e : TitleEntry} {c : PlanCart} {rest : List PlanCart} (fits : e.size ≤ c.free)
    (few : c.parts.length < 12) : placeWhole k cap e (c :: rest) = some (c.place ⟨e.key, 0, e.size, e.occCount⟩ :: rest) :=
  if_pos ⟨fits, few⟩

section
variable {k : Kind} {cap : Nat} {e : TitleEntry} {c : PlanCart} {rest : List PlanCart} (full : c.free < e.size ∨ 12 ≤ c.parts.length)
include full

theorem not_placed_of_full : ¬(e.size ≤ c.free ∧ c.parts.length < 12) := by omega

theorem placeWhole_opened (room : rest.length + 1 < cap) :
    placeWhole k cap e (c :: rest) = some ((newCart k).place ⟨e.key, 0, e.size, e.occCount⟩ :: c :: rest) :=
  (if_neg (not_placed_of_full full)).trans (if_pos room)

theorem placeWhole_capped (h : cap ≤ rest.length + 1) : placeWhole k cap e (c :: rest) = none :=
  (if_neg (not_placed_of_full full)).trans (if_neg (Nat.not_lt.2 h))

end

theorem placeWhole_places {k : Kind} {cap : Nat} {e : TitleEntry} {carts got : List PlanCart} (small : e.size ≤ usable k)
    (h : placeWhole k cap e carts = some got) : Places k ⟨e.key, 0, e.size, e.occCount⟩ carts got := by
  unfold placeWhole at h
  split at h
  · split at h
    · rename_i room
      cases h
      exact .current _ _ room.1 room.2
    · split at h <;> cases h
      exact .opened small
  · cases h

/-! ## A title placed by stages (R54, R55) -/

theorem openStage_places {k : Kind} {cap : Nat} {key : TitleKey} {vols behind : List Volume} {carts got : List PlanCart}
    (h : openStage k cap key vols carts = some (behind, got)) :
    ∃ run, run ≠ [] ∧ run ++ behind = vols ∧ Places k (runPart key run) carts got := by
  have split := takeRun_split (usable k) vols
  have fits := takeRun_fits (usable k) vols
  unfold openStage at h
  split at h
  · split at h
    · cases h
    · rename_i run behind' ne taken
      cases h
      rw [taken] at split fits
      exact ⟨run, fun e => ne (e ▸ rfl), split, .opened fits⟩
  · cases h

theorem splitStage_places {k : Kind} {cap : Nat} {key : TitleKey} {vols behind : List Volume} {carts got : List PlanCart}
    (h : splitStage k cap key vols carts = some (behind, got)) :
    ∃ run, run ≠ [] ∧ run ++ behind = vols ∧ Places k (runPart key run) carts got := by
  cases carts with
  | nil => cases h
  | cons c rest =>
    have split := takeRun_split c.free vols
    have fits := takeRun_fits c.free vols
    cases taken : takeRun c.free vols with
    | mk run behind' =>
      cases run with
      | nil => exact openStage_places (splitStage_tight k key taken ▸ h)
      | cons v vs =>
        by_cases few : c.parts.length < 12
        · rw [splitStage_placed k key taken few] at h
          rw [taken] at split fits
          cases h
          exact ⟨v :: vs, List.cons_ne_nil _ _, split, .current c rest fits few⟩
        · exact openStage_places (splitStage_many k key taken (Nat.le_of_not_lt few) ▸ h)

section
variable (k : Kind) (cap : Nat) (key : TitleKey)

theorem placeSplit_nil (n : Nat) (carts : List PlanCart) : placeSplit k cap key n [] carts = some carts := by
  cases n <;> rfl

variable {k cap key} {n : Nat} {vols : List Volume} {carts : List PlanCart}

theorem placeSplit_capped (ne : vols ≠ []) (h : splitStage k cap key vols carts = none) : placeSplit k cap key (n + 1) vols carts = none := by
  simp only [placeSplit, List.isEmpty_iff, if_neg ne, h]

theorem placeSplit_stage {behind : List Volume} {carts' : List PlanCart} (ne : vols ≠ [])
    (h : splitStage k cap key vols carts = some (behind, carts')) :
    placeSplit k cap key (n + 1) vols carts = placeSplit k cap key n behind carts' := by
  simp only [placeSplit, List.isEmpty_iff, if_neg ne, h]

/-- The stages cut the title's volumes into runs, and each run is one part, placed in its turn. -/
theorem placeSplit_runs {got : List PlanCart} (h : placeSplit k cap key n vols carts = some got) :
    (∃ runs : List (List Volume), runs.flatten = vols ∧ (∀ r ∈ runs, r ≠ []) ∧
      got.reverse.flatMap (·.parts) = carts.reverse.flatMap (·.parts) ++ runs.map (runPart key)) ∧
    ∀ keys, key ∈ keys → PlanFits k keys carts → PlanFits k keys got := by
  induction n generalizing vols carts with
  | zero =>
    cases vols with
    | nil =>
      cases h
      exact ⟨⟨[], rfl, by simp, by simp⟩, fun _ _ w => w⟩
    | cons v vs => cases h
  | succ n ih =>
    by_cases ne : vols = []
    · subst ne
      rw [placeSplit_nil] at h
      cases h
      exact ⟨⟨[], rfl, by simp, by simp⟩, fun _ _ w => w⟩
    · cases hs : splitStage k cap key vols carts with
      | none =>
        rw [placeSplit_capped ne hs] at h
        cases h
      | some next =>
        obtain ⟨behind, carts'⟩ := next
        rw [placeSplit_stage ne hs] at h
        obtain ⟨run, hrun, split, placed⟩ := splitStage_places hs
        obtain ⟨⟨runs, flat, nonempty, parts⟩, fits⟩ := ih h
        refine ⟨⟨run :: runs, ?_, List.forall_mem_cons.2 ⟨hrun, nonempty⟩, ?_⟩, fun keys named w => fits keys named (placed.fits named w)⟩
        · rw [List.flatten_cons, flat, split]
        · rw [parts, placed.parts, List.map_cons, List.append_assoc, List.singleton_append]

end

theorem length_volumes (size : Nat) (breaks : List Nat) : (volumes size breaks).length = breaks.length + 1 := by
  have go : ∀ (breaks : List Nat) start, (volumes.go size start breaks).length = breaks.length + 1 := by
    intro breaks
    induction breaks with
    | nil => exact fun _ => rfl
    | cons b bs ih => exact fun _ => congrArg (· + 1) (ih b)
  exact go breaks 0

/-- An entry with an occupancy count for each volume: its volumes as the Planner sees them (R2, R52). -/
theorem entryVolumes_eq {e : TitleEntry} (h : e.volOcc.length = e.breaks.length + 1) :
    (entryVolumes e).map (fun v => (v.first, v.size)) = volumes e.size e.breaks ∧ (entryVolumes e).map (·.occ) = e.volOcc := by
  have same : (volumes e.size e.breaks).length = e.volOcc.length := (length_volumes _ _).trans h.symm
  simp only [entryVolumes, List.map_map]
  exact ⟨List.map_fst_zip same.le, List.map_snd_zip same.ge⟩

/-! ## One candidate, and the walk (R52 to R56) -/

section
variable {k : Kind} {cap : Nat} {w : Working} {e : TitleEntry}

theorem placeCandidate_whole (small : e.size ≤ usable k) {carts : List PlanCart} (h : placeWhole k cap e w.carts = some carts) :
    placeCandidate k cap w e = ⟨carts, e.key :: w.placed⟩ := by
  simp only [placeCandidate, if_pos small, h]

theorem placeCandidate_deferred (small : e.size ≤ usable k) (h : placeWhole k cap e w.carts = none) : placeCandidate k cap w e = w := by
  simp only [placeCandidate, if_pos small, h]

theorem placeCandidate_split (large : usable k < e.size) {carts : List PlanCart}
    (h : placeSplit k cap e.key (entryVolumes e).length (entryVolumes e) w.carts = some carts) :
    placeCandidate k cap w e = ⟨carts, e.key :: w.placed⟩ := by
  simp only [placeCandidate, if_neg (Nat.not_le.2 large), h]

theorem placeCandidate_rolledBack (large : usable k < e.size)
    (h : placeSplit k cap e.key (entryVolumes e).length (entryVolumes e) w.carts = none) : placeCandidate k cap w e = w := by
  simp only [placeCandidate, if_neg (Nat.not_le.2 large), h]

end

/-- What a candidate does to the working plan: nothing, or its parts are placed and it is noted as placed. -/
theorem placeCandidate_cases (k : Kind) (cap : Nat) (w : Working) (e : TitleEntry) : placeCandidate k cap w e = w ∨
    ((placeCandidate k cap w e).placed = e.key :: w.placed ∧
      ∀ keys, e.key ∈ keys → PlanFits k keys w.carts → PlanFits k keys (placeCandidate k cap w e).carts) := by
  by_cases small : e.size ≤ usable k
  · cases h : placeWhole k cap e w.carts with
    | none => exact .inl (placeCandidate_deferred small h)
    | some carts =>
      rw [placeCandidate_whole small h]
      exact .inr ⟨rfl, fun keys named => (placeWhole_places small h).fits named⟩
  · have large : usable k < e.size := Nat.lt_of_not_le small
    cases h : placeSplit k cap e.key (entryVolumes e).length (entryVolumes e) w.carts with
    | none => exact .inl (placeCandidate_rolledBack large h)
    | some carts =>
      rw [placeCandidate_split large h]
      exact .inr ⟨rfl, (placeSplit_runs h).2⟩

/-- The walk keeps the cartridges' bounds, and notes placed candidates in list order. -/
theorem placeCandidates_keep (k : Kind) (cap : Nat) (l : List TitleEntry) (w : Working) :
    (l.foldl (placeCandidate k cap) w).placed.reverse.Sublist (w.placed.reverse ++ l.map (·.key)) ∧
    ∀ keys, (∀ e ∈ l, e.key ∈ keys) → PlanFits k keys w.carts → PlanFits k keys (l.foldl (placeCandidate k cap) w).carts := by
  induction l generalizing w with
  | nil => exact ⟨by simp, fun _ _ h => h⟩
  | cons e l ih =>
    obtain ⟨placed, fits⟩ := ih (placeCandidate k cap w e)
    rw [List.foldl_cons, List.map_cons]
    rcases placeCandidate_cases k cap w e with same | ⟨noted, keep⟩
    · rw [same] at placed fits ⊢
      exact ⟨placed.trans ((List.sublist_cons_self _ _).append_left _), fun keys h => fits keys fun x hx => h x (List.mem_cons_of_mem e hx)⟩
    · rw [noted, List.reverse_cons, List.append_assoc, List.singleton_append] at placed
      exact ⟨placed, fun keys h hw => fits keys (fun x hx => h x (List.mem_cons_of_mem e hx)) (keep keys (h e List.mem_cons_self) hw)⟩

theorem makePlan_empty {k : Kind} {cap : Nat} {candidates : List TitleEntry} (h : cap = 0 ∨ candidates = []) :
    makePlan k cap candidates = ⟨[], []⟩ := if_pos (by simpa using h)

theorem makePlan_walk {k : Kind} {cap : Nat} {candidates : List TitleEntry} (h : ¬(cap = 0 ∨ candidates = [])) : makePlan k cap candidates =
    ⟨((candidates.foldl (placeCandidate k cap) ⟨[newCart k], []⟩).carts.reverse.map (·.parts)).filter fun parts => parts ≠ [],
      (candidates.foldl (placeCandidate k cap) ⟨[newCart k], []⟩).placed.reverse⟩ := by
  have test : (fun parts : List Part => !parts.isEmpty) = fun parts => decide (parts ≠ []) := by
    funext parts
    cases parts <;> rfl
  rw [makePlan, if_neg (by simpa using h), test]

theorem makePlan_placed (k : Kind) (cap : Nat) (candidates : List TitleEntry) :
    (makePlan k cap candidates).placed.Sublist (candidates.map (·.key)) := by
  by_cases h : cap = 0 ∨ candidates = []
  · rw [makePlan_empty h]
    exact List.nil_sublist _
  · rw [makePlan_walk h]
    exact (placeCandidates_keep k cap candidates ⟨[newCart k], []⟩).1

theorem planFits_newCart (k : Kind) (keys : List TitleKey) : PlanFits k keys [newCart k] := by
  simp [PlanFits, newCart]

theorem makePlan_fits {k : Kind} {cap : Nat} {candidates : List TitleEntry} {parts : List Part} (h : parts ∈ (makePlan k cap candidates).carts) :
    1 ≤ parts.length ∧ parts.length ≤ 12 ∧ (parts.map (·.count)).sum ≤ usable k ∧ ∀ q ∈ parts, ∃ e ∈ candidates, e.key = q.key := by
  by_cases empty : cap = 0 ∨ candidates = []
  · rw [makePlan_empty empty] at h
    cases h
  · rw [makePlan_walk empty, List.mem_filter] at h
    obtain ⟨mem, ne⟩ := h
    obtain ⟨c, hc, rfl⟩ := List.mem_map.1 mem
    obtain ⟨space, few, keys⟩ := (placeCandidates_keep k cap candidates ⟨[newCart k], []⟩).2 (candidates.map (·.key))
      (fun e he => List.mem_map_of_mem he) (planFits_newCart k _) c (List.mem_reverse.1 hc)
    refine ⟨List.length_pos_iff.2 (by simpa using ne), few, by omega, fun q hq => List.mem_map.1 (keys q hq)⟩

/-- Settles O35: the longest run is the one that `takeRun` takes, and the walk keeps `PlanFits`. -/
theorem planPlacesAndDefers : Obligations.PlanPlacesAndDefers := by
  unfold Obligations.PlanPlacesAndDefers
  intro k cap u
  have hu : u = usable k := rfl
  clear_value u
  subst hu
  intro blocks longest part
  have taken : ∀ {free vols run behind}, longest free vols run behind → takeRun free vols = (run, behind) := by
    rintro free _ run behind ⟨rfl, fits, full⟩
    exact takeRun_longest fits full
  refine ⟨fun e c rest placed small => ⟨fun fits few => ?_, fun full => ⟨fun room => ?_, fun capped => ?_⟩⟩, fun key c rest vols => ?_,
    fun key n vols carts ne => ⟨placeSplit_nil k cap key n carts, placeSplit_capped ne, fun behind carts' => placeSplit_stage ne⟩,
    fun e w large => ⟨entryVolumes_eq, placeCandidate_rolledBack large, fun carts h => ⟨placeCandidate_split large h, (placeSplit_runs h).1⟩⟩,
    fun candidates => ⟨makePlan_empty, fun h1 h2 => makePlan_walk (not_or.2 ⟨h1, h2⟩), makePlan_length k cap candidates,
      makePlan_placed k cap candidates, fun parts => makePlan_fits⟩⟩
  · exact placeCandidate_whole small (placeWhole_current fits few)
  · exact placeCandidate_whole small (placeWhole_opened full room)
  · exact placeCandidate_deferred small (placeWhole_capped full capped)
  · intro stage opened
    have opens : stage = openStage k cap key vols (c :: rest) → opened := fun h =>
      ⟨fun room v vs behind long => h.trans (openStage_opened k key room (taken long)), fun capped => h.trans (openStage_capped k key capped)⟩
    exact ⟨fun v vs behind long => ⟨splitStage_placed k key (taken long), fun many => opens (splitStage_many k key (taken long) many)⟩,
      fun long => opens (splitStage_tight k key (taken long))⟩

end Sys2Proof.Machine
end

section
/-! SUPPORT. The idle millisecond (R69, R97, R182; O2). -/

namespace Sys2Proof.Machine

theorem step_idle {s : State} (h : s.pending = []) : step s = .next (tick s) := by simp only [step, h]

theorem tick_unpowered {s : State} (h : s.power = false) : tick s = s := by simp [tick, h]

theorem tick_powered {s : State} (h : s.power = true) : tick s =
    { s with
      bays := Vector.ofFn fun i => tickBay s i
      lowTimer := if s.supply = .low then min lowTime (s.lowTimer + 1) else s.lowTimer
      rx := tickReceiver s.rx } := if_pos h

theorem getBay_tick {s : State} (h : s.power = true) (b : BayId) : getBay (tick s) b = tickBay s b := by
  rw [tick_powered h, getBay]
  exact Vector.getElem_ofFn b.isLt

/-- A bay without a cartridge has the wipe timeout of kind S (R75). -/
theorem wipeLimit_eq (s : State) (b : BayId) :
    wipeLimit s b = if (occupantOf s b).map (·.kind) = some .l then 420000 else 240000 := by
  rw [wipeLimit]
  cases (occupantOf s b).map (·.kind) with
  | none => rfl
  | some k => cases k <;> rfl

/-- Settles O2: the idle step is `tick`, read timer by timer. -/
theorem idleStepRunsTimers : Obligations.IdleStepRunsTimers := by
  unfold Obligations.IdleStepRunsTimers
  intro s idle
  rw [step_idle idle]
  refine ⟨fun off => by rw [tick_unpowered off], fun on => ⟨tick s, rfl, ?_, ?_, fun h => ?_, fun bytes gap h => ?_, fun b => ?_⟩⟩
  · rw [tick_powered on]
  · rw [tick_powered on]
  · rw [tick_powered on, h]
    rfl
  · rw [tick_powered on, h]
    rfl
  · rw [getBay_tick on, ← wipeLimit_eq]
    rfl

end Sys2Proof.Machine
end

section
/-! SUPPORT. BAY SERVICE: the row that its action names, and the two rules by the bay's state (R94; O46). -/

namespace Sys2Proof.Machine

/-! ## The request -/

theorem bayOf_val (b : BayId) : bayOf b.val = some b := dif_pos b.isLt

theorem bayOf_beyond {n : Nat} (h : 23 < n) : bayOf n = none := dif_neg (by omega)

theorem bayIn_ne {action : Nat} (h : action < 256) (ne : action ≠ 2) (n : Nat) :
    ((bodyOf [(1, n), (1, action)]).drop 1).head? ≠ some 2 := by
  rw [drop_bodyOf_byte]
  exact form_ne h (by decide) ne []

section
variable {s t : State} {tag : Byte} {data : List Byte} {n action : Nat}

theorem exec_bayServiceIn (h : n < 256) (hs : canServe ⟨0x39, tag, bodyOf [(1, n), (1, 2)]⟩ s = true)
    (ha : serviceInRule n s = (t, data)) : exec (.bayServiceIn tag (bodyOf [(1, n), (1, 2)])) s = .next (t.replied (0x39 + 0x80) tag data) :=
  exec_answered (rule := serviceInRule (field _ 0 1)) rfl (by rw [field_head h]) rfl (by simp [bodyLengthOk]) rfl hs ha

theorem exec_bayServiceOut (h : n < 256) (hx : action < 256) (ne : action ≠ 2)
    (hs : canServe ⟨0x39, tag, bodyOf [(1, n), (1, action)]⟩ s = true) (ha : serviceOutRule n action s = (t, data)) :
    exec (.bayServiceOut tag (bodyOf [(1, n), (1, action)])) s = .next (t.replied (0x39 + 0x80) tag data) :=
  exec_answered (rule := serviceOutRule (field _ 0 1) (field _ 1 1)) rfl
    (by rw [field_head h, field_skip n (Nat.le_refl 1), Nat.sub_self, field_head hx])
    (by exact if_neg (bayIn_ne hx ne n)) (by simp [bodyLengthOk]) rfl hs ha

/-- The request as its action takes it: IN for action 2, OUT for every other. -/
theorem exec_bayService (h : n < 256) (hx : action < 256) (hs : canServe ⟨0x39, tag, bodyOf [(1, n), (1, action)]⟩ s = true)
    (ha : (if action = 2 then serviceInRule n s else serviceOutRule n action s) = (t, data)) :
    exec (if action = 2 then .bayServiceIn tag (bodyOf [(1, n), (1, action)]) else .bayServiceOut tag (bodyOf [(1, n), (1, action)])) s =
      .next (t.replied (0x39 + 0x80) tag data) := by
  by_cases two : action = 2
  · subst two
    exact exec_bayServiceIn h hs ha
  · rw [if_neg two] at ha ⊢
    exact exec_bayServiceOut h hx two hs ha

end

/-! ## What the rules answer -/

section
variable {s : State} {n action : Nat} {b : BayId}

theorem serviceInRule_beyond (h : 23 < n) : serviceInRule n s = statusOnly .range s := by
  simp only [serviceInRule, bayOf_beyond h]

theorem serviceOutRule_beyond (h : 23 < n) : serviceOutRule n action s = statusOnly .range s := by
  simp only [serviceOutRule, bayOf_beyond h]

theorem serviceOutRule_unlisted (h : action ≠ 1) : serviceOutRule n action s = statusOnly .range s := by
  unfold serviceOutRule
  cases bayOf n with
  | none => rfl
  | some b => exact if_pos h

theorem serviceOutRule_empty (h : (getBay s b).state = .empty) :
    serviceOutRule b.val 1 s = okWith [] (s.withBay b { getBay s b with state := .outOfService }) := by
  simp only [serviceOutRule, bayOf_val, h, ne_eq, not_true_eq_false, if_false, if_true, updateBay_eq]

theorem serviceOutRule_busy (h : (getBay s b).state ≠ .empty) : serviceOutRule b.val 1 s = statusOnly .busy s := by
  simp only [serviceOutRule, bayOf_val, h, ne_eq, not_true_eq_false, if_false]

theorem serviceInRule_bare (h : (getBay s b).state = .outOfService) (gone : (getBay s b).present = false) :
    serviceInRule b.val s = okWith [] (s.withBay b { getBay s b with state := .empty, faults := 0 }) := by
  simp only [serviceInRule, bayOf_val, h, if_true, updateBay_eq, gone, Bool.false_eq_true, if_false]

theorem serviceInRule_sensed (h : (getBay s b).state = .outOfService) (here : (getBay s b).present = true) :
    serviceInRule b.val s = okWith [] (s.withBay b { getBay s b with state := .identifying, faults := 0, identTimer := some 0 }) := by
  simp only [serviceInRule, bayOf_val, h, if_true, updateBay_eq, here, beginIdentify]

theorem serviceInRule_busy (h : (getBay s b).state ≠ .outOfService) : serviceInRule b.val s = statusOnly .busy s := by
  simp only [serviceInRule, bayOf_val, h, if_false]

end

/-- Settles O46: the row that the action names, and its rule by the bay's state. -/
theorem bayServiceOutcomes : Obligations.BayServiceOutcomes := by
  unfold Obligations.BayServiceOutcomes
  intro s tag n action hn hx hs reply
  have answers : ∀ {t status}, (if action = 2 then serviceInRule n s else serviceOutRule n action s) = (t, [status]) → reply t status :=
    fun h => exec_bayService hn hx hs h
  refine ⟨fun h => answers ?_, ?_⟩
  · rcases h with far | ⟨h1, h2⟩
    · rw [serviceInRule_beyond far, serviceOutRule_beyond far, ite_self]
      rfl
    · rw [if_neg h2, serviceOutRule_unlisted h1]
      rfl
  · rintro b rfl
    refine ⟨?_, ?_, ?_, ?_⟩
    · rintro rfl h
      exact ⟨answers (serviceOutRule_empty h), rfl⟩
    · rintro rfl h
      exact answers (serviceOutRule_busy h)
    · rintro rfl h
      exact ⟨fun gone => answers (serviceInRule_bare h gone), fun here => answers (serviceInRule_sensed h here)⟩
    · rintro rfl h
      exact answers (serviceInRule_busy h)

end Sys2Proof.Machine
end

section
/-! SUPPORT. Insertion and identification: the bay's rejection, the admission and the enrolment of a record (R71, R72, R105, R106, R108; O39). -/

namespace Sys2Proof.Machine

/-! ## Insertion (R71) -/

section
variable {b : BayId} {s : State}

theorem insertCartridge_empty (h : (getBay s b).state = .empty) :
    insertCartridge b s = s.withBay b { getBay s b with state := .identifying, present := true, identTimer := some 0 } := by
  simp only [insertCartridge, h, updateBay_eq, beginIdentify]

theorem insertCartridge_outOfService (h : (getBay s b).state = .outOfService) :
    insertCartridge b s = s.withBay b { getBay s b with present := true } := by
  simp only [insertCartridge, h, updateBay_eq]

theorem insertCartridge_absent (h : (getBay s b).state = .absent) : insertCartridge b s = s := by
  simp only [insertCartridge, h]

end

/-! ## Rejection and admission, as the statement writes them (R72, R106, R108) -/

theorem rejectBay_eq (b : BayId) (reason : RejectReason) (serial : Option Nat) (s : State) : rejectBay b reason serial s =
    (s.withBay b { getBay s b with state := .reject, rejectReason := some reason, rejected := serial, identTimer := none }).bayFlagged b := by
  rw [rejectBay, setBayEvent_bayFlagged, updateBay_eq]

theorem admitRecord_eq (b : BayId) (k : Kind) : admitRecord b k = fun c => { c with
    state := .inBay
    bay := some b
    entry := some c.state
    kind := k
    shipment := if c.state = .returned ∨ c.state = .fouled then none else c.shipment
    job := if c.state = .returned ∨ c.state = .fouled then none else c.job } := by
  funext c
  simp only [admitRecord, Bool.or_eq_true, beq_iff_eq]

theorem admitCart_eq (b : BayId) (serial : Nat) (k : Kind) (s : State) : admitCart b serial k s =
    (s.withCart (some serial) (admitRecord b k)).withBay b { getBay s b with occupant := some serial, identTimer := none } := by
  rw [admitCart, updateCart_eq]
  rfl

/-- A WRITTEN cartridge admitted again: its bay is DONE, with the BAY flag (R72). -/
def doneAgain (b : BayId) (c : Cartridge) (k : Kind) (s : State) : State :=
  ((s.withCart (some c.serial) (admitRecord b k)).withBay b
    { getBay s b with state := .done, occupant := some c.serial, identTimer := none }).bayFlagged b

/-- The shipment that a WRITTEN cartridge names is looked at (R72, R144). -/
theorem seenAgain_eq (b : BayId) (c : Cartridge) (k : Kind) (s : State) :
    seenAgain b c k s = (c.shipment.elim id refreshDeadline) (doneAgain b c k s) := by
  have bay : setBayEvent b (updateBay b (fun x => { x with state := .done }) (admitCart b c.serial k s)) = doneAgain b c k s := by
    rw [setBayEvent_bayFlagged, updateBay_eq, admitCart_eq, getBay_withBay, withBay_withBay, doneAgain]
  cases h : c.shipment <;> simp only [seenAgain, h, bay, Option.elim, id]

/-! ## Enrolment (R105) -/

theorem findCart_eq_none_iff {s : State} {serial : Nat} : findCart s serial = none ↔ ∀ c ∈ s.cartridges, c.serial ≠ serial := by
  simp [findCart]

theorem findCart_serial {s : State} {serial : Nat} {c : Cartridge} (h : findCart s serial = some c) : c.serial = serial := by
  simpa using List.find?_some h

/-- A change of the record of one serial leaves records of other serials. -/
theorem map_cart_others {l : List Cartridge} {serial : Nat} (h : ∀ c ∈ l, c.serial ≠ serial) (f : Cartridge → Cartridge) :
    (l.map fun c => if some serial = some c.serial then f c else c) = l := by
  conv_rhs => rw [← List.map_id l]
  exact List.map_congr_left fun c hc => if_neg fun e => h c hc (Option.some.inj e).symm

/-- A serial that the registry does not hold is enrolled in its place by serial, and admitted as FOULED (R72, R105, R106). -/
theorem admitCart_enrolled {s : State} {serial : Nat} (h : findCart s serial = none) (b : BayId) (k : Kind) :
    ∃ before behind, s.cartridges = before ++ behind ∧ (∀ c ∈ before, c.serial ≤ serial) ∧
      (∀ c, behind.head? = some c → serial < c.serial) ∧
      admitCart b serial k { s with cartridges := insertBy cartBefore (enrolled serial k) s.cartridges } =
        State.withBay { s with
            cartridges := before ++ ⟨serial, k, .inBay, some b, some .fouled, none, none, [], none, 0, 0⟩ :: behind }
          b { getBay s b with occupant := some serial, identTimer := none } := by
  obtain ⟨before, behind, split, below, above, inserted⟩ := insertBy_between Cartridge.serial (enrolled serial k) s.cartridges
  have others := findCart_eq_none_iff.1 h
  rw [split] at others
  obtain ⟨front, back⟩ := List.forall_mem_append.1 others
  refine ⟨before, behind, split, below, above, ?_⟩
  have placed : insertBy cartBefore (enrolled serial k) s.cartridges = before ++ enrolled serial k :: behind := inserted
  rw [admitCart_eq, placed, State.withCart, List.map_append, List.map_cons, map_cart_others front, map_cart_others back,
    show (enrolled serial k).serial = serial from rfl, if_pos rfl, admitRecord_eq]
  rfl

/-! ## The read and its time limit (R71) -/

section
variable {b : BayId} {s : State}

theorem identityLate_identifying (h : (getBay s b).state = .identifying) : identityLate b s = rejectBay b .unreadable none s := if_pos h

theorem identityLate_other (h : (getBay s b).state ≠ .identifying) : identityLate b s = s := if_neg h

theorem identityRead_other (h : (getBay s b).state ≠ .identifying) (serial : Nat) (kind : Option Kind) : identityRead b serial kind s = s :=
  if_neg h

theorem identityRead_unreadable (h : (getBay s b).state = .identifying) {serial : Nat} {kind : Option Kind} (bad : serial = 0 ∨ kind = none) :
    identityRead b serial kind s = rejectBay b .unreadable none s := by
  cases kind with
  | none => simp only [identityRead, h, if_true]
  | some k => simp only [identityRead, h, bad.resolve_right (Option.some_ne_none k), if_true]

theorem identityRead_read (h : (getBay s b).state = .identifying) {serial : Nat} (ne : serial ≠ 0) (k : Kind) :
    identityRead b serial (some k) s = identify b serial k s := by
  simp only [identityRead, h, ne, if_true, if_false]

end

/-! ## The table of R72 -/

section
variable {s : State} {serial : Nat} {c : Cartridge} (h : findCart s serial = some c) (b : BayId) (k : Kind)
include h

theorem identify_blank (hs : c.state = .blank) : identify b serial k s = enterLoaded b (admitCart b serial k s) := by
  simp only [identify, h, hs]

theorem identify_spent (hs : c.state = .returned ∨ c.state = .fouled) : identify b serial k s = enterWiping b (admitCart b serial k s) := by
  rcases hs with hs | hs <;> simp only [identify, h, hs]

theorem identify_written (hs : c.state = .written) :
    identify b serial k s = (c.shipment.elim id refreshDeadline) (doneAgain b c k s) := by
  rw [← seenAgain_eq]
  simp only [identify, h, hs]

end

/-- The reason for which a record's state keeps its cartridge out (R72). -/
def refusalOf : CartState → Option RejectReason
  | .packed => some .packed
  | .out => some .notReturned
  | .quarantined => some .quarantined
  | .withdrawn => some .withdrawn
  | .inBay => some .inOtherBay
  | _ => none

theorem identify_refused {s : State} {serial : Nat} {c : Cartridge} (h : findCart s serial = some c) {reason : RejectReason}
    (hr : refusalOf c.state = some reason) (b : BayId) (k : Kind) : identify b serial k s = rejectBay b reason (some serial) s := by
  cases hs : c.state <;> rw [hs] at hr <;> cases hr <;> simp only [identify, h, hs]

theorem identify_full {s : State} {serial : Nat} (h : findCart s serial = none) (full : cartridgeCapacity ≤ s.cartridges.length) (b : BayId)
    (k : Kind) : identify b serial k s = rejectBay b .registryFull (some serial) s := by
  simp only [identify, h, if_neg (Nat.not_lt.2 full)]

theorem identify_new {s : State} {serial : Nat} (h : findCart s serial = none) (room : s.cartridges.length < cartridgeCapacity) (b : BayId)
    (k : Kind) : identify b serial k s =
      enterWiping b (admitCart b serial k { s with cartridges := insertBy cartBefore (enrolled serial k) s.cartridges }) := by
  simp only [identify, h, if_pos room]

/-- Settles O39: the insertion by the bay's state, the read by the table of R72. -/
theorem identificationFollowsTheRegistry : Obligations.IdentificationFollowsTheRegistry := by
  unfold Obligations.IdentificationFollowsTheRegistry
  intro s b power x rejected
  have inserted : exec (.cartridgeInserted b) s = .next (insertCartridge b s).stamped := event_powered _ power
  have late : exec (.identificationTimeout b) s = .next (identityLate b s).stamped := event_powered _ power
  have read : ∀ n k, exec (.identityReadDone b n k) s = .next (identityRead b n.toNat k s).stamped := fun n k => event_powered _ power
  have reject : ∀ reason serial, rejectBay b reason serial s = rejected reason serial := fun reason serial => rejectBay_eq b reason serial s
  have unreadable : x.state = .identifying → ∀ {n : BitVec 32} {k}, n.toNat = 0 ∨ k = none →
      exec (.identityReadDone b n k) s = .next (rejected .unreadable none).stamped := by
    intro h n k bad
    rw [read, identityRead_unreadable h bad, reject]
  refine ⟨fun h => ?_, fun h => ?_, fun h => ?_, fun h => ⟨?_, fun n k => ?_⟩, fun h => ⟨?_, fun k => ?_, fun n => ?_, fun n k ne => ?_⟩⟩
  · rw [inserted, insertCartridge_empty h]
  · rw [inserted, insertCartridge_outOfService h]
  · rw [inserted, insertCartridge_absent h]
  · rw [late, identityLate_other h]
  · rw [read, identityRead_other h]
  · rw [late, identityLate_identifying h, reject]
  · exact unreadable h (.inl rfl)
  · exact unreadable h (.inr rfl)
  · intro reads serial admitted
    have nonzero : n.toNat ≠ 0 := fun e => ne (BitVec.eq_of_toNat_eq e)
    have reads_of : ∀ {t}, identify b n.toNat k s = t → reads t := by
      rintro _ rfl
      exact (read n (some k)).trans (by rw [identityRead_read h nonzero])
    have admission : admitCart b n.toNat k s = admitted x := by rw [admitCart_eq, admitRecord_eq]
    refine ⟨fun c hc => ?_, fun hc => ⟨fun full => ?_, fun room => ?_⟩⟩
    · have refused : ∀ {reason}, refusalOf c.state = some reason → reads (rejected reason serial) :=
        fun hr => reads_of ((identify_refused hc hr b k).trans (reject _ _))
      refine ⟨fun hs => reads_of (admission ▸ identify_blank hc b k hs), fun hs => reads_of (admission ▸ identify_spent hc b k hs), fun hs => ?_,
        fun hs => refused (hs ▸ rfl), fun hs => refused (hs ▸ rfl), fun hs => refused (hs ▸ rfl), fun hs => refused (hs ▸ rfl),
        fun hs => refused (hs ▸ rfl)⟩
      intro done
      have seen : identify b n.toNat k s = (c.shipment.elim id refreshDeadline) done := by
        rw [identify_written hc b k hs, doneAgain, findCart_serial hc, admitRecord_eq]
      exact ⟨fun none => reads_of (by rw [seen, none]; rfl), fun m some => reads_of (by rw [seen, some]; rfl)⟩
    · exact reads_of ((identify_full hc full b k).trans (reject _ _))
    · obtain ⟨before, behind, split, below, above, admits⟩ := admitCart_enrolled hc b k
      exact ⟨before, behind, split, below, above, reads_of ((identify_new hc room b k).trans (congrArg _ admits))⟩

end Sys2Proof.Machine
end

section
/-! SUPPORT. Writes: positions, the check list, what a bay writes at once, a pause, and what settles a write (R79 to R87, R98; O42, O43). -/

namespace Sys2Proof.Machine

/-! ## Positions (R79) -/

section
variable {parts : List Part} {p : Pos} {q : Part} (h : partAt parts p = some q)
include h

theorem nextPos_within (more : p.block + 1 < q.count) : nextPos parts p = ⟨p.part, p.block + 1⟩ := by
  simp only [nextPos, h, if_pos more]

theorem nextPos_end (last : q.count ≤ p.block + 1) : nextPos parts p = ⟨p.part + 1, 0⟩ := by
  simp only [nextPos, h, if_neg (Nat.not_lt.2 last)]

end

/-! ## The check list (R82) -/

theorem recordWrite_new {block : Nat} {l : List CheckEntry} (crc : Check) (h : ∀ e ∈ l, e.block ≠ block) :
    ∃ before behind, l = before ++ behind ∧ recordWrite block crc l = before ++ ⟨block, crc, 0, false⟩ :: behind ∧
      (∀ e ∈ before, e.block ≤ block) ∧ ∀ e, behind.head? = some e → block < e.block := by
  obtain ⟨before, behind, split, below, above, inserted⟩ := insertBy_between CheckEntry.block ⟨block, crc, 0, false⟩ l
  refine ⟨before, behind, split, ?_, below, above⟩
  rw [recordWrite, if_neg (by simpa using h), inserted]

theorem recordWrite_again {block : Nat} {l : List CheckEntry} (crc : Check) (h : ∃ e ∈ l, e.block = block) :
    recordWrite block crc l = l.map fun e => if e.block = block then { e with crc := crc } else e := by
  rw [recordWrite, if_pos (by simpa using h)]
  simp only [replace, beq_iff_eq]

/-! ## What a bay writes at once (R82, R83, R85) -/

theorem beginWrite_eq (b : BayId) (block : Nat) (data : List Byte) (s : State) : beginWrite b block data s = s.withBay b
    { getBay s b with
      checkList := recordWrite block (crc16 data) (getBay s b).checkList
      ackTimer := some 0
      writes := (getBay s b).writes + 1 } := rfl

section
variable {s : State} {b : BayId} (idle : (getBay s b).ackTimer = none)

theorem startWrite_elsewhere (h1 : (getBay s b).state ≠ .writing) (h2 : (getBay s b).state ≠ .verifying) : startWrite b s = s := by
  unfold startWrite
  dsimp only
  split
  · rfl
  · split
    · exact absurd ‹_› h1
    · exact absurd ‹_› h2
    · rfl

include idle

/-- In WRITING, with the block at the write position not yet delivered, the bay waits (R82). -/
theorem startWrite_waits (hst : (getBay s b).state = .writing) (hpart : (getBay s b).writePos.part ≤ (jobParts s b).length)
    (h : ∀ f, (getBay s b).buffer.head? = some f → f.pos ≠ (getBay s b).writePos ∨ f.data = none) : startWrite b s = s := by
  cases hbuf : (getBay s b).buffer with
  | nil => simp only [startWrite, idle, hst, hbuf, Option.isSome_none, Bool.false_eq_true, if_false, if_neg (Nat.not_lt.2 hpart)]
  | cons f rest =>
    obtain ⟨p, _ | data⟩ := f
    · simp only [startWrite, idle, hst, hbuf, Option.isSome_none, Bool.false_eq_true, if_false, if_neg (Nat.not_lt.2 hpart)]
    · have apart : p ≠ (getBay s b).writePos := (h ⟨p, some data⟩ (by rw [hbuf]; rfl)).resolve_right (Option.some_ne_none data)
      rw [startWrite_writing idle hst hpart hbuf, if_neg apart]

theorem startWrite_past (hst : (getBay s b).state = .writing) (hpart : (jobParts s b).length < (getBay s b).writePos.part) :
    startWrite b s = enterVerifying b s := by
  simp only [startWrite, idle, hst, Option.isSome_none, Bool.false_eq_true, if_false, if_pos hpart]

/-- In VERIFYING, with no data block to rewrite or that block not yet delivered, the bay writes nothing (R85). -/
theorem startWrite_reading (hst : (getBay s b).state = .verifying) (h : (getBay s b).rewriteMark = none ∨ (getBay s b).phase ≠ some .data ∨
    ∀ f, (getBay s b).buffer.head? = some f → f.data = none) : startWrite b s = s := by
  simp only [startWrite, idle, hst, Option.isSome_none, Bool.false_eq_true, if_false]
  split
  · rename_i hmark hphase hbuf
    rw [hmark, hphase, hbuf] at h
    simp at h
  · rfl

end

/-- A bay in VERIFYING that reads back a block of the data, or none (R83, R84). -/
def verifyingFrom (b : BayId) (s : State) (block : Option Nat) : State :=
  s.withBay b { getBay s b with state := .verifying, buffer := [], phase := some .data, readBack := block }

section
variable {s : State} {b : BayId}

theorem enterVerifying_block {e : CheckEntry} (h : entryFrom (getBay s b).checkList 16 = some e) :
    enterVerifying b s = verifyingFrom b s (some e.block) := by
  simp only [enterVerifying, h, updateBay_eq, getBay_withBay, Option.map_some, Option.isNone_some, Bool.false_eq_true, if_false]
  rfl

theorem enterVerifying_none (h : entryFrom (getBay s b).checkList 16 = none) :
    enterVerifying b s = enterDirectory b (verifyingFrom b s none) := by
  simp only [enterVerifying, h, updateBay_eq, getBay_withBay, Option.map_none, Option.isNone_none, if_true]
  rfl

theorem entryFrom_eq_none_iff {l : List CheckEntry} {block : Nat} : entryFrom l block = none ↔ ∀ e ∈ l, e.block < block := by
  simp [entryFrom]

end

/-! ## A pause (R81, R98) -/

theorem pauseBay_eq (b : BayId) (from_ : PausedFrom) (s : State) : pauseBay b from_ s = (s.withoutFeed b).withBay b { getBay s b with
    state := .paused
    pausedFrom := some from_
    ackTimer := none
    buffer := (getBay s b).buffer.filter fun f => f.data ≠ none
    fetchPos :=
      match (getBay s b).buffer.find? fun f => f.data = none with
      | some f => if from_ = .writing then f.pos else (getBay s b).fetchPos
      | none => (getBay s b).fetchPos } := by
  have undelivered := find?_of_iff (test := fun f : FeedBlock => f.data.isNone) (fun _ => Option.isNone_iff_eq_none) (getBay s b).buffer
  have delivered := filter_of_iff (test := fun f : FeedBlock => f.data.isSome) (fun _ => Option.isSome_iff_ne_none) (getBay s b).buffer
  rw [← undelivered, ← delivered, pauseBay, discardGrant_eq]
  rfl

/-- Settles O42: the positions, the check list, and what `startWrite` and `pauseBay` do, by the bay's state. -/
theorem writeOrderAndPause : Obligations.WriteOrderAndPause := by
  unfold Obligations.WriteOrderAndPause
  refine ⟨fun parts p q h => ⟨nextPos_within h, nextPos_end h, rfl⟩, fun l block crc => ⟨recordWrite_new crc, recordWrite_again crc⟩,
    fun s b => ⟨startWrite_awaiting, fun idle hst => ⟨fun hpart => ⟨fun data rest hbuf => ?_, startWrite_waits idle hst hpart⟩, fun hpart => ?_⟩,
      fun idle hst => ⟨fun block f data rest hmark hphase hbuf hdata => ?_, startWrite_reading idle hst⟩, startWrite_elsewhere,
      fun from_ => pauseBay_eq b from_ s⟩⟩
  · rw [startWrite_writing idle hst hpart hbuf, if_pos rfl, beginWrite_eq]
  · rw [startWrite_past idle hst hpart]
    exact ⟨fun e he => enterVerifying_block he, fun h => enterVerifying_none (entryFrom_eq_none_iff.2 h)⟩
  · obtain ⟨p, _⟩ := f
    obtain rfl := hdata
    rw [startWrite_verifying idle hst hphase hmark hbuf, beginWrite_eq]

/-! ## A fill block (R79) -/

theorem isOccupied_iff (s : State) (k : TitleKey) (block : Nat) :
    isOccupied s k block = true ↔ ∃ e, findTitle s k = some e ∧ block ∈ e.occupied := by
  cases h : findTitle s k <;> simp [isOccupied, h]

theorem restsOnFill_iff {s : State} {b : BayId} {p : Part} (hp : partAt (jobParts s b) (getBay s b).writePos = some p) :
    restsOnFill s b = true ↔ (getBay s b).state = .writing ∧ (getBay s b).ackTimer = none ∧
      ∀ e, findTitle s p.key = some e → p.first + (getBay s b).writePos.block ∉ e.occupied := by
  simp [restsOnFill, hp, ← Bool.not_eq_true, isOccupied_iff, and_assoc]

section
variable {s : State} {b : BayId}

theorem passFill_passed (h : restsOnFill s b = true) :
    passFill b s = startWrite b (s.withBay b { getBay s b with writePos := nextPos (jobParts s b) (getBay s b).writePos }) := if_pos h

theorem passFill_other (h : ¬restsOnFill s b = true) : passFill b s = s := if_neg h

/-! ## An acknowledgement (R82, R85, R87) -/

theorem writeDone_discarded {write : Nat} (h : (getBay s b).ackTimer = none ∨ write ≠ (getBay s b).writes) : writeDone b write s = s :=
  if_pos (by rwa [Option.isNone_iff_eq_none])

/-- The acknowledgement of the write awaited, by the state of the bay. -/
theorem writeDone_settles (h : (getBay s b).ackTimer ≠ none) :
    ((getBay s b).state = .writing → writeDone b (getBay s b).writes s = ackData b s) ∧
    ((getBay s b).state = .verifying → (getBay s b).rewriteMark ≠ none → writeDone b (getBay s b).writes s = ackRewrite b s) ∧
    ((getBay s b).state = .verifying → (getBay s b).rewriteMark = none → writeDone b (getBay s b).writes s = ackDirectory b s) := by
  have awaited : ¬((getBay s b).ackTimer.isNone = true ∨ (getBay s b).writes ≠ (getBay s b).writes) := by simpa using h
  refine ⟨fun hst => ?_, fun hst hmark => ?_, fun hst hmark => ?_⟩
  · simp only [writeDone, if_neg awaited, hst]
  · simp only [writeDone, if_neg awaited, hst, if_pos (Option.isSome_iff_ne_none.2 hmark)]
  · simp only [writeDone, if_neg awaited, hst, hmark, Option.isSome_none, Bool.false_eq_true, if_false]

theorem ackDirectory_next (h : directoryWritten (getBay s b) < 16) : ackDirectory b s =
    if s.supply = .low then pauseBay b .verifying (s.withBay b (settled (getBay s b)))
    else writeDirectory b (s.withBay b (settled (getBay s b))) := by
  simp only [ackDirectory, decide_eq_false (Nat.not_le.2 h), Bool.false_eq_true, if_false]
  rfl

theorem ackDirectory_last (h : 16 ≤ directoryWritten (getBay s b)) : ackDirectory b s =
    if s.supply = .low then pauseBay b .verifying (s.withBay b { settled (getBay s b) with readBack := some 0 })
    else s.withBay b { settled (getBay s b) with readBack := some 0 } := by
  simp only [ackDirectory, decide_eq_true h, if_true]
  rfl

/-! ## An expiry (R82) -/

theorem ackLate_idle (h : (getBay s b).ackTimer = none) : ackLate b s = s := if_pos (Option.isNone_iff_eq_none.2 h)

/-- The expiry of the write awaited: the first one writes again, the second is a fault. -/
theorem ackLate_expired (h : (getBay s b).ackTimer ≠ none) :
    ((getBay s b).state = .writing → (getBay s b).retry = 0 → ackLate b s = retryWrite b .writing s) ∧
    ((getBay s b).state = .verifying → (getBay s b).retry = 0 → ackLate b s = retryWrite b .verifying s) ∧
    ((getBay s b).state = .writing ∨ (getBay s b).state = .verifying → (getBay s b).retry ≠ 0 → ackLate b s = faultBay b .ackTimeout s) := by
  have awaited : ¬(getBay s b).ackTimer.isNone = true := by simpa using h
  refine ⟨fun hst first => ?_, fun hst first => ?_, fun hst second => ?_⟩
  · simp only [ackLate, if_neg awaited, hst, if_pos first]
  · simp only [ackLate, if_neg awaited, hst, if_pos first]
  · rcases hst with hst | hst <;> simp only [ackLate, if_neg awaited, hst, if_neg second]

end

/-- Settles O43: the acknowledgement and the expiry of the write awaited by the bay's state, the fill block by the part that it is of. -/
theorem writesAreSettled : Obligations.WritesAreSettled := by
  unfold Obligations.WritesAreSettled
  intro s b power x acked late on settled
  have acknowledged : ∀ n, exec (.writeAcknowledged ⟨b, n⟩) s = .next (writeDone b n s).stamped := fun n => event_powered _ power
  have acked_of : ∀ {t}, writeDone b x.writes s = t → acked t := by
    rintro _ rfl
    exact acknowledged x.writes
  have late_of : ∀ {t}, ackLate b s = t → late t := by
    rintro _ rfl
    exact event_powered _ power
  have passed : exec (.fillBlockPassed b) s = .next (passFill b s).stamped := event_powered _ power
  refine ⟨fun idle => ⟨acked_of (writeDone_discarded (.inl idle)), late_of (ackLate_idle idle)⟩, fun write other => ?_, fun awaited => ?_,
    fun p hp => ?_⟩
  · rw [acknowledged, writeDone_discarded (.inr other)]
  · obtain ⟨data, rewrite, directory⟩ := writeDone_settles awaited
    obtain ⟨again, againVerifying, fault⟩ := ackLate_expired awaited
    exact ⟨fun hst => ⟨acked_of (data hst), fun first => late_of (again hst first)⟩,
      fun hst => ⟨fun hmark => acked_of (rewrite hst hmark),
        fun hmark => ⟨fun more => acked_of ((directory hst hmark).trans (ackDirectory_next more)),
          fun last => acked_of ((directory hst hmark).trans (ackDirectory_last last))⟩,
        fun first => late_of (againVerifying hst first)⟩,
      fun hst second => late_of (fault hst second)⟩
  · rw [passed]
    refine ⟨fun hst idle fill => ?_, fun h => ?_⟩
    · rw [passFill_passed ((restsOnFill_iff hp).2 ⟨hst, idle, fill⟩)]
    · have none : ¬restsOnFill s b = true := fun rests => by
        obtain ⟨hst, idle, fill⟩ := (restsOnFill_iff hp).1 rests
        rcases h with h | h | h
        · exact h hst
        · exact h idle
        · exact h fill
      rw [passFill_other none]

end Sys2Proof.Machine
end

section
/-! SUPPORT. Read-backs: the entry that is read back, a block that passes, a block that differs (R84, R85, R87; O44). -/

namespace Sys2Proof.Machine

/-! ## The entry read back (R84) -/

theorem readingBack_none {x : Bay} (h : x.state ≠ .verifying ∨ x.rewriteMark ≠ none ∨ x.ackTimer ≠ none ∨ x.readBack = none) :
    readingBack x = none := by
  unfold readingBack
  split
  · obtain ⟨hst, hmark, hack⟩ := ‹_ ∧ _ ∧ _›
    have unread : x.readBack = none := ((h.resolve_left (not_not.2 hst)).resolve_left (not_not.2 hmark)).resolve_left (not_not.2 hack)
    rw [unread]
    rfl
  · rfl

theorem readingBack_entry {x : Bay} (hst : x.state = .verifying) (hmark : x.rewriteMark = none) (hack : x.ackTimer = none) {n : Nat}
    {e : CheckEntry} (hn : x.readBack = some n) (he : x.checkList.find? (fun e => e.block = n) = some e) : readingBack x = some e := by
  rw [readingBack, if_pos ⟨hst, hmark, hack⟩, hn, Option.bind_some, ← he]
  exact find?_of_iff (fun _ => beq_iff_eq) _

/-- The check list with the entries of a block changed. -/
theorem replace_block (block : Nat) (f : CheckEntry → CheckEntry) (l : List CheckEntry) :
    replace (·.block == block) f l = l.map fun e => if e.block = block then f e else e := by
  simp only [replace, beq_iff_eq]

section
variable {s : State} {b : BayId}

theorem readBackData_none (h : readingBack (getBay s b) = none) (data : List Byte) : readBackData b data s = s := by
  simp only [readBackData, h]

theorem readBackLate_none (h : readingBack (getBay s b) = none) : readBackLate b s = s := by simp only [readBackLate, h]

variable {e : CheckEntry} (h : readingBack (getBay s b) = some e)
include h

theorem readBackData_equal {data : List Byte} (eq : crc16 data = e.crc) : readBackData b data s = blockPassed b e s := by
  simp only [readBackData, h, if_pos eq]

theorem readBackData_differs {data : List Byte} (ne : crc16 data ≠ e.crc) : readBackData b data s = blockDiffers b e s := by
  simp only [readBackData, h, if_neg ne]

theorem readBackLate_differs : readBackLate b s = blockDiffers b e s := by simp only [readBackLate, h]

end

/-! ## A block passes (R84, R86, R87) -/

/-- The bay with a block marked as passed (R84, log 15). -/
def Bay.withPassed (x : Bay) (block : Nat) : Bay :=
  { x with checkList := x.checkList.map fun f => if f.block = block then { f with passed := true } else f }

/-- A mark in an entry leaves the blocks of the check list. -/
theorem forall_withPassed {x : Bay} {block : Nat} {P : Nat → Prop} :
    (∀ f ∈ (x.withPassed block).checkList, P f.block) ↔ ∀ f ∈ x.checkList, P f.block := by
  have blocks : ∀ f : CheckEntry, (if f.block = block then { f with passed := true } else f).block = f.block := fun f => by split <;> rfl
  simp only [Bay.withPassed, List.forall_mem_map, blocks]

section
variable {s : State} {b : BayId} {e : CheckEntry}

theorem blockPassed_eq : blockPassed b e s = readNext b e.block (s.withBay b ((getBay s b).withPassed e.block)) := by
  rw [blockPassed, updateBay_eq, replace_block]
  rfl

theorem blockPassed_last (phase : (getBay s b).phase = some .directory) (last : e.block = 15) :
    blockPassed b e s = finishBay b (s.withBay b ((getBay s b).withPassed e.block)) := by
  rw [blockPassed_eq, readNext, getBay_withBay]
  exact if_pos ⟨phase, last⟩

variable (more : (getBay s b).phase ≠ some .directory ∨ e.block ≠ 15)
include more

theorem blockPassed_next {f : CheckEntry} (h : entryFrom ((getBay s b).withPassed e.block).checkList (e.block + 1) = some f) :
    blockPassed b e s = s.withBay b { (getBay s b).withPassed e.block with readBack := some f.block } := by
  have notLast : ¬(((getBay s b).withPassed e.block).phase = some .directory ∧ e.block = 15) := not_and_or.2 more
  simp only [blockPassed_eq, readNext, getBay_withBay, if_neg notLast, h, updateBay_eq, withBay_withBay]

theorem blockPassed_directory (h : ∀ f ∈ (getBay s b).checkList, f.block ≤ e.block) :
    blockPassed b e s = enterDirectory b (s.withBay b ((getBay s b).withPassed e.block)) := by
  have notLast : ¬(((getBay s b).withPassed e.block).phase = some .directory ∧ e.block = 15) := not_and_or.2 more
  have none : entryFrom ((getBay s b).withPassed e.block).checkList (e.block + 1) = none :=
    entryFrom_eq_none_iff.2 ((forall_withPassed (P := (· < e.block + 1))).2 fun f hf => Nat.lt_succ_of_le (h f hf))
  simp only [blockPassed_eq, readNext, getBay_withBay, if_neg notLast, none]

end

/-! ## A block differs (R85, R87, R98) -/

/-- The bay with a block marked for rewrite, its rewrite count raised (R85). -/
def Bay.withMark (x : Bay) (block : Nat) : Bay :=
  { x with
    rewriteMark := some block
    checkList := x.checkList.map fun f => if f.block = block then { f with rewrites := f.rewrites + 1 } else f }

theorem markRewrite_eq (e : CheckEntry) (x : Bay) : markRewrite e x = x.withMark e.block := by
  rw [markRewrite, replace_block]
  rfl

section
variable {s : State} {b : BayId} {e : CheckEntry}

theorem blockDiffers_third (h : 2 ≤ e.rewrites) : blockDiffers b e s = faultBay b .verify s := if_pos h

variable (h : e.rewrites < 2)
include h

theorem blockDiffers_low (low : s.supply = .low) :
    blockDiffers b e s = pauseBay b .verifying (s.withBay b ((getBay s b).withMark e.block)) := by
  simp only [blockDiffers, if_neg (Nat.not_le.2 h), low, if_true, updateBay_eq, markRewrite_eq]

theorem blockDiffers_data (normal : s.supply = .normal) (data : (getBay s b).phase ≠ some .directory) :
    blockDiffers b e s = s.withBay b ((getBay s b).withMark e.block) := by
  simp only [blockDiffers, if_neg (Nat.not_le.2 h), normal, reduceCtorEq, if_false, if_neg data, updateBay_eq, markRewrite_eq]

theorem blockDiffers_directory (normal : s.supply = .normal) (directory : (getBay s b).phase = some .directory) :
    blockDiffers b e s = writeDirectoryBlock b e.block (s.withBay b ((getBay s b).withMark e.block)) := by
  simp only [blockDiffers, if_neg (Nat.not_le.2 h), normal, reduceCtorEq, if_false, directory, if_true, updateBay_eq, markRewrite_eq]

end

/-- Settles O44: the entry read back, and then its pass or its mismatch by the phase, the supply and the rewrite count. -/
theorem readBackOutcomes : Obligations.ReadBackOutcomes := by
  unfold Obligations.ReadBackOutcomes
  intro s b power x
  have done : ∀ data, exec (.readBackDone b data) s = .next (readBackData b data s).stamped := fun data => event_powered _ power
  have late : exec (.readBackTimeout b) s = .next (readBackLate b s).stamped := event_powered _ power
  refine ⟨fun h => ?_, fun hst hmark hack n e hn he => ⟨fun data eq => ?_, ?_⟩⟩
  · have none := readingBack_none h
    rw [late, readBackLate_none none]
    exact ⟨rfl, fun data => by rw [done, readBackData_none none]⟩
  · have entry := readingBack_entry hst hmark hack hn he
    rw [done, readBackData_equal entry eq]
    refine ⟨fun phase last => ?_, fun more => ⟨fun f hf => ?_, fun h => ?_⟩⟩
    · rw [blockPassed_last phase last]
      rfl
    · rw [blockPassed_next more hf]
      rfl
    · rw [blockPassed_directory more h]
      rfl
  · have entry := readingBack_entry hst hmark hack hn he
    intro mismatch marked
    have mismatch_of : ∀ {t}, blockDiffers b e s = t → mismatch t := by
      rintro _ rfl
      exact ⟨by rw [late, readBackLate_differs entry], fun data ne => by rw [done, readBackData_differs entry ne]⟩
    exact ⟨fun third => mismatch_of (blockDiffers_third third), fun h => ⟨fun low => mismatch_of (blockDiffers_low h low),
      fun normal data => mismatch_of (blockDiffers_data h normal data),
      fun normal directory => mismatch_of (blockDiffers_directory h normal directory)⟩⟩

end Sys2Proof.Machine
end

section
/-! SUPPORT. The Rack Supply Monitor: the samples, what LOW and NORMAL do to a bay, the 300 s of a LOW period (R97 to R101; O47). -/

namespace Sys2Proof.Machine

/-! ## The samples (R97) -/

theorem against_iff (s : State) (mv : Nat) : against s mv = true ↔ (s.supply = .normal ∧ mv < 10800 + 200 * s.supplyLevel) ∨
    (s.supply = .low ∧ 10800 + 200 * s.supplyLevel + 200 < mv) := by
  cases h : s.supply with
  | normal =>
    simp only [against, h, decide_eq_true_iff, true_and, reduceCtorEq, false_and, or_false]
    exact Iff.rfl
  | low =>
    simp only [against, h, decide_eq_true_iff, true_and, reduceCtorEq, false_and, false_or]
    exact Iff.rfl

/-- The supply becomes LOW, as the statement writes it (R97, R98). -/
theorem becomeLow_eq (s : State) : becomeLow s = (bayIds.foldl lowBay { s with
    supply := .low
    supplyCount := 0
    lowTimer := 0
    abandoned := false }).noted .supplyLow := markChanged_noted _ _

/-- The supply becomes NORMAL, as the statement writes it (R97, R100). -/
theorem becomeNormal_eq (s : State) : becomeNormal s = (bayIds.foldl resumeBay { s with
    supply := .normal
    supplyCount := 0
    lowTimer := 0 }).noted .supplyLow := markChanged_noted _ _

theorem changeSupply_eq (s : State) : changeSupply s = if s.supply = .normal then becomeLow s else becomeNormal s := by
  cases h : s.supply <;> simp [changeSupply, h]

section
variable {s : State} {mv : Nat}

theorem sampleSupply_clears (h : ¬against s mv = true) : sampleSupply mv s = { s with supplyCount := 0 } := if_neg h

theorem sampleSupply_counts (h : against s mv = true) (first : s.supplyCount = 0) : sampleSupply mv s = { s with supplyCount := 1 } := by
  rw [sampleSupply, if_pos h, if_neg (by omega), first]

theorem sampleSupply_changes (h : against s mv = true) (second : 1 ≤ s.supplyCount) : sampleSupply mv s = changeSupply s := by
  rw [sampleSupply, if_pos h, if_pos second]

theorem secondAgainst_iff (from_ : Supply) : secondAgainst from_ mv s = true ↔ s.supply = from_ ∧ against s mv = true ∧ 1 ≤ s.supplyCount := by
  simp [secondAgainst, and_assoc]

/-- A sample that is not the second in a row against the threshold is no SUPPLY_LOW and no SUPPLY_NORMAL (log 2). -/
theorem secondAgainst_neither (h : ¬against s mv = true ∨ s.supplyCount = 0) (from_ : Supply) : ¬secondAgainst from_ mv s = true := by
  rw [secondAgainst_iff]
  rintro ⟨-, ag, second⟩
  rcases h with h | h
  · exact h ag
  · omega

theorem exec_supplyLow (power : s.power = true) :
    exec (.supplyLow mv) s = .next (if secondAgainst .normal mv s then becomeLow s else s).stamped := event_powered _ power

theorem exec_supplyNormal (power : s.power = true) :
    exec (.supplyNormal mv) s = .next (if secondAgainst .low mv s then becomeNormal s else s).stamped := event_powered _ power

end

/-! ## A long LOW period (R101) -/

theorem abandonBay_eq (t : State) (b : BayId) : abandonBay t b = giveBack b
    ((t.withCart (getBay t b).occupant fun c => { c with entry := some .fouled }).withBay b
      { (getBay t b).quiet with checkList := [], pausedFrom := some .wiping }) := by
  rw [abandonBay, updateBay_setEntry]
  rfl

theorem abandonable_iff (s : State) (b : BayId) : abandonable s b = true ↔ (getBay s b).state = .paused ∧ (getBay s b).job ≠ none := by
  simp [abandonable, Option.isSome_iff_ne_none]

theorem lowTooLong_other {s : State} (h : s.supply = .normal ∨ s.abandoned = true) : lowTooLong s = s := by
  refine if_neg ?_
  rintro ⟨low, fresh⟩
  rcases h with h | h
  · rw [low] at h
    cases h
  · rw [fresh] at h
    cases h

theorem lowTooLong_abandons {s : State} (low : s.supply = .low) (fresh : s.abandoned = false) : lowTooLong s =
    (bayIds.filter fun b => (getBay s b).state = .paused ∧ (getBay s b).job ≠ none).foldl abandonBay
      { s with abandoned := true, lowTimer := 300000 } := by
  rw [lowTooLong, if_pos ⟨low, fresh⟩, filter_of_iff (abandonable_iff s)]

/-! ## What LOW does to a bay (R98) -/

section
variable {s : State} {b : BayId}

theorem lowBay_wiping (h : (getBay s b).state = .wiping) : lowBay s b = pauseBay b .wiping s := by simp only [lowBay, h]

theorem lowBay_writing (h : (getBay s b).state = .writing) :
    lowBay s b = if (getBay s b).ackTimer = none then pauseBay b .writing s else s := by
  simp only [lowBay, h, Option.isNone_iff_eq_none]

theorem lowBay_verifying (h : (getBay s b).state = .verifying) :
    lowBay s b = if (getBay s b).ackTimer = none ∧ (getBay s b).rewriteMark ≠ none then pauseBay b .verifying s else s := by
  simp only [lowBay, h, Bool.and_eq_true, Option.isNone_iff_eq_none, Option.isSome_iff_ne_none]

theorem lowBay_other (h1 : (getBay s b).state ≠ .wiping) (h2 : (getBay s b).state ≠ .writing) (h3 : (getBay s b).state ≠ .verifying) :
    lowBay s b = s := by
  unfold lowBay
  dsimp only
  split
  case h_4 => rfl
  all_goals contradiction

/-! ## A bay resumes (R100) -/

theorem resumeBay_other (h : (getBay s b).state ≠ .paused) : resumeBay s b = s := if_neg h

section
variable (h : (getBay s b).state = .paused)
include h

theorem resumeBay_wiping (hp : (getBay s b).pausedFrom = some .wiping) : resumeBay s b = enterWiping b s := by
  simp only [resumeBay, h, hp, if_true]

theorem resumeBay_writing (hp : (getBay s b).pausedFrom = some .writing) :
    resumeBay s b = startWrite b (s.withBay b { getBay s b with state := .writing, pausedFrom := none }) := by
  simp only [resumeBay, h, hp, if_true, updateBay_eq]

theorem resumeBay_verifying (hp : (getBay s b).pausedFrom = some .verifying) :
    resumeBay s b = resumeVerifying b (s.withBay b { getBay s b with state := .verifying, pausedFrom := none }) := by
  simp only [resumeBay, h, hp, if_true, updateBay_eq]

end

/-- A block marked for rewrite: a directory block is written at once, a data block when it has come (R85, R87, R100). -/
theorem resumeVerifying_marked {block : Nat} (h : (getBay s b).rewriteMark = some block) : resumeVerifying b s =
    if (getBay s b).phase = some .directory then writeDirectoryBlock b block s else startWrite b s := by
  cases hp : (getBay s b).phase with
  | none => simp [resumeVerifying, h, hp]
  | some phase => cases phase <;> simp [resumeVerifying, h, hp]

theorem resumeVerifying_unmarked (h : (getBay s b).rewriteMark = none) : resumeVerifying b s =
    if (getBay s b).phase = some .directory ∧ (getBay s b).readBack = none then writeDirectory b s else s := by
  cases hp : (getBay s b).phase with
  | none => simp [resumeVerifying, h, hp]
  | some phase => cases phase <;> simp [resumeVerifying, h, hp]

/-! ## A bay gives back its job (R63) -/

theorem withBay_getBay (s : State) (b : BayId) : s.withBay b (getBay s b) = s := by
  simp [State.withBay, getBay]

theorem giveBack_held {n : Nat} (hj : (getBay s b).job = some n) (hn : findJob s n ≠ none) :
    giveBack b s = offerJob n ((s.withBay b { getBay s b with job := none }).requeued n) := by
  rw [← giveBack_offered b s hj hn, withBay_getBay]

end

/-- Settles O47: the samples, the 300 s, and then each bay by its state. -/
theorem supplyFollowsItsSamples : Obligations.SupplyFollowsItsSamples := by
  unfold Obligations.SupplyFollowsItsSamples
  intro s mv power falling beyond low normal
  have sampled : exec (.supplySample mv) s = .next (sampleSupply mv s).stamped := event_powered _ power
  have late : exec .lowDurationTimeout s = .next (lowTooLong s).stamped := event_powered _ power
  have isBeyond : against s mv = true ↔ beyond := against_iff s mv
  have becomesLow : becomeLow s = low := becomeLow_eq s
  have becomesNormal : becomeNormal s = normal := becomeNormal_eq s
  refine ⟨fun h => ?_, fun h first => ?_, fun h second => ?_, fun h second hs => ?_, fun h second hs => ?_, fun h => ?_, fun h => ?_,
    fun hlow fresh => ?_, fun b => ?_⟩
  · rw [sampled, sampleSupply_clears (isBeyond.not.2 h)]
  · rw [sampled, sampleSupply_counts (isBeyond.2 h) first]
  · rw [sampled, sampleSupply_changes (isBeyond.2 h) second, changeSupply_eq, becomesLow, becomesNormal]
  · rw [exec_supplyLow power, if_pos ((secondAgainst_iff .normal).2 ⟨hs, isBeyond.2 h, second⟩), becomesLow]
  · rw [exec_supplyNormal power, if_pos ((secondAgainst_iff .low).2 ⟨hs, isBeyond.2 h, second⟩), becomesNormal]
  · have neither := secondAgainst_neither (h.imp_left isBeyond.not.2)
    rw [exec_supplyLow power, exec_supplyNormal power, if_neg (neither .normal), if_neg (neither .low)]
    exact ⟨rfl, rfl⟩
  · rw [late, lowTooLong_other h]
  · rw [late, lowTooLong_abandons hlow fresh, funext fun t => funext (abandonBay_eq t)]
  · exact ⟨lowBay_wiping, lowBay_writing, lowBay_verifying, lowBay_other, resumeBay_other, resumeBay_wiping, resumeBay_writing, resumeBay_verifying,
      fun block hm => ⟨fun hp => (resumeVerifying_marked hm).trans (if_pos hp), fun hp => (resumeVerifying_marked hm).trans (if_neg hp)⟩,
      fun hm => ⟨fun hp hr => (resumeVerifying_unmarked hm).trans (if_pos ⟨hp, hr⟩),
        fun h => (resumeVerifying_unmarked hm).trans (if_neg (not_and_or.2 h))⟩,
      fun n => giveBack_held⟩

end Sys2Proof.Machine
end

section
/-! SUPPORT. The withdrawals by the Host: the two requests read back from their frames, and what their rules answer (R115, R121; O49). -/

namespace Sys2Proof.Machine

/-! ## The requests -/

section
variable {s t : State} {tag : Byte} {data : List Byte} {n : Nat}

theorem exec_cartridgeWithdraw (h : n < 4294967296) (hs : canServe ⟨0x41, tag, bodyOf [(4, n)]⟩ s = true)
    (ha : cartridgeWithdrawRule n s = (t, data)) : exec (.cartridgeWithdraw tag (bodyOf [(4, n)])) s = .next (t.replied 0xC1 tag data) :=
  exec_answered (rule := cartridgeWithdrawRule (field _ 0 4)) rfl (by rw [field_head h]) rfl (by simp [bodyLengthOk]) rfl hs ha

theorem exec_copyWithdraw (h : n < 16777216) (hs : canServe ⟨0x29, tag, bodyOf [(3, n)]⟩ s = true)
    (ha : copyWithdrawRule n s = (t, data)) : exec (.copyWithdraw tag (bodyOf [(3, n)])) s = .next (t.replied 0xA9 tag data) :=
  exec_answered (rule := copyWithdrawRule (field _ 0 3)) rfl (by rw [field_head h]) rfl (by simp [bodyLengthOk]) rfl hs ha

end

/-! ## CARTRIDGE WITHDRAW (R104, R115) -/

theorem withdrawable_iff (x : CartState) :
    withdrawable x = true ↔ x = .blank ∨ x = .returned ∨ x = .fouled ∨ x = .quarantined := by
  simp [withdrawable, or_assoc]

section
variable {s : State} {n : Nat}

theorem cartridgeWithdrawRule_unknown (pos : n ≠ 0) (h : findCart s n = none) : cartridgeWithdrawRule n s = (s, [0x02]) := by
  rw [cartridgeWithdrawRule, if_neg pos, h]
  rfl

theorem cartridgeWithdrawRule_held {c : Cartridge} (pos : n ≠ 0) (h : findCart s n = some c) : cartridgeWithdrawRule n s =
    if withdrawable c.state = true then (s.withCart (some n) fun r => { r with state := .withdrawn }, [0x00]) else (s, [0x04]) := by
  rw [cartridgeWithdrawRule, if_neg pos, h, ← updateCart_eq]
  rfl

/-! ## COPY WITHDRAW (R121) -/

/-- Of the numbers that a field of three bytes holds, only 0 is no copy id (R118). -/
theorem copyId_inRange (hn : n < 16777216) (pos : n ≠ 0) : ¬(n < 1 ∨ maxCopy < n) := by
  simp only [maxCopy]
  omega

theorem copyWithdrawRule_unknown (hn : n < 16777216) (pos : n ≠ 0) (h : findCopy s n = none) : copyWithdrawRule n s = (s, [0x02]) := by
  rw [copyWithdrawRule, if_neg (copyId_inRange hn pos), h]
  rfl

theorem copyWithdrawRule_held {c : Copy} (hn : n < 16777216) (pos : n ≠ 0) (h : findCopy s n = some c) : copyWithdrawRule n s =
    if c.state = .shelf then (s.withCopy n fun r => { r with state := .withdrawn }, [0x00]) else (s, [0x04]) := by
  rw [copyWithdrawRule, if_neg (copyId_inRange hn pos), h, ← updateCopy_eq]
  rfl

end

/-- Settles O49: each request by its rule, for the number 0, a number without a record, and a record by its state. -/
theorem withdrawalsByTheHost : Obligations.WithdrawalsByTheHost := by
  unfold Obligations.WithdrawalsByTheHost
  refine fun s tag n => ⟨fun hn hs => ⟨fun zero => ?_, fun pos none => ?_, fun c pos hc => ⟨fun free => ?_, fun busy => ?_⟩⟩,
    fun hn hs => ⟨fun zero => ?_, fun pos none => ?_, fun c pos hc => ⟨fun shelf => ?_, fun busy => ?_⟩⟩⟩
  · exact exec_cartridgeWithdraw hn hs (if_pos zero)
  · exact exec_cartridgeWithdraw hn hs (cartridgeWithdrawRule_unknown pos none)
  · exact exec_cartridgeWithdraw hn hs ((cartridgeWithdrawRule_held pos hc).trans (if_pos ((withdrawable_iff _).2 free)))
  · exact exec_cartridgeWithdraw hn hs ((cartridgeWithdrawRule_held pos hc).trans (if_neg (mt (withdrawable_iff _).1 busy)))
  · exact exec_copyWithdraw hn hs (if_pos (.inl (Nat.lt_one_iff.2 zero)))
  · exact exec_copyWithdraw hn hs (copyWithdrawRule_unknown hn pos none)
  · exact exec_copyWithdraw hn hs ((copyWithdrawRule_held hn pos hc).trans (if_pos shelf))
  · exact exec_copyWithdraw hn hs ((copyWithdrawRule_held hn pos hc).trans (if_neg busy))

end Sys2Proof.Machine
end

section
/-! SUPPORT. COPY ENTER and hold service: the holder that is chosen, and what a copy's going to that holder changes (R119 to R125; O50). -/

namespace Sys2Proof.Machine

/-! ## The holder chosen (R122, R123) -/

theorem qualifies_iff (s : State) (n : Nat) :
    qualifies s n = true ↔ ∃ p, findPatron s n = some p ∧ p.state = .active ∧ p.commCopies < p.embAllow := by
  unfold qualifies
  cases findPatron s n <;> simp [embHeadroom]

theorem holdQueue_eq (s : State) (title : Nat) : holdQueue s title = s.holds.filter fun g => g.title = title :=
  filter_of_iff (fun _ => beq_iff_eq) _

/-- The entry that hold service serves: the oldest of the title's whose patron qualifies. -/
def chosenHold (s : State) (title : Nat) : Option Hold := (holdQueue s title).find? fun h => qualifies s h.patron

theorem chosenHold_none {s : State} {title : Nat} (unable : ∀ h ∈ s.holds, h.title = title → ¬qualifies s h.patron = true) :
    chosenHold s title = none := by
  rw [chosenHold, List.find?_eq_none, holdQueue_eq]
  intro h mem
  obtain ⟨held, same⟩ := List.mem_filter.1 mem
  exact unable h held (of_decide_eq_true same)

theorem chosenHold_first {s : State} {title : Nat} {before behind : List Hold} {h : Hold}
    (split : s.holds.filter (fun g => g.title = title) = before ++ h :: behind) (passed : ∀ g ∈ before, ¬qualifies s g.patron = true)
    (able : qualifies s h.patron = true) : chosenHold s title = some h := by
  rw [chosenHold, List.find?_eq_some_iff_append, holdQueue_eq]
  exact ⟨able, before, behind, split, fun g hg => by simpa using passed g hg⟩

/-! ## The shipment that takes the copy (R124) -/

section
variable {s : State} {p : Patron}

theorem takingShipment_open {sh : Shipment} (hn : p.shipment = some sh.number) (hf : findShipment s sh.number = some sh)
    (open_ : sh.state = .assembling ∨ sh.state = .ready) : takingShipment s p = some sh := by
  have found : p.shipment.bind (findShipment s) = some sh := by rw [hn, Option.bind_some, hf]
  have test : (sh.state == .assembling || sh.state == .ready) = true := by simpa using open_
  simp only [takingShipment, found, test, if_true]

theorem takingShipment_none (shut : ∀ n sh, p.shipment = some n → findShipment s n = some sh → sh.state = .packing ∨ sh.state = .sealed) :
    takingShipment s p = none := by
  cases found : p.shipment.bind (findShipment s) with
  | none => simp only [takingShipment, found]
  | some sh =>
    obtain ⟨n, hn, hf⟩ := Option.bind_eq_some_iff.1 found
    have test : (sh.state == .assembling || sh.state == .ready) = false := by
      rcases shut n sh hn hf with h | h <;> rw [h] <;> rfl
    simp only [takingShipment, found, test, Bool.false_eq_true, if_false]

end

/-! ## What the holder's getting the copy changes (R123 to R125) -/

/-- Two changes of a patron are one. -/
theorem withPatron_withPatron (s : State) (n : Nat) {f : Patron → Patron} (keep : ∀ p, (f p).number = p.number) (g : Patron → Patron) :
    (s.withPatron n f).withPatron n g = s.withPatron n fun p => g (f p) := by
  simp only [State.withPatron, List.map_map]
  congr 1
  refine List.map_congr_left fun p _ => ?_
  by_cases h : p.number = n <;> simp [h, keep]

/-- A patron's entry for a copy's title served: the entry gone, one copy more committed, the copy and the list item in their new states. -/
def handedTo (c : Copy) (n : Nat) (x : CopyState) (sh : Option Nat) (i : ItemState) (s : State) : State :=
  (State.withCopy { s with holds := s.holds.filter fun g => ¬(g.title = c.title ∧ g.patron = n) } c.id fun d =>
    { d with state := x, patron := some n, shipment := sh }).withPatron n fun q =>
      { q with
        commCopies := q.commCopies + 1
        list := q.list.map fun j => if j.title = c.title ∧ j.medium = .embossed then { j with state := i } else j }

/-- The changes of R123, with the copy's and the item's of R124 or R125 behind them, are those of `handedTo`. -/
theorem handedTo_eq (c : Copy) (n : Nat) (x : CopyState) (sh : Option Nat) (i : ItemState) (s : State) :
    updatePatron n (setItem c.title .embossed i) (updateCopy c.id (fun d => { d with state := x, patron := some n, shipment := sh })
      (updatePatron n (fun q => { q with commCopies := q.commCopies + 1 }) (dropHold c.title n s))) = handedTo c n x sh i s := by
  rw [updatePatron_eq, updatePatron_eq, updateCopy_eq, dropHold_eq]
  refine (withPatron_withPatron (State.withCopy _ _ _) n (f := fun q => { q with commCopies := q.commCopies + 1 }) (fun _ => rfl) _).trans ?_
  simp only [setItem_eq]
  rfl

section
variable {s : State} {c : Copy} (found : findCopy s c.id = some c)
include found

theorem holdService_unclaimed (unclaimed : chosenHold s c.title = none) : holdService c.id s = s := by
  simp only [chosenHold] at unclaimed
  simp only [holdService, found, unclaimed]

variable {h : Hold} {p : Patron} (chosen : chosenHold s c.title = some h) (hp : findPatron s h.patron = some p)
include chosen hp

/-- R124: the copy goes into the holder's open shipment. -/
theorem holdService_allocates {sh : Shipment} (taking : takingShipment s p = some sh) :
    holdService c.id s = State.withShipment { handedTo c p.number .allocated (some sh.number) .inShipment s with
      pickList := s.pickList ++ [c.id] } sh.number fun x => { x with copyLines := x.copyLines ++ [c.id], toScan := x.toScan + c.volumes } := by
  simp only [chosenHold] at chosen
  simp only [holdService, found, chosen, hp, taking]
  rw [← handedTo_eq, ← updateShipment_eq]
  rfl

/-- R125: the copy is set aside on SHELF for the holder, who is then appended (R34). -/
theorem holdService_reserves (shut : takingShipment s p = none) :
    holdService c.id s = appendEligible p.number ((handedTo c p.number .reserved none .reserved s).flagged .holdReserved) := by
  simp only [chosenHold] at chosen
  simp only [holdService, found, chosen, hp, shut]
  rw [reserveFor, setEvent_flagged, handedTo_eq]

end

/-- R119: the copy's fields cleared and its place in the pick list given up, before hold service looks at its title's queue. -/
theorem toShelf_eq (id : Nat) (s : State) : toShelf id s = holdService id
    { s.withCopy id fun c => { c with state := .shelf, patron := none, shipment := none } with
      pickList := s.pickList.filter fun m => m ≠ id } := by
  rw [toShelf, unpick, updateCopy_eq, filter_bne_eq]
  rfl

/-! ## COPY ENTER (R120) -/

theorem exec_copyEnter {s t : State} {tag : Byte} {data : List Byte} {id title volumes : Nat} (h1 : id < 16777216) (h2 : title < 16777216)
    (h3 : volumes < 256) (hs : canServe ⟨0x28, tag, bodyOf [(3, id), (3, title), (1, volumes)]⟩ s = true)
    (ha : copyEnterRule id title volumes s = (t, data)) :
    exec (.copyEnter tag (bodyOf [(3, id), (3, title), (1, volumes)])) s = .next (t.replied 0xA8 tag data) := by
  have f1 : field (bodyOf [(3, id), (3, title), (1, volumes)]) 0 3 = id := field_head h1 _
  have f2 : field (bodyOf [(3, id), (3, title), (1, volumes)]) 3 3 = title := by
    rw [field_skip _ (by decide)]
    exact field_head h2 _
  have f3 : field (bodyOf [(3, id), (3, title), (1, volumes)]) 6 1 = volumes := by
    iterate 2 rw [field_skip _ (by decide)]
    exact field_head h3 _
  exact exec_answered (rule := copyEnterRule (field _ 0 3) (field _ 3 3) (field _ 6 1)) rfl (by rw [f1, f2, f3]) rfl
    (by simp [bodyLengthOk]) rfl hs ha

section
variable {s : State} {id title volumes : Nat}

theorem copyEnterRule_beyond (h : id < 1 ∨ title < 1 ∨ 999999 < title ∨ volumes < 1 ∨ 12 < volumes) :
    copyEnterRule id title volumes s = statusOnly .range s :=
  if_pos (h.imp_right .inr)

variable (inRange : ¬(id < 1 ∨ maxCopy < id ∨ title < 1 ∨ maxNumber < title ∨ volumes < 1 ∨ 12 < volumes))
include inRange

/-- An id that a record has is entered again only over a WITHDRAWN copy. -/
theorem copyEnterRule_held {c : Copy} (hc : findCopy s id = some c) : copyEnterRule id title volumes s =
    if c.state = .withdrawn then okWith [] (holdService id (s.withCopy id fun _ => enteredCopy id title volumes))
    else statusOnly .duplicate s := by
  rw [copyEnterRule, if_neg inRange, hc, ← updateCopy_eq]

/-- An id that no record has takes a new one while there is room. -/
theorem copyEnterRule_new (new : findCopy s id = none) : copyEnterRule id title volumes s =
    if copyCapacity ≤ s.copies.length then statusOnly .full s
    else okWith [] (holdService id { s with copies := insertBy copyBefore (enteredCopy id title volumes) s.copies }) := by
  rw [copyEnterRule, if_neg inRange, new]

end

/-- Settles O50: COPY ENTER by its checks and the record it finds; hold service by the first entry whose patron qualifies, and that patron's shipment. -/
theorem holdServiceChoosesAHolder : Obligations.HoldServiceChoosesAHolder := by
  unfold Obligations.HoldServiceChoosesAHolder
  refine ⟨?_, fun s id => toShelf_eq id s, fun s c found => ?_⟩
  · intro s tag id title volumes h1 h2 h3 body hs reply entered
    have answer : ∀ {t status}, copyEnterRule id title volumes s = (t, [status]) → reply t status := exec_copyEnter h1 h2 h3 hs
    refine ⟨fun bad => answer (copyEnterRule_beyond bad), fun i1 t1 t2 v1 v2 => ?_⟩
    have inRange : ¬(id < 1 ∨ maxCopy < id ∨ title < 1 ∨ maxNumber < title ∨ volumes < 1 ∨ 12 < volumes) := by
      simp only [maxCopy, maxNumber]
      omega
    refine ⟨fun c hc => ⟨fun other => ?_, fun withdrawn => ?_⟩, fun new => ⟨fun full => ?_, fun room => ?_⟩⟩
    · exact answer ((copyEnterRule_held inRange hc).trans (if_neg other))
    · exact answer ((copyEnterRule_held inRange hc).trans (if_pos withdrawn))
    · exact answer ((copyEnterRule_new inRange new).trans (if_pos full))
    · obtain ⟨before, behind, split, below, above, inserted⟩ := insertBy_between Copy.id entered s.copies
      refine ⟨before, behind, split, below, above, answer ((copyEnterRule_new inRange new).trans ((if_neg (Nat.not_le.2 room)).trans ?_))⟩
      rw [show insertBy copyBefore (enteredCopy id title volumes) s.copies = _ from inserted]
      rfl
  · intro able
    have able_iff : ∀ h, qualifies s h.patron = true ↔ able h := fun h => qualifies_iff s h.patron
    refine ⟨fun unable => ?_, fun before behind h p split passed hable hp => ?_⟩
    · exact holdService_unclaimed found (chosenHold_none fun h mem same => (able_iff h).not.2 (unable h mem same))
    · have chosen : chosenHold s c.title = some h :=
        chosenHold_first split (fun g hg => (able_iff g).not.2 (passed g hg)) ((able_iff h).2 hable)
      exact ⟨fun sh hn hf open_ => holdService_allocates found chosen hp (takingShipment_open hn hf open_),
        fun shut => holdService_reserves found chosen hp (takingShipment_none shut)⟩

end Sys2Proof.Machine
end

section
/-! SUPPORT. Packing: the containers' units through every step (R134, R139; O10), and PACK SCAN: the request read back from its frame, its
refusals, the recall at the bench and the accepted scan (R137, R138, R141, R142; O51). -/

namespace Sys2Proof.Machine

/-- Settles O10: every command keeps the units of each container (`Preserves.fit`), which do not depend on the queue of commands. -/
theorem everyStepKeepsContainersFit : Obligations.EveryStepKeepsContainersFit := by
  unfold Obligations.EveryStepKeepsContainersFit
  exact fun _ _ => step_keeps (fun _ _ p => p.fit) fun _ _ => id

/-! ## The request (R137) -/

section
variable {s t : State} {tag : Byte} {data : List Byte}

/-- A body of five bytes is read in the layouts of both forms. -/
theorem exec_packScan {body : List Byte} (len : body.length = 5) (hs : canServe ⟨0x48, tag, body⟩ s = true)
    (ha : packScanRule (field body 0 1) (field body 1 4) (field body 1 3) (field body 4 1) s = (t, data)) :
    exec (.packScan tag body) s = .next (t.replied 0xC8 tag data) :=
  exec_answered (rule := packScanRule (field body 0 1) (field body 1 4) (field body 1 3) (field body 4 1)) rfl rfl rfl
    (by simp [bodyLengthOk, len]) rfl hs ha

theorem exec_packScan_form {form item : Nat} (h : form < 256) (hs : canServe ⟨0x48, tag, bodyOf [(1, form), (4, item)]⟩ s = true)
    (ha : ∀ serial id volume, packScanRule form serial id volume s = (t, data)) :
    exec (.packScan tag (bodyOf [(1, form), (4, item)])) s = .next (t.replied 0xC8 tag data) :=
  exec_packScan (by simp) hs (by rw [field_head h]; exact ha _ _ _)

variable (set : s.clock.set = true)
include set

theorem exec_packScan_cartridge {serial : Nat} (h : serial < 4294967296) (hs : canServe ⟨0x48, tag, bodyOf [(1, 1), (4, serial)]⟩ s = true)
    (ha : (if serial = 0 then statusOnly .range s else packCartridge serial s) = (t, data)) :
    exec (.packScan tag (bodyOf [(1, 1), (4, serial)])) s = .next (t.replied 0xC8 tag data) := by
  have f1 : field (bodyOf [(1, 1), (4, serial)]) 0 1 = 1 := field_head (by decide) _
  have f2 : field (bodyOf [(1, 1), (4, serial)]) 1 4 = serial := by
    rw [field_skip _ (by decide)]
    exact field_head h _
  refine exec_packScan (by simp) hs ?_
  rw [f1, f2, packScanRule, set]
  exact ha

theorem exec_packScan_volume {id volume : Nat} (h1 : id < 16777216) (h2 : volume < 256)
    (hs : canServe ⟨0x48, tag, bodyOf [(1, 2), (3, id), (1, volume)]⟩ s = true)
    (ha : (if id < 1 ∨ maxCopy < id ∨ volume < 1 ∨ 12 < volume then statusOnly .range s else packVolume id volume s) = (t, data)) :
    exec (.packScan tag (bodyOf [(1, 2), (3, id), (1, volume)])) s = .next (t.replied 0xC8 tag data) := by
  have f1 : field (bodyOf [(1, 2), (3, id), (1, volume)]) 0 1 = 2 := field_head (by decide) _
  have f2 : field (bodyOf [(1, 2), (3, id), (1, volume)]) 1 3 = id := by
    rw [field_skip _ (by decide)]
    exact field_head h1 _
  have f3 : field (bodyOf [(1, 2), (3, id), (1, volume)]) 4 1 = volume := by
    iterate 2 rw [field_skip _ (by decide)]
    exact field_head h2 _
  refine exec_packScan (by simp) hs ?_
  rw [f1, f2, f3, packScanRule, set]
  exact ha

end

section
variable {s : State} {form : Nat} (serial id volume : Nat)

theorem packScanRule_unset (unset : s.clock.set = false) : packScanRule form serial id volume s = statusOnly .clockUnset s :=
  if_pos (by rw [unset]; rfl)

theorem packScanRule_otherForm (set : s.clock.set = true) (h1 : form ≠ 1) (h2 : form ≠ 2) :
    packScanRule form serial id volume s = statusOnly .range s := by
  refine (if_neg (by rw [set]; decide)).trans ?_
  split
  · exact absurd rfl h1
  · exact absurd rfl h2
  · rfl

end

/-! ## Room, and the accepted scan (R137, R138) -/

/-- What an accepted scan leaves and answers, its item already PACKED: the item placed, its container sealed, the reply made (R138 to R141). -/
def placedAndAnswered (sh : Shipment) (i : Item) (packed : State) : Answer :=
  let p := placeItem sh i packed
  let t := sealAfter sh.number p.container p.sealedOld p.state
  (t, 0x00 :: packReply t sh.number p.container p.sealedOld)

theorem acceptItem_eq (x : Scanned) (sh : Shipment) (s : State) : acceptItem x sh s =
    placedAndAnswered sh x.item ((packItem x.item s).withShipment sh.number fun y => { y with toScan := y.toScan - 1 }) := by
  rw [acceptItem, updateShipment_eq]
  rfl

section
variable {s : State} {x : Scanned} {sh : Shipment} {count : State → State} (found : findShipment s x.shipment = some sh)
include found

theorem roomThenAccept_full (unfit : fitting s sh.number (itemUnits x.item) = none) (full : containerCapacity ≤ s.containers.length) :
    roomThenAccept x count s = statusOnly .full s := by
  simp only [roomThenAccept, found, unfit, full, Option.isNone_none, and_self, if_true]

theorem roomThenAccept_room (room : fitting s sh.number (itemUnits x.item) ≠ none ∨ s.containers.length < containerCapacity) :
    roomThenAccept x count s = acceptItem x sh (count s) := by
  simp only [roomThenAccept, found]
  refine if_neg ?_
  rintro ⟨unfit, full⟩
  exact room.elim (· (Option.isNone_iff_eq_none.1 unfit)) (Nat.not_lt.2 full)

end

/-! ## A cartridge (R137, R142) -/

/-- The state that a recall gives a cartridge, by the strongest action of the matching slots (R175). -/
def recalledAs (a : RecallAction) : CartState := if a = .withdraw then .withdrawn else .quarantined

theorem recallState_recalled {s : State} {c : Cartridge} {a : RecallAction} (h : strongestAction s c = some a) (ne : a ≠ .count) :
    recallState s c = some (recalledAs a) := by
  cases a with
  | count => exact absurd rfl ne
  | quarantine => rw [recallState, h]; rfl
  | withdraw => rw [recallState, h]; rfl

theorem recallState_kept {s : State} {c : Cartridge} (h : strongestAction s c = none ∨ strongestAction s c = some .count) :
    recallState s c = none := by
  rcases h with h | h <;> rw [recallState, h]

/-- A cartridge recalled at the bench, before its job is looked at: every matching slot counts it, its record leaves WRITTEN (R142). -/
def recalled (c : Cartridge) (st : CartState) (s : State) : State :=
  (countMatches c s).withCart (some c.serial) fun r => { r with state := st, shipment := none, job := none }

theorem recallAtPack_job {s : State} {c : Cartridge} {j : Job} (st : CartState) (hc : c.job = some j.number) (hj : findJob s j.number = some j) :
    recallAtPack c st s = dropLine j (deleteJob j.number (recalled c st s)) := by
  rw [recallAtPack, hc, Option.bind_some, hj, updateCart_eq]
  rfl

theorem recallAtPack_noJob {s : State} {c : Cartridge} (st : CartState) (none : ∀ j, c.job = some j → findJob s j = none) :
    recallAtPack c st s = recalled c st s := by
  rw [recallAtPack, Option.bind_eq_none_iff.2 none, updateCart_eq]
  rfl

section
variable {s : State} {serial : Nat}

theorem packCartridge_unknown (h : findCart s serial = none) : packCartridge serial s = statusOnly .notFound s := by
  simp only [packCartridge, h]

variable {c : Cartridge} (found : findCart s serial = some c)
include found

theorem packCartridge_notWritten (other : c.state ≠ .written) : packCartridge serial s = notReady (cartStateCode c.state) s := by
  simp only [packCartridge, found, other, ne_eq, not_false_eq_true, if_true]

theorem packCartridge_recalled (written : c.state = .written) {a : RecallAction} (strongest : strongestAction s c = some a) (ne : a ≠ .count) :
    packCartridge serial s = recalledReply a (recallAtPack c (recalledAs a) s) := by
  simp only [packCartridge, found, written, recallState_recalled strongest ne, strongest, ne_eq, not_true_eq_false, if_false, Option.getD_some]

theorem packCartridge_checked (written : c.state = .written) (kept : strongestAction s c = none ∨ strongestAction s c = some .count) {n : Nat}
    (named : c.shipment = some n) : packCartridge serial s = roomThenAccept ⟨.cartridge serial, n⟩ (countMatches c) s := by
  simp only [packCartridge, found, written, recallState_kept kept, named, ne_eq, not_true_eq_false, if_false]

end

/-! ## A volume (R137) -/

theorem copyScannable_iff (c : Copy) : copyScannable c = true ↔
    c.state = .allocated ∨ (c.state = .packed ∧ (c.marks.filter fun m => m).length < c.volumes) := by
  rw [copyScannable, Bool.or_eq_true, Bool.and_eq_true, beq_iff_eq, beq_iff_eq, decide_eq_true_iff]
  rfl

theorem markOf_iff (c : Copy) (volume : Nat) : markOf c volume = true ↔ c.marks[volume - 1]? = some true := by
  rw [markOf]
  cases c.marks[volume - 1]? <;> simp

theorem packItem_volume (id volume : Nat) (s : State) : packItem (.volume id volume) s =
    { s.withCopy id fun d => { d with state := .packed, marks := d.marks.set (volume - 1) true } with
      pickList := s.pickList.filter fun m => m ≠ id } := by
  rw [packItem, unpick, updateCopy_eq, filter_bne_eq]
  rfl

section
variable {s : State} {id volume : Nat}

theorem packVolume_unknown (h : findCopy s id = none) : packVolume id volume s = statusOnly .notFound s := by
  simp only [packVolume, h]

variable {c : Copy} (found : findCopy s id = some c)
include found

theorem packVolume_beyond (beyond : c.volumes < volume) : packVolume id volume s = statusOnly .range s := by
  simp only [packVolume, found, if_pos beyond]

variable (within : volume ≤ c.volumes)
include within

theorem packVolume_notReady (shut : ¬copyScannable c = true) : packVolume id volume s = notReady (copyStateCode c.state) s := by
  simp only [packVolume, found, if_neg (Nat.not_lt.2 within), shut, Bool.not_false, if_true]

variable (open_ : copyScannable c = true)
include open_

theorem packVolume_twice (marked : markOf c volume = true) : packVolume id volume s = statusOnly .duplicate s := by
  simp only [packVolume, found, if_neg (Nat.not_lt.2 within), open_, marked, Bool.not_true, Bool.false_eq_true, if_false, if_true]

theorem packVolume_checked (unmarked : ¬markOf c volume = true) {n : Nat} (named : c.shipment = some n) :
    packVolume id volume s = roomThenAccept ⟨.volume id volume, n⟩ (fun t => t) s := by
  simp only [packVolume, found, if_neg (Nat.not_lt.2 within), open_, unmarked, named, Bool.not_true, Bool.false_eq_true, if_false]

end

/-- Settles O51: the checks in order, each by the lemma of its outcome; the recall by the job of the record, acceptance by the room there is. -/
theorem packScanChecksAndAccepts : Obligations.PackScanChecksAndAccepts := by
  unfold Obligations.PackScanChecksAndAccepts
  refine fun s tag => ⟨fun form item hf _ hs => ⟨fun unset => ?_, fun set h1 h2 => ?_⟩, fun serial hn set hs => ?_, fun id volume h1 h2 set hs => ?_⟩
  · exact exec_packScan_form hf hs fun _ _ _ => packScanRule_unset _ _ _ unset
  · exact exec_packScan_form hf hs fun _ _ _ => packScanRule_otherForm _ _ _ set h1 h2
  · intro reply
    have answer : ∀ {t data}, serial ≠ 0 → packCartridge serial s = (t, data) → reply t data :=
      fun pos ha => exec_packScan_cartridge set hn hs ((if_neg pos).trans ha)
    refine ⟨fun zero => exec_packScan_cartridge set hn hs (if_pos zero), fun pos none => answer pos (packCartridge_unknown none),
      fun c pos hc => ⟨fun other => answer pos (packCartridge_notWritten hc other), fun written => ⟨fun a strongest ne => ?_, ?_⟩⟩⟩
    · intro gone data
      have hgone : recalled c (recalledAs a) s = gone := by rw [recalled, findCart_serial hc]; rfl
      refine ⟨fun j named hj => answer pos ?_, fun none => answer pos ?_⟩
      · rw [packCartridge_recalled hc written strongest ne, recallAtPack_job _ named hj, hgone]
        rfl
      · rw [packCartridge_recalled hc written strongest ne, recallAtPack_noJob _ none, hgone]
        rfl
    · intro kept sh named found
      have checked := packCartridge_checked hc written kept named
      refine ⟨fun unfit full => answer pos (checked.trans (roomThenAccept_full found unfit full)), fun room => answer pos ?_⟩
      rw [checked, roomThenAccept_room found room, acceptItem_eq, packItem, updateCart_eq]
      rfl
  · intro reply
    have answer : ∀ {t data}, 1 ≤ id → 1 ≤ volume → volume ≤ 12 → packVolume id volume s = (t, data) → reply t data :=
      fun i1 v1 v2 ha => exec_packScan_volume set h1 h2 hs ((if_neg (by simp only [maxCopy]; omega)).trans ha)
    refine ⟨fun bad => exec_packScan_volume set h1 h2 hs (if_pos (bad.imp_right .inr)), fun i1 v1 v2 none => answer i1 v1 v2 (packVolume_unknown none),
      fun c i1 v1 v2 hc => ?_⟩
    intro open_
    have scannable : copyScannable c = true ↔ open_ := copyScannable_iff c
    refine ⟨fun beyond => answer i1 v1 v2 (packVolume_beyond hc beyond),
      fun within shut => answer i1 v1 v2 (packVolume_notReady hc within (mt scannable.1 shut)),
      fun within ready marked => answer i1 v1 v2 (packVolume_twice hc within (scannable.2 ready) ((markOf_iff c volume).2 marked)),
      fun within ready unmarked sh named found => ?_⟩
    have checked := packVolume_checked hc within (scannable.2 ready) (mt (markOf_iff c volume).1 unmarked) named
    refine ⟨fun unfit full => answer i1 v1 v2 (checked.trans (roomThenAccept_full found unfit full)), fun room => answer i1 v1 v2 ?_⟩
    rw [checked, roomThenAccept_room found room, acceptItem_eq, packItem_volume]
    rfl

end Sys2Proof.Machine
end

section
/-! SUPPORT. BATCH RELEASE: the request and its checks, the loans it opens, the items it strikes, the containers and shipments that go (R157, R158,
R159; O55). -/

namespace Sys2Proof.Machine

/-! ## The request (R157) -/

theorem exec_batchRelease {s t : State} {tag : Byte} {data : List Byte} {n : Nat} (h : n < 65536)
    (hs : canServe ⟨0x51, tag, bodyOf [(2, n)]⟩ s = true) (ha : batchReleaseRule n s = (t, data)) :
    exec (.batchRelease tag (bodyOf [(2, n)])) s = .next (t.replied 0xD1 tag data) :=
  exec_answered (rule := batchReleaseRule (field _ 0 2)) rfl (by rw [field_head h]) rfl (by simp [bodyLengthOk]) rfl hs ha

section
variable {s : State} {n : Nat}

theorem batchReleaseRule_unset (unset : s.clock.set = false) : batchReleaseRule n s = statusOnly .clockUnset s :=
  if_pos (by rw [unset]; rfl)

variable (set : s.clock.set = true)
include set

theorem batchReleaseRule_unknown (absent : ∀ b ∈ s.batches, b.number ≠ n) : batchReleaseRule n s = statusOnly .notFound s := by
  have missing : s.batches.find? (·.number == n) = none := List.find?_eq_none.2 fun b hb => by simpa using absent b hb
  simp only [batchReleaseRule, set, missing, Bool.not_true, Bool.false_eq_true, if_false]

/-- A batch that is held is released when it is CLOSED and there is room for its loans. -/
theorem batchReleaseRule_held {b : Batch} (found : s.batches.find? (fun b => b.number = n) = some b) : batchReleaseRule n s =
    if b.state ≠ .closed then statusOnly .busy s
    else if loanCapacity < s.loans.length + releaseLoans s n then statusOnly .full s
    else releaseBatch n s := by
  have held : s.batches.find? (·.number == n) = some b := found
  simp only [batchReleaseRule, set, held, Bool.not_true, Bool.false_eq_true, if_false]

end

/-! ## The items of the batch (R158) -/

/-- The cartridges among the items, counted by any test that tells the cartridges from the volumes. -/
theorem batchSerials_length {test : Item × Nat → Bool} (cartridge : ∀ serial n, test (.cartridge serial, n) = true)
    (volume : ∀ id v n, test (.volume id v, n) = false) (items : List (Item × Nat)) :
    (batchSerials items).length = (items.filter test).length := by
  induction items with
  | nil => rfl
  | cons x items ih =>
    obtain ⟨i, n⟩ := x
    cases i with
    | cartridge serial =>
      rw [List.filter_cons_of_pos (cartridge serial n), List.length_cons, ← ih]
      rfl
    | volume id v =>
      rw [List.filter_cons_of_neg (by rw [volume]; decide), ← ih]
      rfl

theorem batchCopies_cartridge (items : List (Item × Nat)) (serial n : Nat) :
    batchCopies (items ++ [(.cartridge serial, n)]) = batchCopies items := by
  rw [batchCopies, List.foldl_append]
  rfl

/-- A volume puts its copy at the end. -/
theorem batchCopies_volume (items : List (Item × Nat)) (id volume n : Nat) :
    batchCopies (items ++ [(.volume id volume, n)]) = (batchCopies items).filter (· ≠ id) ++ [id] := by
  rw [batchCopies, List.foldl_append, ← filter_bne_eq]
  rfl

theorem batchCopies_nodup (items : List (Item × Nat)) : (batchCopies items).Nodup := by
  induction items using List.reverseRecOn with
  | nil => exact List.nodup_nil
  | append_singleton items x ih =>
    obtain ⟨i, n⟩ := x
    cases i with
    | cartridge serial => rwa [batchCopies_cartridge]
    | volume id volume =>
      rw [batchCopies_volume]
      exact (ih.filter _).append (List.nodup_singleton id) (by simp)

theorem mem_batchCopies (items : List (Item × Nat)) (id : Nat) :
    id ∈ batchCopies items ↔ ∃ volume sh, (Item.volume id volume, sh) ∈ items := by
  induction items using List.reverseRecOn with
  | nil => simp [batchCopies]
  | append_singleton items x ih =>
    obtain ⟨i, n⟩ := x
    cases i with
    | cartridge serial => simp [batchCopies_cartridge, ih]
    | volume id' volume =>
      by_cases same : id = id'
      · subst same
        simp only [batchCopies_volume, List.mem_append, List.mem_singleton, or_true, true_iff]
        exact ⟨volume, n, .inr rfl⟩
      · simp [batchCopies_volume, ih, same]

/-- A volume of the copy lies in a container that is not of the batch. -/
theorem elsewhere_iff (s : State) (n id : Nat) : elsewhere s n id = true ↔
    ∃ d ∈ s.containers, ¬(d.state = .batched ∧ d.batch = some n) ∧ ∃ volume, Item.volume id volume ∈ d.items := by
  rw [elsewhere, List.any_eq_true]
  refine exists_congr fun d => and_congr_right fun _ => ?_
  rw [Bool.and_eq_true, Bool.not_eq_true', ← Bool.not_eq_true, Bool.and_eq_true, beq_iff_eq, beq_iff_eq, List.any_eq_true]
  refine and_congr_right fun _ => ⟨fun ⟨i, hi, hid⟩ => ?_, fun ⟨volume, h⟩ => ⟨_, h, beq_self_eq_true id⟩⟩
  cases i with
  | cartridge serial => cases hid
  | volume j volume =>
    obtain rfl : j = id := beq_iff_eq.1 hid
    exact ⟨volume, hi⟩

theorem goesOut_iff (s : State) (n id : Nat) : goesOut s n id = true ↔
    ∃ c, findCopy s id = some c ∧ (c.marks.filter fun m => m = true).length = c.volumes ∧
      ∀ d ∈ s.containers, (∃ volume, Item.volume id volume ∈ d.items) → d.state = .batched ∧ d.batch = some n := by
  have together : elsewhere s n id = false ↔
      ∀ d ∈ s.containers, (∃ volume, Item.volume id volume ∈ d.items) → d.state = .batched ∧ d.batch = some n := by
    rw [← Bool.not_eq_true, elsewhere_iff]
    exact ⟨fun h d hd hv => by_contra fun out => h ⟨d, hd, out, hv⟩, fun h ⟨d, hd, out, hv⟩ => out (h d hd hv)⟩
  cases hc : findCopy s id with
  | none => simp [goesOut, hc]
  | some c =>
    simp only [goesOut, hc, Bool.and_eq_true, beq_iff_eq, Bool.not_eq_true', together, Option.some.injEq, exists_eq_left']
    rw [volumesScanned, ← filter_eq_true]
    rfl

/-! ## The loans (R158, R160) -/

theorem patronOf_found {s : State} {n : Nat} {sh : Shipment} (h : findShipment s n = some sh) : patronOf s n = sh.patron := by
  rw [patronOf, h]
  rfl

section
variable {s : State} {out : List Nat} {id volume sh : Nat} {c : Copy} (found : findCopy s id = some c)
include found

theorem lendItem_kept (kept : id ∉ out ∨ c.state ≠ .packed) : lendItem out s (.volume id volume, sh) = s := by
  by_cases leaves : id ∈ out
  · simp only [lendItem, found, if_neg (kept.resolve_left (not_not_intro leaves)), ite_self]
  · simp only [lendItem, List.contains_iff_mem, if_neg leaves]

theorem lendItem_lent (leaves : id ∈ out) (packed : c.state = .packed) : lendItem out s (.volume id volume, sh) = lendCopy s id := by
  simp only [lendItem, List.contains_iff_mem, if_pos leaves, found, if_pos packed]

/-- A copy lent is OUT with its marks cleared, and its loan is in the table. -/
theorem lendCopy_found : lendCopy s id =
    { s.withCopy id (fun d => { d with state := .out, marks := List.replicate d.volumes false }) with
      loans := insertBy loanBefore (newLoan s (.copy id) (c.patron.getD 0) (c.shipment.getD 0) s.copyPeriod) s.loans } := by
  simp only [lendCopy, found, updateCopy_eq]
  rfl

end

theorem lendCart_eq (s : State) (serial shipment : Nat) : lendCart s serial shipment =
    { s.withCart (some serial) (fun c => { c with state := .out }) with
      loans := insertBy loanBefore (newLoan s (.cartridge serial) (patronOf s shipment) shipment s.cartridgePeriod) s.loans } := by
  rw [lendCart, updateCart_eq]
  rfl

/-! ## The items struck (R159, step 1) -/

section
variable (s : State) (j : ListItem)

theorem satisfied_cartridge (serial : Nat) : satisfied s (.cartridge serial) j = true ↔ j.state = .inShipment ∧
    ((findCart s serial).elim false fun c => decide (∃ q ∈ c.content, j.title = q.key.title ∧ j.medium = q.key.medium)) = true := by
  rw [satisfied, Bool.and_eq_true, beq_iff_eq]
  cases findCart s serial <;> simp [isItem_iff]

theorem satisfied_volume (id volume : Nat) : satisfied s (.volume id volume) j = true ↔ j.state = .inShipment ∧
    ((findCopy s id).elim false fun c => decide (j.title = c.title ∧ j.medium = .embossed)) = true := by
  rw [satisfied, Bool.and_eq_true, beq_iff_eq]
  cases findCopy s id <;> simp [isItem_iff]

end

/-- The items that go are those that the released item satisfies, however that is said. -/
theorem strikeItems_eq {s : State} {i : Item} {sh : Shipment} (h : findShipment s sh.number = some sh) {gone : ListItem → Prop}
    [DecidablePred gone] (same : ∀ j, satisfied s i j = true ↔ gone j) :
    strikeItems s (i, sh.number) = s.withPatron sh.patron fun p => { p with list := p.list.filter fun j => ¬gone j } := by
  have left : ∀ j, (!satisfied s i j) = true ↔ ¬gone j := fun j => by rw [← same j, Bool.not_eq_true', Bool.not_eq_true]
  simp only [strikeItems, patronOf_found h, updatePatron_eq, filter_of_iff left]

/-! ## The containers and the shipments that go (R159, steps 2 and 3) -/

theorem dropContainers_eq (gone : List Nat) (s : State) : dropContainers gone s = { s with
    containers := s.containers.filter fun c => c.number ∉ gone
    shipments := s.shipments.map fun sh => { sh with
      containers := sh.containers.map fun e => { e with released := e.released || decide (e.number ∈ gone) } } } := by
  have entry : ∀ e : ContainerEntry, (if gone.contains e.number then { e with released := true } else e) =
      { e with released := e.released || decide (e.number ∈ gone) } := by
    intro e
    by_cases h : e.number ∈ gone <;> simp [h]
  have kept : ∀ c : Container, (!gone.contains c.number) = true ↔ c.number ∉ gone := fun c => by simp
  simp only [dropContainers, entry, filter_of_iff kept]

theorem goneShipments_eq (named : List Nat) (s : State) : goneShipments named s =
    s.shipments.filter fun sh => sh.number ∈ named ∧ sh.state = .sealed ∧ ∀ e ∈ sh.containers, e.released = true :=
  filter_of_iff (fun sh => by simp [shipmentGone]) _

theorem freeReleased_eq {s : State} {sh : Shipment} (h : findShipment s sh.number = some sh) :
    let u := sh.jobLines.foldl (fun t l => deleteJob l.job t) s
    freeReleased s sh = appendEligible sh.patron (State.withPatron { u with shipments := s.shipments.filter fun x => x.number ≠ sh.number }
      sh.patron fun p => { p with shipment := none }) := by
  intro u
  have same : u.shipments = s.shipments := shipments_deleteLines _ _
  have found : findShipment u sh.number = some sh := by rwa [findShipment, same]
  rw [freeReleased, freeAndAppend_eq found, same]

/-- Settles O55: the checks by the batch found, the release as the model's own stages write it, and each stage by its own lemmas. -/
theorem batchReleaseSendsOut : Obligations.BatchReleaseSendsOut := by
  unfold Obligations.BatchReleaseSendsOut
  refine ⟨fun s tag n hn hs => ?_, fun items => ⟨batchCopies_nodup items, mem_batchCopies items⟩, goesOut_iff, fun s out serial sh h => ?_,
    fun s out id volume sh n m c found named shipped => ?_, fun s i sh h => ?_, fun s gone => dropContainers_eq gone s, fun s sh h => freeReleased_eq h⟩
  · intro reply
    have answer : ∀ {t data}, batchReleaseRule n s = (t, data) → reply t data := exec_batchRelease hn hs
    refine ⟨fun unset => answer (batchReleaseRule_unset unset), fun set none => answer (batchReleaseRule_unknown set none), fun b set found => ?_⟩
    have held := batchReleaseRule_held set found
    refine ⟨fun open_ => answer (held.trans (if_pos (by rw [open_]; decide))), fun closed =>
      ⟨batchContainers s n, batchContainers_perm s n, batchContainers_ascending s n, ?_⟩⟩
    intro items out loans
    have counted : releaseLoans s n = loans :=
      congrArg (· + out.length) (batchSerials_length (fun _ _ => rfl) (fun _ _ _ => rfl) items)
    rw [if_neg (not_not_intro closed), counted] at held
    refine ⟨fun full => answer (held.trans (if_pos full)), fun room => answer (held.trans ((if_neg (Nat.not_lt.2 room)).trans ?_))⟩
    rw [releaseBatch, counted, goneShipments_eq, dropBatch, filter_key_bne]
    rfl
  · intro t
    have lent : t = lendCart s serial sh.number := rfl
    rw [lent, lendCart_eq, patronOf_found h]
    exact ⟨rfl, insertBy_perm _ _ _⟩
  · intro t
    refine ⟨lendItem_kept found, fun leaves packed => ?_⟩
    have lent : t = _ := (lendItem_lent found leaves packed).trans (lendCopy_found found)
    rw [lent, named, shipped]
    exact ⟨rfl, insertBy_perm _ _ _⟩
  · intro carries
    refine strikeItems_eq h fun j => ?_
    cases i with
    | cartridge serial => exact satisfied_cartridge s j serial
    | volume id volume => exact satisfied_volume s j id volume

end Sys2Proof.Machine
end

section
/-! SUPPORT. The calendar: the batch table through every step (R153; O9), CLOCK SET, the minute, the sweep, the deadlines that have come (R145,
R150, R151, R162; O53). -/

namespace Sys2Proof.Machine

/-- Settles O9: every command keeps the batch table in order (`Preserves.batches`), which does not depend on the queue of commands. -/
theorem everyStepKeepsOneOpenBatch : Obligations.EveryStepKeepsOneOpenBatch := by
  unfold Obligations.EveryStepKeepsOneOpenBatch
  exact fun _ _ => step_keeps (fun _ _ p => p.batches) fun _ _ => id

/-! ## CLOCK SET (R151) -/

theorem exec_clockSet {s t : State} {tag : Byte} {data : List Byte} {day minute : Nat} (h1 : day < 65536) (h2 : minute < 65536)
    (hs : canServe ⟨0x01, tag, bodyOf [(2, day), (2, minute)]⟩ s = true) (ha : clockSetRule day minute s = (t, data)) :
    exec (.clockSet tag (bodyOf [(2, day), (2, minute)])) s = .next (t.replied 0x81 tag data) := by
  have f1 : field (bodyOf [(2, day), (2, minute)]) 0 2 = day := field_head h1 _
  have f2 : field (bodyOf [(2, day), (2, minute)]) 2 2 = minute := by
    rw [field_skip _ (by decide)]
    exact field_head h2 _
  exact exec_answered (rule := clockSetRule (field _ 0 2) (field _ 2 2)) rfl (by rw [f1, f2]) rfl (by simp [bodyLengthOk]) rfl hs ha

/-- A clock that becomes set marks CLOCK UNSET (R151, R186). -/
theorem putClock_eq (day minute : Nat) (s : State) : putClock day minute s =
    if s.clock.set then { s with clock := ⟨day, minute, true⟩ } else State.noted { s with clock := ⟨day, minute, true⟩ } .clockUnset := by
  rw [putClock, markChanged_noted]

/-! ## The minute (R150) -/

theorem exec_minuteAdvance {s : State} (power : s.power = true) : exec .minuteAdvance s = .next (advanceMinute s).stamped :=
  event_powered advanceMinute power

section
variable {s : State}

theorem advanceMinute_unset (unset : s.clock.set = false) : advanceMinute s = s := if_pos (by rw [unset]; rfl)

variable (set : s.clock.set = true)
include set

theorem advanceMinute_set : advanceMinute s =
    if s.clock.minute + 1 < 1440 then { s with clock := ⟨s.clock.day, s.clock.minute + 1, true⟩ }
    else if s.clock.day < maxDay then sweep { s with clock := ⟨s.clock.day + 1, 0, true⟩ } else s := by
  have ticked : ({ s.clock with minute := s.clock.minute + 1 } : Clock) = ⟨s.clock.day, s.clock.minute + 1, true⟩ := by rw [← set]
  rw [← ticked]
  exact if_neg (by rw [set]; decide)

end

/-! ## The sweep (R162) -/

/-- A patron with one loan more marked overdue (R162). -/
theorem sweptPatron_eq (p : Patron) :
    (if p.state == .active && decide (3 ≤ p.overdue + 1) then { p with overdue := p.overdue + 1, state := .overdueHold }
      else { p with overdue := p.overdue + 1 }) =
    { p with overdue := p.overdue + 1, state := if p.state = .active ∧ 3 ≤ p.overdue + 1 then .overdueHold else p.state } := by
  simp only [Bool.and_eq_true, beq_iff_eq, decide_eq_true_eq]
  split <;> rfl

section
variable {s : State} {l : Loan}

theorem sweepLoan_marks (past : l.due < s.clock.day) (unmarked : l.overdue = false) : sweepLoan s l = State.withPatron { s with
    loans := s.loans.map fun m => if m.item = l.item then { m with overdue := true } else m } l.patron fun p =>
      { p with overdue := p.overdue + 1, state := if p.state = .active ∧ 3 ≤ p.overdue + 1 then .overdueHold else p.state } := by
  have test : (decide (l.due < today s) && !l.overdue) = true := by simp [today, past, unmarked]
  rw [sweepLoan, if_pos test, updatePatron_eq]
  simp only [replace, beq_iff_eq, sweptPatron_eq]

theorem sweepLoan_keeps (h : s.clock.day ≤ l.due ∨ l.overdue = true) : sweepLoan s l = s := by
  refine if_neg ?_
  rw [Bool.and_eq_true, decide_eq_true_iff, Bool.not_eq_true']
  rintro ⟨past, unmarked⟩
  rcases h with early | marked
  · exact Nat.not_lt.2 early past
  · exact Bool.false_ne_true (unmarked.symm.trans marked)

end

/-! ## The deadlines that have come (R145, R151) -/

theorem deadlinePassed_open_iff (s : State) (c : Container) :
    deadlinePassed s c = true ↔ c.state = .open ∧ ∃ due, c.deadline = some due ∧ due ≤ s.clock.day * 1440 + s.clock.minute := by
  cases h : c.deadline with
  | none => simp [deadlinePassed, h]
  | some due => simp [deadlinePassed_iff h, now]

theorem dissolveDue_eq (s : State) : dissolveDue s =
    (s.containers.filter fun c => c.state = .open ∧ ∃ due, c.deadline = some due ∧ due ≤ s.clock.day * 1440 + s.clock.minute).foldl
      (fun t c => dissolve c t) s := by
  rw [dissolveDue, filter_of_iff (deadlinePassed_open_iff s)]

/-- Settles O53: CLOCK SET by its rule, the minute by the clock's state, the sweep loan by loan. -/
theorem clockAndSweep : Obligations.ClockAndSweep := by
  unfold Obligations.ClockAndSweep
  refine ⟨fun s tag day minute hd hm hs => ?_, fun s power => ?_, fun s => setEvent_flagged _ _, fun s l => ⟨sweepLoan_marks, sweepLoan_keeps⟩,
    dissolveDue_eq⟩
  · intro reply
    have answer : ∀ {t status}, clockSetRule day minute s = (t, [status]) → reply t status := exec_clockSet hd hm hs
    refine ⟨fun late => answer (if_pos (.inr late)), fun inRange => ?_⟩
    intro put shown
    have hput : putClock day minute s = shown := putClock_eq day minute s
    refine answer ((if_neg (not_or.2 ⟨Nat.not_lt.2 (Nat.le_of_lt_succ hd), Nat.not_lt.2 inRange⟩)).trans ?_)
    rw [setClock, hput]
    rfl
  · have moves : ∀ {t}, advanceMinute s = t → exec .minuteAdvance s = .next t.stamped := fun h => h ▸ exec_minuteAdvance power
    refine ⟨fun unset => moves (advanceMinute_unset unset), fun set within => moves ?_, fun set last day => moves ?_, fun set last day => moves ?_⟩
    · rw [advanceMinute_set set, if_pos (Nat.succ_lt_succ within)]
    · rw [advanceMinute_set set, if_neg (by omega), if_pos day]
    · rw [advanceMinute_set set, if_neg (by omega), if_neg (by rw [day]; exact Nat.lt_irrefl _)]

end Sys2Proof.Machine
end

section
/-! SUPPORT. The cut-off list and the batches: CUTOFF SET, the next cut-off, the opening of a batch, the container that joins it, its close (R152, R154,
R155, R156, R165; O54). -/

namespace Sys2Proof.Machine

/-! ## CUTOFF SET (R152) -/

/-- The body of a CUTOFF SET: the count of its minutes, then the minutes (10.5). -/
def cutoffBody (l : List Nat) : List Byte := bodyOf ((1, l.length) :: l.map fun m => (2, m))

section
variable {l : List Nat} (count : l.length < 256) (minutes : ∀ m ∈ l, m < 65536)
include count

theorem cutoffBody_count : field (cutoffBody l) 0 1 = l.length := field_head count _

include minutes

theorem bodyMinutes_cutoffBody : bodyMinutes (cutoffBody l) = l := by
  rw [bodyMinutes, cutoffBody_count count]
  refine List.ext_getElem (by simp) fun i hi _ => ?_
  rw [List.getElem_map, List.getElem_range, cutoffBody, field_skip _ (Nat.le_add_right 1 _), Nat.add_sub_cancel_left]
  exact field_pairs minutes i (by simpa using hi)

theorem exec_cutoffSet {s t : State} {tag : Byte} {data : List Byte} (hs : canServe ⟨0x02, tag, cutoffBody l⟩ s = true)
    (ha : cutoffSetRule l s = (t, data)) : exec (.cutoffSet tag (cutoffBody l)) s = .next (t.replied 0x82 tag data) := by
  have long : (cutoffBody l).length = 1 + 2 * l.length := by
    rw [cutoffBody, length_bodyOf]
    simp [Function.comp_def, Nat.mul_comm]
  have hb : bodyLengthOk ⟨0x02, tag, cutoffBody l⟩ = true := by
    simp [bodyLengthOk, long, cutoffBody_count count]
  exact exec_answered (rule := cutoffSetRule (bodyMinutes _)) rfl (by rw [bodyMinutes_cutoffBody count minutes]) rfl hb rfl hs ha

end

section
variable {l : List Nat} {s : State}

theorem cutoffSetRule_range (bad : 4 < l.length ∨ ∃ m ∈ l, 1440 ≤ m) : cutoffSetRule l s = (s, [0x05]) := by
  refine if_pos (bad.imp_right fun ⟨m, hm, high⟩ => ?_)
  exact List.any_eq_true.2 ⟨m, hm, decide_eq_true high⟩

theorem cutoffSetRule_kept (few : l.length ≤ 4) (minutes : ∀ m ∈ l, m < 1440) : cutoffSetRule l s =
    (putCutoffs (keptMinutes l) s, 0x00 :: BitVec.ofNat 8 (keptMinutes l).length :: (keptMinutes l).flatMap (leBytes 2)) := by
  refine if_neg ?_
  rw [List.any_eq_true]
  rintro (many | ⟨m, hm, high⟩)
  · exact Nat.not_lt.2 few many
  · exact Nat.not_le.2 (minutes m hm) (of_decide_eq_true high)

end

/-! ## The next cut-off (R152) -/

section
variable {s : State}

theorem nextCutoff_today {m : Nat} (h : s.cutoffs.find? (fun m => decide (s.clock.minute < m)) = some m) :
    nextCutoff s = some (s.clock.day * 1440 + m) := by
  simp only [nextCutoff, h]

variable (passed : s.cutoffs.find? (fun m => decide (s.clock.minute < m)) = none)
include passed

theorem nextCutoff_tomorrow {m : Nat} {rest : List Nat} (h : s.cutoffs = m :: rest) :
    nextCutoff s = if s.clock.day < maxDay then some ((s.clock.day + 1) * 1440 + m) else none := by
  rw [h] at passed
  simp only [nextCutoff, h, passed]

theorem minutes_passed : ∀ m ∈ s.cutoffs, m ≤ s.clock.minute := by
  simpa using passed

end

/-- An absolute minute at which a listed cut-off falls, on a day that the clock can reach (R150, R152). -/
def IsCutoff (s : State) (t : Nat) : Prop := ∃ day m, day ≤ 65535 ∧ m ∈ s.cutoffs ∧ t = day * 1440 + m

/-- The next cut-off is the earliest after now: today's first listed minute that is left, otherwise tomorrow's first. -/
theorem nextCutoff_least {s : State} (g : s.Legal) {t : Nat} (h : nextCutoff s = some t) : IsCutoff s t ∧ now s < t ∧ ∀ u, IsCutoff s u → now s < u → t ≤ u := by
  obtain ⟨day, minute, -⟩ := g.clock
  obtain ⟨-, rising, minutes, -⟩ := g.settings
  simp only [maxDay] at day
  simp only [now]
  cases hf : s.cutoffs.find? fun m => decide (s.clock.minute < m) with
  | some m =>
    obtain rfl : _ = t := Option.some.inj ((nextCutoff_today hf).symm.trans h)
    have listed := List.mem_of_find?_eq_some hf
    have later : s.clock.minute < m := by simpa using List.find?_some hf
    refine ⟨⟨_, m, day, listed, rfl⟩, Nat.add_lt_add_left later _, ?_⟩
    rintro u ⟨d, m', -, hm', rfl⟩ ahead
    have inDay := minutes m listed
    have inDay' := minutes m' hm'
    have least : s.clock.minute < m' → m ≤ m' := fun later' => find?_least rising hf m' hm' (decide_eq_true later')
    omega
  | none =>
    have passed := minutes_passed hf
    cases hc : s.cutoffs with
    | nil =>
      simp only [nextCutoff, hc, List.find?_nil] at h
      cases h
    | cons first rest =>
      rw [nextCutoff_tomorrow hf hc, Option.ite_none_right_eq_some] at h
      obtain ⟨left, hd⟩ := h
      obtain rfl := Option.some.inj hd
      simp only [maxDay] at left
      have listed : first ∈ s.cutoffs := hc ▸ List.mem_cons_self
      refine ⟨⟨_, first, left, listed, rfl⟩, by omega, ?_⟩
      rintro u ⟨d, m', -, hm', rfl⟩ ahead
      have early := passed m' hm'
      have ordered : first ≤ m' := by
        rw [hc] at rising hm'
        exact (List.mem_cons.1 hm').elim (fun same => same.symm.le) fun behind => (List.rel_of_pairwise_cons rising behind).le
      omega

/-- With no next cut-off the list is empty, or the clock's last day has no listed minute left. -/
theorem nextCutoff_none_passed {s : State} (h : nextCutoff s = none) : ∀ u, IsCutoff s u → u ≤ now s := by
  rintro u ⟨d, m, hd, hm, rfl⟩
  cases hf : s.cutoffs.find? fun m => decide (s.clock.minute < m) with
  | some m' => cases (nextCutoff_today hf).symm.trans h
  | none =>
    have passed := minutes_passed hf m hm
    cases hc : s.cutoffs with
    | nil => rw [hc] at hm; cases hm
    | cons first rest =>
      rw [nextCutoff_tomorrow hf hc, ite_eq_right_iff] at h
      have last : ¬s.clock.day < maxDay := fun left => Option.some_ne_none _ (h left)
      simp only [maxDay] at last
      simp only [now]
      omega

/-! ## A batch opens (R153, R154) -/

theorem openBatch_none_iff {s : State} : openBatch s = none ↔ ∀ b ∈ s.batches, b.state ≠ .open := by
  simp [openBatch]

theorem createBatch_keeps {s : State} (h : s.clock.set = false ∨ nextCutoff s = none ∨ (∃ b ∈ s.batches, b.state = .open) ∨ 8 ≤ s.batches.length) :
    createBatch s = s := by
  have free : (openBatch s).isNone = true ↔ ¬∃ b ∈ s.batches, b.state = .open := by simp [openBatch_none_iff]
  unfold createBatch
  split
  next may =>
    rw [Bool.and_eq_true, Bool.and_eq_true, decide_eq_true_iff, free] at may
    obtain ⟨⟨set, none⟩, room⟩ := may
    rcases h with unset | last | held | full
    · exact absurd (unset.symm.trans set) Bool.false_ne_true
    · rw [last]
    · exact absurd held none
    · exact absurd full (Nat.not_le.2 room)
  next => rfl

theorem createBatch_opens {s : State} {t : Nat} (set : s.clock.set = true) (next : nextCutoff s = some t)
    (none : ∀ b ∈ s.batches, b.state ≠ .open) (room : s.batches.length < 8) : createBatch s = openNewBatch t s := by
  have may : (s.clock.set && (openBatch s).isNone && decide (s.batches.length < batchCapacity)) = true := by
    rw [set, openBatch_none_iff.2 none]
    exact decide_eq_true room
  rw [createBatch, if_pos may, next]

theorem newBatchNumber_free {s : State} (room : s.batches.length < 65535) : ∀ b ∈ s.batches, b.number ≠ newBatchNumber s := by
  have free := takeNumber_free 65535 (s.batches.map (·.number)) s.batchCounter (by simpa using room)
  exact fun b hb same => free (List.mem_map.2 ⟨b, hb, same⟩)

theorem waitingContainers_perm (s : State) : (waitingContainers s).Perm (s.containers.filter fun c => c.state = .sealed) :=
  sortBy_perm _ _

theorem waitingContainers_ascending (s : State) : (waitingContainers s).Pairwise fun c d => c.sealNo.getD 0 ≤ d.sealNo.getD 0 :=
  sortBy_ascending (fun c : Container => c.sealNo.getD 0) _

/-- A batch opened stands in the table by its cut-off, and the waiting containers join it (R153, R154). -/
theorem openNewBatch_between (t : Nat) (s : State) : ∃ before behind, s.batches = before ++ behind ∧ (∀ b ∈ before, b.cutoff ≤ t) ∧
    (∀ b, behind.head? = some b → t < b.cutoff) ∧
    openNewBatch t s = (waitingContainers s).foldl (fun u c => joinBatch c.number (newBatchNumber s) u) { s with
      batches := before ++ ⟨newBatchNumber s, t, .open, 0, false⟩ :: behind
      batchCounter := numberAfter 65535 (newBatchNumber s) } := by
  obtain ⟨before, behind, split, below, above, inserted⟩ :=
    insertBy_between Batch.cutoff ⟨newBatchNumber s, t, .open, 0, false⟩ s.batches
  refine ⟨before, behind, split, below, above, ?_⟩
  unfold openNewBatch
  dsimp only
  rw [inserted]

/-! ## A container joins a batch (R156) -/

theorem joinBatch_eq (c n : Nat) (s : State) : joinBatch c n s = { s with
    containers := s.containers.map fun d => if d.number = c then { d with state := .batched, batch := some n } else d
    batches := s.batches.map fun b => if b.number = n then { b with count := b.count + 1 } else b } := by
  simp only [joinBatch, updateContainer, replace, beq_iff_eq]

/-! ## The close of a batch (R152, R155, R165) -/

/-- `s` with a batch CLOSED, BATCH CLOSED set, and the next batch opened where R154 opens one. -/
theorem closeBatch_eq (n : Nat) (s : State) : closeBatch n s = createBatch (State.flagged { s with
    batches := s.batches.map fun b => if b.number = n then { b with state := .closed } else b } .batchClosed) := by
  simp only [closeBatch, setEvent_flagged, replace, beq_iff_eq]

theorem exec_batchCutoff {s : State} (power : s.power = true) : exec .batchCutoff s = .next (cutoffReached s).stamped :=
  event_powered cutoffReached power

section
variable {s : State} (none : openBatch s = none)
include none

theorem takeSealed_none (c : Nat) : takeSealed c s = s := by simp only [takeSealed, none]

theorem closeIfLate_none : closeIfLate s = s := by simp only [closeIfLate, none]

theorem cutoffReached_none : cutoffReached s = s := by simp only [cutoffReached, none]

end

section
variable {s : State} {b : Batch} (found : openBatch s = some b)
include found

theorem takeSealed_open (c : Nat) : takeSealed c s = joinBatch c b.number s := by simp only [takeSealed, found]

theorem closeIfLate_late (set : s.clock.set = true) (late : b.late = true) : closeIfLate s = closeBatch b.number s := by
  simp only [closeIfLate, found, set, late, Bool.and_self, if_true]

theorem closeIfLate_keeps (h : s.clock.set = false ∨ b.late = false) : closeIfLate s = s := by
  simp only [closeIfLate, found]
  exact if_neg (by rcases h with h | h <;> simp [h])

theorem cutoffReached_early (h : s.clock.set = false ∨ now s < b.cutoff) : cutoffReached s = s := by
  simp only [cutoffReached, found]
  exact if_neg (by rcases h with h | h <;> simp [h])

variable (set : s.clock.set = true) (come : b.cutoff ≤ now s)
include set come

/-- At its cut-off the batch closes, or is LATE when the table is full and cut-offs are listed (R155). -/
theorem cutoffReached_come : cutoffReached s =
    if s.batches.length < 8 ∨ s.cutoffs = [] then closeBatch b.number s
    else { s with batches := s.batches.map fun x => if x.number = b.number then { x with late := true } else x } := by
  have test : (s.batches.length < batchCapacity || s.cutoffs.isEmpty) = true ↔ s.batches.length < 8 ∨ s.cutoffs = [] := by
    simp [batchCapacity]
  simp only [cutoffReached, found, set, come, decide_true, Bool.and_self, if_true, test, replace, beq_iff_eq]

end

/-- Settles O54: CUTOFF SET by its rule, the next cut-off by whether a minute of today is left, the opening and the close by the OPEN batch found. -/
theorem cutoffsAndBatches : Obligations.CutoffsAndBatches := by
  unfold Obligations.CutoffsAndBatches
  refine ⟨fun s tag l count minutes => ?_, fun s g => ⟨fun t => nextCutoff_least g, nextCutoff_none_passed⟩,
    fun s => ⟨createBatch_keeps, fun t set next none room => ?_⟩, fun s c n => joinBatch_eq c n s, fun s => ⟨fun none => ?_, fun b hb => ?_⟩⟩
  · intro body hs
    refine ⟨fun bad => exec_cutoffSet count minutes hs (cutoffSetRule_range bad), fun few inRange =>
      ⟨keptMinutes l, keptMinutes_rising l, fun m => mem_keptMinutes m l, ?_⟩⟩
    refine (exec_cutoffSet count minutes hs (cutoffSetRule_kept few inRange)).trans ?_
    simp only [putCutoffs, List.isEmpty_iff]
  · obtain ⟨before, behind, split, below, above, opened⟩ := openNewBatch_between t s
    exact ⟨newBatchNumber_free (room.trans (by decide)), waitingContainers s, before, behind, waitingContainers_perm s,
      waitingContainers_ascending s, split, below, above, (createBatch_opens set next none room).trans opened⟩
  · have none' := openBatch_none_iff.2 none
    exact ⟨takeSealed_none none', closeIfLate_none none', fun power => by rw [exec_batchCutoff power, cutoffReached_none none']⟩
  · intro closed
    have found : openBatch s = some b := (openBatch_eq s).trans hb
    have hclosed : closeBatch b.number s = closed := closeBatch_eq _ s
    have closes : s.clock.set = true → b.cutoff ≤ now s → s.batches.length < 8 ∨ s.cutoffs = [] → cutoffReached s = closed :=
      fun set come room => (cutoffReached_come found set come).trans ((if_pos room).trans hclosed)
    have late : s.clock.set = true → b.cutoff ≤ now s → 8 ≤ s.batches.length → s.cutoffs ≠ [] → cutoffReached s =
        { s with batches := s.batches.map fun x => if x.number = b.number then { x with late := true } else x } :=
      fun set come full listed => (cutoffReached_come found set come).trans (if_neg (not_or.2 ⟨Nat.not_lt.2 full, listed⟩))
    refine ⟨takeSealed_open found, fun set late => (closeIfLate_late found set late).trans hclosed, closeIfLate_keeps found, closes, late,
      cutoffReached_early found, fun power => ?_⟩
    rw [exec_batchCutoff power]
    exact ⟨fun early => by rw [cutoffReached_early found early],
      fun set come => ⟨fun room => by rw [closes set come room], fun full listed => by rw [late set come full listed]⟩⟩

end Sys2Proof.Machine
end

section
/-! SUPPORT. The return desk and LOAN WRITE OFF: the requests read back from their frames, the class of a scan, the loan closed, the counters (R163,
R166 to R171, R174, R178; O56). -/

namespace Sys2Proof.Machine

/-! ## The requests (R163, R166) -/

section
variable {s t : State} {tag : Byte} {data : List Byte} {form item : Nat}

theorem exec_returnScan {damaged : Nat} (h1 : form < 256) (h2 : item < 4294967296) (h3 : damaged < 256)
    (hs : canServe ⟨0x58, tag, bodyOf [(1, form), (4, item), (1, damaged)]⟩ s = true) (ha : returnScanRule form item damaged s = (t, data)) :
    exec (.returnScan tag (bodyOf [(1, form), (4, item), (1, damaged)])) s = .next (t.replied 0xD8 tag data) := by
  have f1 : field (bodyOf [(1, form), (4, item), (1, damaged)]) 0 1 = form := field_head h1 _
  have f2 : field (bodyOf [(1, form), (4, item), (1, damaged)]) 1 4 = item := by
    rw [field_skip _ (by decide)]
    exact field_head h2 _
  have f3 : field (bodyOf [(1, form), (4, item), (1, damaged)]) 5 1 = damaged := by
    iterate 2 rw [field_skip _ (by decide)]
    exact field_head h3 _
  exact exec_answered (rule := returnScanRule (field _ 0 1) (field _ 1 4) (field _ 5 1)) rfl (by rw [f1, f2, f3]) rfl (by simp [bodyLengthOk])
    rfl hs ha

theorem exec_loanWriteOff (h1 : form < 256) (h2 : item < 4294967296) (hs : canServe ⟨0x53, tag, bodyOf [(1, form), (4, item)]⟩ s = true)
    (ha : loanWriteOffRule form item s = (t, data)) :
    exec (.loanWriteOff tag (bodyOf [(1, form), (4, item)])) s = .next (t.replied 0xD3 tag data) := by
  have f1 : field (bodyOf [(1, form), (4, item)]) 0 1 = form := field_head h1 _
  have f2 : field (bodyOf [(1, form), (4, item)]) 1 4 = item := by
    rw [field_skip _ (by decide)]
    exact field_head h2 _
  exact exec_answered (rule := loanWriteOffRule (field _ 0 1) (field _ 1 4)) rfl (by rw [f1, f2]) rfl (by simp [bodyLengthOk]) rfl hs ha

end

/-! ## The checks of RETURN SCAN (R166) -/

theorem flagOf_flag {n : Nat} (h : n ≤ 1) : flagOf n = some (decide (n = 1)) := by
  interval_cases n <;> rfl

theorem flagOf_beyond {n : Nat} (h : 1 < n) : flagOf n = none := by
  unfold flagOf
  split
  · exact absurd h (by decide)
  · exact absurd h (by decide)
  · rfl

section
variable {s : State} {form item damaged : Nat}

theorem returnScanRule_unset (unset : s.clock.set = false) : returnScanRule form item damaged s = statusOnly .clockUnset s :=
  if_pos (by rw [unset]; rfl)

variable (set : s.clock.set = true)
include set

theorem returnScanRule_badFlag (h : 1 < damaged) : returnScanRule form item damaged s = statusOnly .range s := by
  refine (if_neg (by rw [set]; decide)).trans ?_
  rw [flagOf_beyond h]

variable (flag : damaged ≤ 1)
include flag

theorem returnScanRule_cartridge : returnScanRule 1 item damaged s =
    if item = 0 then statusOnly .range s else returnCartRule item (decide (damaged = 1)) s := by
  refine (if_neg (by rw [set]; decide)).trans ?_
  rw [flagOf_flag flag]
  rfl

theorem returnScanRule_copy : returnScanRule 2 item damaged s =
    if item < 1 ∨ maxCopy < item then statusOnly .range s else returnCopyRule item (decide (damaged = 1)) s := by
  refine (if_neg (by rw [set]; decide)).trans ?_
  rw [flagOf_flag flag]
  rfl

theorem returnScanRule_otherForm (h1 : form ≠ 1) (h2 : form ≠ 2) : returnScanRule form item damaged s = statusOnly .range s := by
  refine (if_neg (by rw [set]; decide)).trans ?_
  rw [flagOf_flag flag]
  dsimp only
  split
  · exact absurd rfl h1
  · exact absurd rfl h2
  · rfl

end

theorem returnScanRule_range {s : State} {form item damaged : Nat} (set : s.clock.set = true)
    (bad : (form ≠ 1 ∧ form ≠ 2) ∨ item = 0 ∨ (form = 2 ∧ 16777215 < item) ∨ 1 < damaged) :
    returnScanRule form item damaged s = statusOnly .range s := by
  by_cases beyond : 1 < damaged
  · exact returnScanRule_badFlag set beyond
  · have flag : damaged ≤ 1 := Nat.le_of_not_lt beyond
    by_cases h1 : form = 1
    · subst h1
      exact (returnScanRule_cartridge set flag).trans (if_pos (by omega))
    · by_cases h2 : form = 2
      · subst h2
        exact (returnScanRule_copy set flag).trans (if_pos (by simp only [maxCopy]; omega))
      · exact returnScanRule_otherForm set flag h1 h2

/-! ## The class of a scan (R167, R168, R175) -/

theorem matchedAction_iff (s : State) (c : Cartridge) (a : RecallAction) :
    matchedAction s c a = true ↔ ∃ f ∈ slotList s, slotMatches c f = true ∧ f.action = a := by
  simp [matchedAction]

/-- The state of a recall by the actions of the matching slots (R142, R175). -/
theorem recallState_eq (s : State) (c : Cartridge) : recallState s c =
    if matchedAction s c .withdraw then some .withdrawn else if matchedAction s c .quarantine then some .quarantined else none := by
  unfold recallState strongestAction
  split_ifs <;> rfl

/-- A cartridge is recalled when a matching slot does more than count (R167, R175). -/
theorem recallState_isSome_iff (s : State) (c : Cartridge) :
    (recallState s c).isSome = true ↔ ∃ f ∈ slotList s, slotMatches c f = true ∧ f.action ≠ .count := by
  have stronger : (recallState s c).isSome = true ↔ matchedAction s c .withdraw = true ∨ matchedAction s c .quarantine = true := by
    rw [recallState_eq]
    split_ifs <;> simp_all
  rw [stronger, matchedAction_iff, matchedAction_iff]
  constructor
  · rintro (⟨f, hf, hit, action⟩ | ⟨f, hf, hit, action⟩)
    · exact ⟨f, hf, hit, by rw [action]; decide⟩
    · exact ⟨f, hf, hit, by rw [action]; decide⟩
  · rintro ⟨f, hf, hit, ne⟩
    cases action : f.action with
    | count => exact absurd action ne
    | quarantine => exact .inr ⟨f, hf, hit, action⟩
    | withdraw => exact .inl ⟨f, hf, hit, action⟩

theorem cartClass_eq (s : State) (damaged : Bool) (c : Cartridge) (l : Loan) : cartClass s damaged c l =
    if ∃ f ∈ slotList s, slotMatches c f = true ∧ f.action ≠ .count then .recalled
    else if damaged then .damaged else if 500 ≤ c.wear then .worn else if l.due < s.clock.day then .late else .onTime := by
  simp only [cartClass, recallState_isSome_iff]
  rfl

/-- The state of a cartridge recalled at the desk: that of the strongest action (R168, R175). -/
theorem returnedState_recalled (s : State) (c : Cartridge) : returnedState s c .recalled =
    if ∃ f ∈ slotList s, slotMatches c f = true ∧ f.action = .withdraw then .withdrawn else .quarantined := by
  simp only [returnedState, recallState_eq, ← matchedAction_iff]
  split_ifs <;> rfl

/-! ## The loan closes (R163, R169) -/

/-- A patron with a loan's overdue mark taken off, an overdue hold cleared below 3 (R27, R169). -/
theorem clearHold_eq (p : Patron) : clearHold p = { p with state := if p.state = .overdueHold ∧ p.overdue < 3 then .active else p.state } := by
  simp only [clearHold, Bool.and_eq_true, beq_iff_eq, decide_eq_true_eq]
  split <;> rfl

theorem sub_bit (n : Nat) (b : Bool) : n - bit b = if b then n - 1 else n := by cases b <;> rfl

theorem closeLoan_eq (l : Loan) (s : State) : closeLoan l s =
    State.withPatron { s with loans := s.loans.filter fun m => m.item ≠ l.item } l.patron fun p =>
      { p with
        commCarts := match l.item with
          | .cartridge _ => p.commCarts - 1
          | .copy _ => p.commCarts
        commCopies := match l.item with
          | .cartridge _ => p.commCopies
          | .copy _ => p.commCopies - 1
        overdue := if l.overdue then p.overdue - 1 else p.overdue
        state := if p.state = .overdueHold ∧ (if l.overdue then p.overdue - 1 else p.overdue) < 3 then .active else p.state } := by
  have others : s.loans.filter (fun m => !(m.item == l.item)) = s.loans.filter fun m => m.item ≠ l.item :=
    filter_of_iff (fun m => by simp) _
  rw [closeLoan, updatePatron_eq, others]
  cases l.item <;> simp only [clearHold_eq, sub_bit]

/-! ## The counters (R178) -/

theorem countClosed_eq (k : ReturnClass) (l : Loan) (s : State) : countClosed k l s = { s with counters :=
    { s.counters with
      recalled := if k = .recalled then raised 1 s.counters.recalled else s.counters.recalled
      unknown := if k = .unknown then raised 1 s.counters.unknown else s.counters.unknown
      notOut := if k = .notOut then raised 1 s.counters.notOut else s.counters.notOut
      damaged := if k = .damaged then raised 1 s.counters.damaged else s.counters.damaged
      worn := if k = .worn then raised 1 s.counters.worn else s.counters.worn
      late := if k = .late then raised 1 s.counters.late else s.counters.late
      onTime := if k = .onTime then raised 1 s.counters.onTime else s.counters.onTime
      lateDays := if k = .late then raised (s.clock.day - l.due) s.counters.lateDays else s.counters.lateDays
      loanDays := if k = .late ∨ k = .onTime then raised (s.clock.day - l.dayOut) s.counters.loanDays else s.counters.loanDays } } := by
  cases k <;> rfl

/-! ## The scans (R167 to R171) -/

section
variable {s : State} {serial : Nat} {damaged : Bool}

theorem returnCartRule_unknown (h : findCart s serial = none) :
    returnCartRule serial damaged s = okWith (unlentReply .unknown 0) (countScan .unknown s) := by
  simp only [returnCartRule, h]

variable {c : Cartridge} (found : findCart s serial = some c)
include found

theorem returnCartRule_notOut (h : findLoan s (.cartridge serial) = none) :
    returnCartRule serial damaged s = okWith (unlentReply .notOut (cartStateCode c.state)) (countScan .notOut s) := by
  simp only [returnCartRule, found, h]

theorem returnCartRule_lent {l : Loan} (h : findLoan s (.cartridge serial) = some l) {k : ReturnClass} (class_ : cartClass s damaged c l = k) :
    returnCartRule serial damaged s =
      (countClosed k l (appendEligible l.patron (closeLoan l ((countMatches c s).withCart (some serial) fun r =>
          { r with state := returnedState s c k, shipment := none, job := none }))),
        0x00 :: (leBytes 1 (returnCode k) ++ leBytes 1 (cartStateCode (returnedState s c k)) ++ [0, 0, 0, 0, 0] ++ loanReply s k l ++
          filterReply s c)) := by
  have zeros : leBytes 3 0 ++ leBytes 2 0 = [0, 0, 0, 0, 0] := rfl
  simp only [returnCartRule, found, h, class_, returnCart, findCart_serial found, updateCart_eq, okWith, ← zeros, List.append_assoc]
  rfl

end

section
variable {s : State} {id : Nat} {damaged : Bool}

theorem returnCopyRule_unknown (h : findCopy s id = none) :
    returnCopyRule id damaged s = okWith (unlentReply .unknown 0) (countScan .unknown s) := by
  simp only [returnCopyRule, h]

variable {c : Copy} (found : findCopy s id = some c)
include found

theorem returnCopyRule_notOut (h : findLoan s (.copy id) = none) :
    returnCopyRule id damaged s = okWith (unlentReply .notOut (copyStateCode c.state)) (countScan .notOut s) := by
  simp only [returnCopyRule, found, h]

theorem returnCopyRule_lent {l : Loan} (h : findLoan s (.copy id) = some l) {k : ReturnClass} (class_ : copyClass s damaged l = k) :
    returnCopyRule id damaged s = (returnCopy k id l s,
      0x00 :: (leBytes 1 (returnCode k) ++ copyReply (returnCopy k id l s) id ++ loanReply s k l ++ [0, 255, 255])) := by
  have tail : leBytes 1 0 ++ (leBytes 1 255 ++ leBytes 1 255) = [0, 255, 255] := rfl
  simp only [returnCopyRule, found, h, class_, okWith, ← tail, List.append_assoc]
  rfl

end

theorem copyClass_damaged_iff (s : State) (damaged : Bool) (l : Loan) : copyClass s damaged l = .damaged ↔ damaged = true := by
  cases damaged
  · by_cases late : l.due < today s <;> simp [copyClass, late]
  · simp [copyClass]

/-! ## LOAN WRITE OFF (R163) -/

section
variable {s : State} {form item : Nat}

theorem loanWriteOffRule_range (bad : (form ≠ 1 ∧ form ≠ 2) ∨ item = 0 ∨ (form = 2 ∧ 16777215 < item)) :
    loanWriteOffRule form item s = (s, [0x05]) := by
  rw [loanWriteOffRule, loanItemOf_none bad]
  rfl

variable {i : LoanItem} (named : loanItemOf form item = some i)
include named

theorem loanWriteOffRule_notFound (none : findLoan s i = none) : loanWriteOffRule form item s = (s, [0x02]) := by
  simp only [loanWriteOffRule, named, none]
  rfl

theorem loanWriteOffRule_closes {l : Loan} (found : findLoan s i = some l) :
    loanWriteOffRule form item s = (appendEligible l.patron (closeLoan l (writeOffItem l.item s)), [0x00]) := by
  simp only [loanWriteOffRule, named, found]
  rfl

end

/-- Settles O56: the scan by its form and what it finds, the write-off by the loan found, the loan's end and the counters by their lemmas. -/
theorem returnsCloseLoans : Obligations.ReturnsCloseLoans := by
  unfold Obligations.ReturnsCloseLoans
  refine ⟨fun s tag form item damaged hf hi hd => ?_, fun s tag form item hf hi hs => ?_, fun s l => closeLoan_eq l s, fun s l k => countClosed_eq k l s⟩
  · intro body hs reply unlent bad passed
    have answer : ∀ {t data}, returnScanRule form item damaged s = (t, data) → reply t data := exec_returnScan hf hi hd hs
    refine ⟨fun unset => answer (returnScanRule_unset unset), fun set range => answer (returnScanRule_range set range), fun set good => ?_⟩
    have flag : damaged ≤ 1 := by omega
    have cartridge : form = 1 → returnScanRule form item damaged s = returnCartRule item (decide (damaged = 1)) s := by
      rintro rfl
      exact (returnScanRule_cartridge set flag).trans (if_neg (by omega))
    have copy : form = 2 → returnScanRule form item damaged s = returnCopyRule item (decide (damaged = 1)) s := by
      rintro rfl
      exact (returnScanRule_copy set flag).trans (if_neg (by simp only [maxCopy]; omega))
    refine ⟨?_, ?_, fun one c l hc hl => ?_, fun two c l hc hl => ?_⟩
    · rintro (⟨one, none⟩ | ⟨two, none⟩)
      · exact answer ((cartridge one).trans (returnCartRule_unknown none))
      · exact answer ((copy two).trans (returnCopyRule_unknown none))
    · rintro st (⟨one, none, c, hc, rfl⟩ | ⟨two, none, c, hc, rfl⟩)
      · exact answer ((cartridge one).trans (returnCartRule_notOut hc none))
      · exact answer ((copy two).trans (returnCopyRule_notOut hc none))
    · intro class_ st
      have hclass : cartClass s (decide (damaged = 1)) c l = class_ := by
        rw [cartClass_eq]
        simp only [decide_eq_true_eq]
        rfl
      have hst : returnedState s c class_ = st := by
        clear_value class_
        cases class_ with
        | recalled => exact returnedState_recalled s c
        | _ => rfl
      refine answer ((cartridge one).trans ?_)
      rw [returnCartRule_lent hc hl hclass, hst]
      rfl
    · intro class_ t
      have hclass : copyClass s (decide (damaged = 1)) l = class_ := by
        simp only [copyClass, decide_eq_true_eq]
        rfl
      have ht : returnCopy class_ item l s = t := by
        have damage : class_ = .damaged ↔ damaged = 1 := by rw [← hclass, copyClass_damaged_iff, decide_eq_true_iff]
        simp only [returnCopy, damage, updateCopy_eq]
        rfl
      refine answer ((copy two).trans ?_)
      rw [returnCopyRule_lent hc hl hclass, ht]
      rfl
  · intro reply
    have answer : ∀ {t status}, loanWriteOffRule form item s = (t, [status]) → reply t status := exec_loanWriteOff hf hi hs
    refine ⟨fun bad => answer (loanWriteOffRule_range bad), fun one pos => ?_, fun two pos le => ?_⟩
    · have named : loanItemOf form item = some (.cartridge item) := loanItemOf_some pos (.inl ⟨one, rfl⟩)
      refine ⟨fun none => answer (loanWriteOffRule_notFound named none), fun l found same => answer ?_⟩
      rw [loanWriteOffRule_closes named found, same, writeOffItem, updateCart_eq]
    · have named : loanItemOf form item = some (.copy item) := loanItemOf_some pos (.inr ⟨two, le, rfl⟩)
      refine ⟨fun none => answer (loanWriteOffRule_notFound named none), fun l found same => answer ?_⟩
      rw [loanWriteOffRule_closes named found, same, writeOffItem, updateCopy_eq]

end Sys2Proof.Machine
end

section
/-! SUPPORT. The recall filters and the counters: what a slot matches, the match counts, RECALL SET, RECALL CLEAR, COUNTERS CLEAR (R172, R173,
R175 to R177, R180; O57). -/

namespace Sys2Proof.Machine

/-! ## Matching (R173, R174) -/

theorem partAgrees_iff (f : RecallSlot) (p : Content) : partAgrees f p = true ↔
    (f.title = 0 ∨ f.title = p.key.title) ∧ (f.medium = 0 ∨ f.medium = mediumCode p.key.medium) ∧ (f.edition = 0 ∨ f.edition = p.key.edition) := by
  simp only [partAgrees, Bool.and_eq_true, Bool.or_eq_true, beq_iff_eq, and_assoc]

theorem dayAgrees_iff (f : RecallSlot) (c : Cartridge) : dayAgrees f c = true ↔ f.day = 0 ∨ ∃ day, c.dupDay = some day ∧ day ≤ f.day := by
  cases made : c.dupDay <;> simp [dayAgrees, made]

theorem slotMatches_iff (c : Cartridge) (f : RecallSlot) : slotMatches c f = true ↔
    f.enabled = true ∧ (∃ p ∈ c.content, partAgrees f p = true) ∧ dayAgrees f c = true := by
  simp only [slotMatches, Bool.and_eq_true, List.any_eq_true, and_assoc]

theorem getElem_countMatches (c : Cartridge) (s : State) (i : Fin 16) :
    (countMatches c s).slots[i] = if slotMatches c s.slots[i] = true then hitSlot s.slots[i] else s.slots[i] :=
  getElem_mapVector _ _ _ _

theorem getElem_clearCounters (s : State) (i : Fin 16) : (clearCounters s).slots[i] = { s.slots[i] with hits := 0 } :=
  getElem_mapVector _ _ _ _

/-- A slot that there is takes its new record (R172). -/
theorem setSlot_eq (i : Fin 16) (f : RecallSlot) (s : State) : setSlot i f s = { s with slots := s.slots.set i.val f } := by
  have inBounds : s.slots.setIfInBounds i f = s.slots.set i.val f :=
    Vector.ext fun j hj => (Vector.getElem_setIfInBounds hj).trans (Vector.getElem_set _ hj).symm
  rw [setSlot, inBounds]

/-! ## RECALL SET (R176) -/

theorem actionOf_actionCode (a : RecallAction) : actionOf (actionCode a) = some a := by cases a <;> rfl

theorem exists_actionCode {n : Nat} (low : 1 ≤ n) (high : n ≤ 3) : ∃ a, actionCode a = n := by
  interval_cases n
  · exact ⟨.count, rfl⟩
  · exact ⟨.quarantine, rfl⟩
  · exact ⟨.withdraw, rfl⟩

theorem actionOf_unlisted {n : Nat} (h : n < 1 ∨ 3 < n) : actionOf n = none := by
  unfold actionOf
  split
  · omega
  · omega
  · omega
  · rfl

/-- At least one of the four fields is not 0 (R176). -/
theorem narrows_eq_false_iff (r : RecallRequest) : narrows r = false ↔ r.title = 0 ∧ r.medium = 0 ∧ r.edition = 0 ∧ r.day = 0 := by
  simp only [narrows, Bool.or_eq_false_iff, bne_eq_false_iff_eq, and_assoc]

/-- The fields of a RECALL SET that are out of their ranges (R176), whose reply is RANGE. -/
def RecallRequest.Bad (r : RecallRequest) : Prop :=
  15 < r.slot ∨ 1 < r.enabled ∨ 999999 < r.title ∨ 2 < r.medium ∨ r.action < 1 ∨ 3 < r.action ∨
    (r.title = 0 ∧ r.medium = 0 ∧ r.edition = 0 ∧ r.day = 0)

theorem recallSetRule_badFlag {r : RecallRequest} (h : 1 < r.enabled) (s : State) : recallSetRule r s = statusOnly .range s := by
  rw [recallSetRule, flagOf_beyond h]

theorem recallSetRule_badAction {r : RecallRequest} (h : r.action < 1 ∨ 3 < r.action) (s : State) : recallSetRule r s = statusOnly .range s := by
  rw [recallSetRule, actionOf_unlisted h]
  cases flagOf r.enabled <;> rfl

/-- With a flag and an action, the numbers decide (R176). -/
theorem recallSetRule_listed {r : RecallRequest} (flag : r.enabled ≤ 1) {a : RecallAction} (action : actionCode a = r.action) (s : State) :
    recallSetRule r s =
      if 15 < r.slot ∨ 999999 < r.title ∨ 2 < r.medium then statusOnly .range s
      else if !narrows r then statusOnly .range s
      else okWith [] (setSlot r.slot ⟨decide (r.enabled = 1), r.title, r.medium, r.edition, r.day, a, 0⟩ s) := by
  rw [recallSetRule, flagOf_flag flag, ← action, actionOf_actionCode]

theorem recallSetRule_range {r : RecallRequest} (bad : r.Bad) (s : State) : recallSetRule r s = (s, [0x05]) := by
  by_cases badFlag : 1 < r.enabled
  · exact recallSetRule_badFlag badFlag s
  by_cases badAction : r.action < 1 ∨ 3 < r.action
  · exact recallSetRule_badAction badAction s
  obtain ⟨a, action⟩ := exists_actionCode (n := r.action) (by omega) (by omega)
  rw [recallSetRule_listed (Nat.le_of_not_lt badFlag) action]
  by_cases beyond : 15 < r.slot ∨ 999999 < r.title ∨ 2 < r.medium
  · exact if_pos beyond
  · have blank : narrows r = false := (narrows_eq_false_iff r).2 (by unfold RecallRequest.Bad at bad; omega)
    rw [if_neg beyond, blank]
    rfl

theorem recallSetRule_sets {r : RecallRequest} (good : ¬r.Bad) {i : Fin 16} (slot : i.val = r.slot) {a : RecallAction}
    (action : actionCode a = r.action) (s : State) : recallSetRule r s =
      ({ s with slots := s.slots.set i.val ⟨decide (r.enabled = 1), r.title, r.medium, r.edition, r.day, a, 0⟩ }, [0x00]) := by
  unfold RecallRequest.Bad at good
  have narrow : narrows r = true := Bool.eq_true_of_not_eq_false fun h =>
    good (.inr (.inr (.inr (.inr (.inr (.inr ((narrows_eq_false_iff r).1 h)))))))
  rw [recallSetRule_listed (by omega) action, if_neg (by omega), narrow, ← slot, setSlot_eq]
  rfl

theorem recallRequest_bodyOf {slot enabled title medium edition day action : Nat} (h1 : slot < 256) (h2 : enabled < 256) (h3 : title < 16777216)
    (h4 : medium < 256) (h5 : edition < 256) (h6 : day < 65536) (h7 : action < 256) :
    recallRequest (bodyOf [(1, slot), (1, enabled), (3, title), (1, medium), (1, edition), (2, day), (1, action)]) =
      ⟨slot, enabled, title, medium, edition, day, action⟩ := by
  rw [recallRequest, RecallRequest.mk.injEq]
  refine ⟨field_head h1 _, ?_, ?_, ?_, ?_, ?_, ?_⟩
  · rw [field_skip _ (by decide)]
    exact field_head h2 _
  · iterate 2 rw [field_skip _ (by decide)]
    exact field_head h3 _
  · iterate 3 rw [field_skip _ (by decide)]
    exact field_head h4 _
  · iterate 4 rw [field_skip _ (by decide)]
    exact field_head h5 _
  · iterate 5 rw [field_skip _ (by decide)]
    exact field_head h6 _
  · iterate 6 rw [field_skip _ (by decide)]
    exact field_head h7 _

/-! ## RECALL CLEAR (R177) -/

theorem recallClearRule_range {slot : Nat} (h : 15 < slot) (ne : slot ≠ 255) (s : State) : recallClearRule slot s = (s, [0x05]) :=
  (if_neg ne).trans (if_pos h)

theorem recallClearRule_slot (i : Fin 16) (s : State) : recallClearRule i s =
    ({ s with slots := s.slots.set i.val ⟨false, 0, 0, 0, 0, .count, 0⟩ }, [0x00]) := by
  rw [recallClearRule, if_neg (by omega), if_neg (by omega), setSlot_eq]
  rfl

/-! ## The requests -/

section
variable {s t : State} {tag : Byte} {data : List Byte}

theorem exec_recallSet {body : List Byte} {r : RecallRequest} (fields : recallRequest body = r) (length : body.length = 10)
    (hs : canServe ⟨0x59, tag, body⟩ s = true) (ha : recallSetRule r s = (t, data)) :
    exec (.recallSet tag body) s = .next (t.replied 0xD9 tag data) :=
  exec_answered (rule := recallSetRule (recallRequest body)) rfl (by rw [fields]) rfl (by simp [bodyLengthOk, length]) rfl hs ha

theorem exec_recallClear {slot : Nat} (h : slot < 256) (hs : canServe ⟨0x5A, tag, bodyOf [(1, slot)]⟩ s = true)
    (ha : recallClearRule slot s = (t, data)) : exec (.recallClear tag (bodyOf [(1, slot)])) s = .next (t.replied 0xDA tag data) :=
  exec_answered (rule := recallClearRule (field _ 0 1)) rfl (by rw [field_head h]) rfl (by simp [bodyLengthOk]) rfl hs ha

theorem exec_countersClear (hs : canServe ⟨0x5C, tag, []⟩ s = true) :
    exec (.countersClear tag []) s = .next ((clearCounters s).replied 0xDC tag [0x00]) :=
  exec_answered (rule := fun t => okWith [] (clearCounters t)) rfl rfl rfl rfl rfl hs rfl

end

/-- Settles O57: matching field by field, the strongest action and the counts by the slots, each request by the lemma of its outcome. -/
theorem recallFiltersAndCounters : Obligations.RecallFiltersAndCounters := by
  unfold Obligations.RecallFiltersAndCounters
  refine ⟨fun c f => ?_, fun s c => ?_, fun s c => ⟨rfl, getElem_countMatches c s⟩, ?_, ?_, ?_⟩
  · simp only [slotMatches_iff, partAgrees_iff, dayAgrees_iff]
  · simp only [strongestAction, matchedAction_iff]
  · intro s tag slot enabled title medium edition day action h1 h2 h3 h4 h5 h6 h7 body hs bad
    have fields : recallRequest body = ⟨slot, enabled, title, medium, edition, day, action⟩ := recallRequest_bodyOf h1 h2 h3 h4 h5 h6 h7
    have length : body.length = 10 := length_bodyOf _
    have checks : bad ↔ RecallRequest.Bad ⟨slot, enabled, title, medium, edition, day, action⟩ := Iff.rfl
    exact ⟨fun outside => exec_recallSet fields length hs (recallSetRule_range (checks.1 outside) s),
      fun good i hi a ha => exec_recallSet fields length hs (recallSetRule_sets (mt checks.2 good) hi ha s)⟩
  · intro s tag slot h hs
    refine ⟨fun beyond ne => exec_recallClear h hs (recallClearRule_range beyond ne s), fun every => ?_, fun i hi => ?_⟩
    · exact exec_recallClear h hs (every ▸ rfl)
    · exact exec_recallClear h hs (hi ▸ recallClearRule_slot i s)
  · exact fun s tag hs => ⟨clearCounters s, exec_countersClear hs, rfl, getElem_clearCounters s, rfl⟩

end Sys2Proof.Machine
end

section
/-! SUPPORT. The step, command by command: the front of the queue, the check word through every command (R190), and when nothing is served
(R189, R190; O1, O3, O11, O14). -/

namespace Sys2Proof.Machine

/-! ## The command at the front of the queue (R183) -/

theorem step_front {s : State} {c : Instr} {rest : List Instr} (h : s.pending = c :: rest) :
    step s = exec c { s with pending := rest } := by simp only [step, h]

/-- Settles O1. -/
theorem stepRunsTheFrontCommand : Obligations.StepRunsTheFrontCommand := by
  unfold Obligations.StepRunsTheFrontCommand
  exact fun _ _ _ => step_front

/-- Settles O3: every command answers a next state that, among what `Preserves` names, keeps the queue. -/
theorem everyCommandCompletesAndKeepsTheQueue : Obligations.EveryCommandCompletesAndKeepsTheQueue := by
  unfold Obligations.EveryCommandCompletesAndKeepsTheQueue
  intro c s
  obtain ⟨t, next, kept⟩ := preserves_exec c s
  exact ⟨t, next, kept.pending⟩

/-! ## The kinds of command -/

/-- A command serves its frame, or is an event, or switches main power. -/
theorem command_cases (c : Instr) :
    (∃ f rule, ∀ s, exec c s = serve c f rule s) ∨ (∃ change, ∀ s, exec c s = event change s) ∨
      (∃ found modules sensed, c = .powerUp found modules sensed) ∨ c = .mainPowerFall := by
  by_cases up : ∃ found modules sensed, c = .powerUp found modules sensed
  · exact .inr (.inr (.inl up))
  by_cases fall : c = .mainPowerFall
  · exact .inr (.inr (.inr fall))
  cases hf : c.frame? with
  | some f => exact .inl ⟨f, exec_request hf⟩
  | none => exact .inr (.inl (exec_event hf (fun a m x e => up ⟨a, m, x, e⟩) fall))

/-! ## The check word (R190) -/

theorem checked_stamped (s : State) : s.stamped.checked := rfl

theorem checked_answered (f : Frame) (a : Answer) : (answered f a).checked := rfl

/-- A millisecond touches no record and not the check word. -/
theorem checked_tick {s : State} (h : s.checked) : (tick s).checked := by
  unfold tick
  split
  · exact h
  · exact h

theorem checked_serve {s : State} (c : Instr) (f : Frame) (rule : State → Answer) (h : s.checked) :
    ∃ t, serve c f rule s = .next t ∧ t.checked := by
  rcases serve_cases c f rule s with e | e | e
  · exact ⟨s, e, h⟩
  · exact ⟨_, e, checked_answered f _⟩
  · exact ⟨_, e, checked_answered f _⟩

theorem checked_event {s : State} (change : State → State) (h : s.checked) : ∃ t, event change s = .next t ∧ t.checked := by
  rcases event_cases change s with e | e
  · exact ⟨s, e, h⟩
  · exact ⟨_, e, checked_stamped _⟩

/-- Every command stamps what it leaves, or leaves the records and the check word as they are. -/
theorem checked_exec {s : State} (c : Instr) (h : s.checked) : ∃ t, exec c s = .next t ∧ t.checked := by
  rcases command_cases c with ⟨f, rule, e⟩ | ⟨change, e⟩ | ⟨found, modules, sensed, rfl⟩ | rfl
  · exact e s ▸ checked_serve c f rule h
  · exact e s ▸ checked_event change h
  · exact ⟨_, rfl, checked_stamped _⟩
  · exact ⟨powerFall s, rfl, h⟩

/-- Settles O11: the idle millisecond keeps the check word, and so does the command at the front, whichever it is. -/
theorem everyStepKeepsTheCheckWord : Obligations.EveryStepKeepsTheCheckWord := by
  unfold Obligations.EveryStepKeepsTheCheckWord
  intro s t h hs
  cases queue : s.pending with
  | nil =>
    obtain rfl : tick s = t := by simpa [step_idle queue] using hs
    exact checked_tick h
  | cons c rest =>
    have h' : ({ s with pending := rest } : State).checked := h
    obtain ⟨u, next, checked⟩ := checked_exec c h'
    obtain rfl : u = t := by simpa [step_front queue, next] using hs
    exact checked

/-! ## When nothing is served (R189, R190) -/

/-- CONTROLLER RESET is answered OK, and waits for its reply to go (R189). -/
theorem exec_controllerReset {s : State} {tag : Byte} (hs : canServe ⟨0x61, tag, []⟩ s = true) :
    exec (.controllerReset tag []) s = .next ({ s with resetStage := .replying }.replied 0xE1 tag [0x00]) :=
  exec_answered (rule := controllerResetRule) rfl rfl rfl rfl rfl hs rfl

/-- A request that cannot be served changes nothing. -/
theorem exec_request_refused {c : Instr} {f : Frame} {s : State} (hf : c.frame? = some f) (hs : canServe f s = false) :
    exec c s = .next s := by
  obtain ⟨rule, e⟩ := exec_request hf
  rw [e, serve_refused rule hs]

/-- Without main power only the two commands that switch it change anything (log 8). -/
theorem exec_unpowered {c : Instr} {s : State} (off : s.power = false) (up : ∀ found modules sensed, c ≠ .powerUp found modules sensed)
    (fall : c ≠ .mainPowerFall) : exec c s = .next s := by
  rcases command_cases c with ⟨f, rule, e⟩ | ⟨change, e⟩ | ⟨found, modules, sensed, e⟩ | e
  · rw [e, serve_refused rule (canServe_unpowered f off)]
  · rw [e, event_unpowered change off]
  · exact absurd e (up _ _ _)
  · exact absurd e fall

/-- Settles O14: neither a reset asked for nor main power off lets a request be served. -/
theorem serviceStopsForAResetAndWithoutPower : Obligations.ServiceStopsForAResetAndWithoutPower := by
  unfold Obligations.ServiceStopsForAResetAndWithoutPower
  exact ⟨fun _ _ => exec_controllerReset, fun _ f _ hf asked => exec_request_refused hf (canServe_resetting f asked), fun _ => rfl,
    fun _ _ => exec_unpowered⟩

end Sys2Proof.Machine
end

section
/-! SUPPORT. The link: the receiver byte by byte, a frame from its bytes, the intake queue, the discards, the transmitter, the checks of a
request's kind and length, and SUMMARY READ (R181 to R184, R188, R189; O16, O17, O18, O19). -/

namespace Sys2Proof.Machine

/-! ## A frame received whole (R182, R183) -/

theorem discardFrame_flagged (s : State) :
    discardFrame s = { s with rx := .hunting, linkErrors := min 255 (s.linkErrors + 1) }.flagged .linkError := setEvent_flagged _ _

/-- A frame of a length the link takes is queued, refused FULL or discarded, by its CHECK and the room in the intake queue. -/
theorem receiveFrame_eq {f : Frame} (h : f.body.length ≤ 1020) (check : Check) (s : State) :
    receiveFrame f check s =
      if check = frameCheck f then
        if s.intake.length < 4 then { s with rx := .hunting, intake := s.intake ++ [f] }
        else { s with rx := .hunting, tx := s.tx ++ [⟨if f.kind.toNat < 0x7F then f.kind + 0x80 else 0xFF, f.tag, [0x03]⟩] }
      else { s with rx := .hunting, linkErrors := min 255 (s.linkErrors + 1) }.flagged .linkError := by
  have fits : ¬ maxBody < f.body.length := Nat.not_lt.2 h
  by_cases good : check = frameCheck f
  · rw [receiveFrame, if_neg (not_or.2 ⟨fits, not_not.2 good⟩), if_pos good, ← replyKind_eq]
    rfl
  · rw [receiveFrame, if_pos (.inr good), if_neg good, discardFrame_flagged]

theorem receiveFrame_badCheck {f : Frame} {check : Check} (h : check ≠ frameCheck f) (s : State) :
    receiveFrame f check s = discardFrame s := if_pos (.inr h)

/-! ## One byte (R182) -/

theorem receiveByte_hunting {s : State} (h : s.rx = .hunting) (b : Byte) :
    receiveByte b s = if b = 0xC3 then { s with rx := .inFrame [] 0 } else s := by
  simp only [receiveByte, h]
  rfl

theorem receiveByte_inFrame {s : State} {bytes : List Byte} {gap : Nat} (h : s.rx = .inFrame bytes gap) (b : Byte) :
    receiveByte b s = frameBytes (bytes ++ [b]) s := by simp only [receiveByte, h]

/-- What the bytes after SYNC come to, by LENGTH once both its bytes are there. -/
theorem frameBytes_eq (bytes : List Byte) (s : State) :
    frameBytes bytes s =
      if bytes.length < 2 then { s with rx := .inFrame bytes 0 }
      else if 1020 < leNat (bytes.take 2) then discardFrame s
      else if bytes.length < 4 + leNat (bytes.take 2) + 2 then { s with rx := .inFrame bytes 0 }
      else receiveFrame (readFrame (leNat (bytes.take 2)) bytes).1 (readFrame (leNat (bytes.take 2)) bytes).2 s := rfl

/-- Part of a frame: LENGTH is not there yet, or it is one the link takes and more bytes are to come. -/
theorem frameBytes_part {bytes : List Byte}
    (h : bytes.length < 2 ∨ (leNat (bytes.take 2) ≤ 1020 ∧ bytes.length < 6 + leNat (bytes.take 2))) (s : State) :
    frameBytes bytes s = { s with rx := .inFrame bytes 0 } := by
  rw [frameBytes_eq]
  rcases h with few | ⟨length, short⟩
  · rw [if_pos few]
  · rw [if_neg (Nat.not_lt.2 length), if_pos (show bytes.length < 4 + leNat (bytes.take 2) + 2 by omega), ite_self]

/-- The two bytes of a LENGTH above 1,020. -/
theorem frameBytes_tooLong {low high : Byte} (h : 1020 < low.toNat + 256 * high.toNat) (s : State) :
    frameBytes [low, high] s = discardFrame s := by
  rw [frameBytes_eq, if_neg (show ¬ [low, high].length < 2 from Nat.lt_irrefl 2)]
  exact if_pos h

/-- `s` with these bytes of a frame taken, SYNC before them (R182). -/
def State.gathered (s : State) (bytes : List Byte) : State := { s with rx := .inFrame bytes 0 }.stamped

@[simp] theorem gathered_rx (s : State) (bytes : List Byte) : (s.gathered bytes).rx = .inFrame bytes 0 := rfl
@[simp] theorem gathered_gathered (s : State) (bytes more : List Byte) : (s.gathered bytes).gathered more = s.gathered more := rfl

theorem exec_byteReceived {s : State} (on : s.power = true) (b : Byte) : exec (.byteReceived b) s = .next (receiveByte b s).stamped :=
  event_powered (receiveByte b) on

/-- A byte within a frame is taken, and the gap starts again. -/
theorem exec_byteReceived_inFrame {s : State} (on : s.power = true) {bytes : List Byte} {gap : Nat} (h : s.rx = .inFrame bytes gap)
    {b : Byte} (part : bytes = [] ∨
      (leNat ((bytes ++ [b]).take 2) ≤ 1020 ∧ bytes.length + 1 < 6 + leNat ((bytes ++ [b]).take 2))) :
    exec (.byteReceived b) s = .next (s.gathered (bytes ++ [b])) := by
  rw [exec_byteReceived on, receiveByte_inFrame h, frameBytes_part, State.gathered]
  refine part.imp (fun none => ?_) (fun some => ?_)
  · simp [none]
  · simpa using some

/-! ## The discards and the transmitter (R181, R182, R189) -/

theorem gapTooLong_inFrame {s : State} {bytes : List Byte} {gap : Nat} (h : s.rx = .inFrame bytes gap) :
    gapTooLong s = discardFrame s := by simp only [gapTooLong, h]

theorem lengthTooLong_discards {length : Nat} (h : 1020 < length) (s : State) : lengthTooLong length s = discardFrame s := if_pos h

theorem isResetReply_iff (f : Frame) : isResetReply f = true ↔ f.kind = 0xE1 ∧ f.body = [0x00] := by
  simp only [isResetReply, Bool.and_eq_true, beq_iff_eq]
  rfl

theorem frameSent_cons {s : State} {f : Frame} {rest : List Frame} (h : s.tx = f :: rest) :
    frameSent s = { s with
      tx := rest
      resetStage := if s.resetStage = .replying ∧ f.kind = 0xE1 ∧ f.body = [0x00] then .due else s.resetStage } := by
  simp only [frameSent, h, isResetReply_iff]

/-- Settles O16: each event by what it does to the receiver, the intake queue or the frames made ready. -/
theorem framesInAndOut : Obligations.FramesInAndOut := by
  unfold Obligations.FramesInAndOut
  refine ⟨fun s b on => ⟨fun hunting start => ?_, fun hunting other => ?_, fun _ _ inFrame => exec_byteReceived_inFrame on inFrame⟩,
    fun s kind tag body on fits => ?_, fun s on => ?_, fun s f rest on sending => ?_⟩
  · rw [exec_byteReceived on, receiveByte_hunting hunting, if_pos start]
  · rw [exec_byteReceived on, receiveByte_hunting hunting, if_neg other]
  · have good : crc16 (leBytes 2 body.length ++ kind :: tag :: body) = frameCheck ⟨kind, tag, body⟩ := rfl
    refine ⟨fun room => (event_powered (receiveFrame _ _) on).trans ?_, fun full => (event_powered (receiveFrame _ _) on).trans ?_⟩
    · rw [receiveFrame_eq fits, if_pos good, if_pos room]
    · rw [receiveFrame_eq fits, if_pos good, if_neg (Nat.not_lt.2 full)]
  · rw [← discardFrame_flagged]
    refine ⟨fun bytes gap inFrame => ?_, fun length long => ?_, fun low high gap inFrame long => ?_, fun kind tag body check differs => ?_⟩
    · exact (event_powered gapTooLong on).trans (by rw [gapTooLong_inFrame inFrame])
    · exact (event_powered (lengthTooLong length.toNat) on).trans (by rw [lengthTooLong_discards long])
    · rw [exec_byteReceived on, receiveByte_inFrame inFrame, List.singleton_append, frameBytes_tooLong long]
    · have bad : check ≠ frameCheck ⟨kind, tag, body⟩ := differs
      exact (event_powered (receiveFrame _ check) on).trans (by rw [receiveFrame_badCheck bad])
  · exact (event_powered frameSent on).trans (by rw [frameSent_cons sending])

/-! ## A frame from its bytes (R181) -/

theorem after_cons {c : Instr} {s t : State} (h : exec c s = .next t) (cs : List Instr) : after (c :: cs) s = after cs t := by
  simp only [after, h]

theorem after_append {cs : List Instr} {s t : State} (h : after cs s = some t) (ds : List Instr) : after (cs ++ ds) s = after ds t := by
  induction cs generalizing s with
  | nil =>
    obtain rfl : s = t := by simpa [after] using h
    rfl
  | cons c cs ih =>
    obtain ⟨u, next, -⟩ := preserves_exec c s
    rw [after_cons next] at h
    rw [List.cons_append, after_cons next, ih h]

/-- The bytes that follow within a frame are taken one after another, as long as the frame is not whole. -/
theorem after_bytes {s : State} (on : s.power = true) (bytes more : List Byte) (length : leNat ((bytes ++ more).take 2) ≤ 1020)
    (short : (bytes ++ more).length < 6 + leNat ((bytes ++ more).take 2)) :
    after (more.map Instr.byteReceived) (s.gathered bytes) = some (s.gathered (bytes ++ more)) := by
  induction more generalizing bytes with
  | nil =>
    rw [List.append_nil]
    rfl
  | cons b more ih =>
    have shift : bytes ++ b :: more = (bytes ++ [b]) ++ more := by simp
    have part : bytes = [] ∨ (leNat ((bytes ++ [b]).take 2) ≤ 1020 ∧ bytes.length + 1 < 6 + leNat ((bytes ++ [b]).take 2)) := by
      refine or_iff_not_imp_left.2 fun started => ?_
      have both : 2 ≤ (bytes ++ [b]).length := by
        have := List.length_pos_iff.2 started
        simp only [List.length_append, List.length_singleton]
        omega
      rw [shift, List.take_append_of_le_length both] at length short
      simp only [List.length_append, List.length_singleton] at short
      exact ⟨length, by omega⟩
    rw [List.map_cons, after_cons (exec_byteReceived_inFrame (s := s.gathered bytes) on (gathered_rx s bytes) part), gathered_gathered]
    rw [shift] at length short ⊢
    exact ih _ length short

theorem length_covered (f : Frame) : (covered f).length = 4 + f.body.length := by
  simp only [covered, List.length_append, length_leBytes, List.length_cons]
  omega

/-- LENGTH is read back from the first two bytes of a frame. -/
theorem length_read {f : Frame} (h : f.body.length ≤ 1020) (rest : List Byte) : leNat ((covered f ++ rest).take 2) = f.body.length := by
  have first : (covered f ++ rest).take 2 = leBytes 2 f.body.length := rfl
  rw [first, leNat_leBytes_of_lt (by omega)]

/-- The frame and its CHECK are read back from the bytes that spell them. -/
theorem readFrame_covered (f : Frame) (check : Check) :
    readFrame f.body.length (covered f ++ leBytes 2 check.toNat) = (f, check) := by
  have kind : field (covered f ++ leBytes 2 check.toNat) 2 1 = f.kind.toNat := by simp [field, covered, leBytes, leNat]
  have tag : field (covered f ++ leBytes 2 check.toNat) 3 1 = f.tag.toNat := by simp [field, covered, leBytes, leNat]
  have body : ((covered f ++ leBytes 2 check.toNat).drop 4).take f.body.length = f.body := by simp [covered, leBytes]
  have sum : field (covered f ++ leBytes 2 check.toNat) (4 + f.body.length) 2 = check.toNat := by
    rw [field, ← length_covered, List.drop_left, List.take_of_length_le (length_leBytes 2 _).le, leNat_leBytes_of_lt check.isLt]
  rw [readFrame, kind, tag, body, sum, BitVec.ofNat_toNat, BitVec.ofNat_toNat, BitVec.ofNat_toNat, BitVec.setWidth_eq, BitVec.setWidth_eq,
    BitVec.setWidth_eq]

/-- With its last byte, a frame is received. -/
theorem frameBytes_whole {f : Frame} (h : f.body.length ≤ 1020) (check : Check) (s : State) :
    frameBytes (covered f ++ leBytes 2 check.toNat) s = receiveFrame f check s := by
  have size : (covered f ++ leBytes 2 check.toNat).length = 6 + f.body.length := by
    rw [List.length_append, length_covered, length_leBytes]
    omega
  rw [frameBytes_eq, length_read h, size, readFrame_covered, if_neg (by omega), if_neg (Nat.not_lt.2 h), if_neg (by omega)]

/-- What is received depends neither on the bytes gathered before nor on the check word, which is written anew. -/
theorem receiveFrame_gathered {f : Frame} (h : f.body.length ≤ 1020) (check : Check) (bytes : List Byte) (s : State) :
    (receiveFrame f check (s.gathered bytes)).stamped = (receiveFrame f check s).stamped := by
  have same : (s.gathered bytes).intake = s.intake := rfl
  rw [receiveFrame_eq h, receiveFrame_eq h, same]
  split
  · split <;> rfl
  · rfl

/-- SYNC, then every byte of a frame but the last of its CHECK, and the frame stands in the receiver (R182). -/
theorem after_sync {s : State} (on : s.power = true) (hunting : s.rx = .hunting) {f : Frame} (h : f.body.length ≤ 1020) (low : Byte) :
    after ((0xC3 :: (covered f ++ [low])).map Instr.byteReceived) s = some (s.gathered (covered f ++ [low])) := by
  have start : exec (.byteReceived 0xC3) s = .next (s.gathered []) := by
    rw [exec_byteReceived on, receiveByte_hunting hunting]
    rfl
  have short : (covered f ++ [low]).length < 6 + f.body.length := by
    rw [List.length_append, length_covered, List.length_singleton]
    omega
  rw [List.map_cons, after_cons start]
  exact after_bytes on [] _ ((length_read h [low]).le.trans h) (by rwa [List.nil_append, length_read h])

/-- Settles O17: the bytes gather in the receiver until the last of them, which receives the frame. -/
theorem frameIsReceivedFromItsBytes : Obligations.FrameIsReceivedFromItsBytes := by
  unfold Obligations.FrameIsReceivedFromItsBytes
  intro s f check on hunting fits
  obtain ⟨low, high, check_eq⟩ : ∃ low high, leBytes 2 check.toNat = [low, high] := ⟨_, _, rfl⟩
  have gathered := after_sync on hunting fits low
  have last : exec (.byteReceived high) (s.gathered (covered f ++ [low])) = .next (receiveFrame f check s).stamped := by
    rw [exec_byteReceived (s := s.gathered _) on, receiveByte_inFrame (gathered_rx s _), List.append_assoc, List.singleton_append, ← check_eq,
      frameBytes_whole fits, receiveFrame_gathered fits]
  calc after ((0xC3 :: covered f ++ leBytes 2 check.toNat).map Instr.byteReceived) s
      = after ((0xC3 :: (covered f ++ [low])).map Instr.byteReceived ++ [.byteReceived high]) s := by rw [check_eq]; simp
    _ = some (receiveFrame f check s).stamped := by rw [after_append gathered, after_cons last]; rfl
    _ = _ := by rw [receiveFrame_eq fits, ← hunting]; rfl

/-! ## The checks of kind and length (R181, R184) -/

/-- The kind table gives no length for a kind that it does not list. -/
theorem bodyLengthOk_unknownKind {kind : Byte} (tag : Byte) (body : List Byte) (h : kind ∉ requestKinds) :
    bodyLengthOk ⟨kind, tag, body⟩ = true := by
  have unlisted := code_of_kind h
  unfold bodyLengthOk
  dsimp only
  split
  pick_goal -1
  · rfl
  all_goals
    rename_i code
    exact absurd (show kind.toNat ∈ requestCodes by rw [code]; decide) unlisted

theorem replyKind_request : ∀ kind ∈ requestKinds, replyKind kind = kind + 0x80 := by decide

/-- Settles O18: an unlisted kind has no length to check and goes to the UNKNOWN KIND row; a wrong length never reaches the row's rule. -/
theorem kindAndLengthChecks : Obligations.KindAndLengthChecks := by
  unfold Obligations.KindAndLengthChecks
  refine ⟨fun s kind tag body unlisted hs => ?_, fun c f s hf head listed hs wrong => ?_⟩
  · exact exec_answered (rule := statusOnly .unknownKind) rfl rfl (headCommand_unknownKind tag body unlisted)
      (bodyLengthOk_unknownKind tag body unlisted) (replyKind_eq kind) hs rfl
  · obtain ⟨rule, e⟩ := exec_request hf
    rw [e, serve_wrongLength rule head hs wrong, answered_replied, replyKind_request _ listed]
    rfl

/-! ## SUMMARY READ (R188) -/

theorem summaryReadRule_eq (s : State) : summaryReadRule s =
    ({ s with
        events := ⟨false, false, false, false, false, false, false, false, false, false⟩
        resetCause := .none
        changed := ⟨false, false, false, false⟩
        bayMask := 0
        linkErrors := 0
        latch := false },
      0x00 :: summaryData s) := rfl

/-- Settles O19: the rule reports the summary it finds, the reset cause by its code, and clears it. -/
theorem summaryReadReportsAndClears : Obligations.SummaryReadReportsAndClears := by
  unfold Obligations.SummaryReadReportsAndClears
  intro s tag hs
  refine exec_answered (rule := summaryReadRule) rfl rfl rfl rfl rfl hs ?_
  rw [summaryReadRule_eq, summaryData]
  cases s.resetCause <;> rfl

end Sys2Proof.Machine
end
